-- ==== Sys2Proof/Word.lean ====
section
/-! DEFINITION. The word types of the Zhoas (01_encoding.md, preamble and R6; 03_registers.md R61). -/

set_option Elab.async false

namespace Sys2Proof

/-- A byte of memory. -/
abbrev Byte := BitVec 8
/-- A 32-bit instruction word or v-register lane. -/
abbrev Word := BitVec 32
/-- A 64-bit s-register or register pair. -/
abbrev DWord := BitVec 64

end Sys2Proof
end

