-- ==== Sys2Proof/Machine/Bits.lean ====
section
/-!
DEFINITION. Bit fields and two's complement on natural numbers, and little-endian bytes: the helpers every
other file computes with (01_encoding.md R6, R10; 04_integer.md R80 to R82).
-/

namespace Sys2Proof

/-- Bits `hi` down to `lo` of `x`. -/
def bits (x hi lo : Nat) : Nat := (x / 2 ^ lo) % 2 ^ (hi + 1 - lo)

/-- 1 for true and 0 for false. -/
def b2n (b : Bool) : Nat := if b then 1 else 0

/-- The two's complement value of the low `w` bits of `x`. -/
def toSigned (w x : Nat) : Int :=
  if x % 2 ^ w < 2 ^ (w - 1) then ((x % 2 ^ w : Nat) : Int)
  else ((x % 2 ^ w : Nat) : Int) - ((2 ^ w : Nat) : Int)

/-- The low `w` bits of an integer, as a natural number. -/
def wrapInt (w : Nat) (x : Int) : Nat := (x % ((2 ^ w : Nat) : Int)).toNat

/-- `x` of width `n`, sign-extended to `w` bits. -/
def signExt (n w x : Nat) : Nat := wrapInt w (toSigned n x)

/-- Bit `i` of `x` as a number. -/
def bitN (x i : Nat) : Nat := (x / 2 ^ i) % 2

/-- Is bit `i` of `x` set? -/
def bitB (x i : Nat) : Bool := bitN x i == 1

/-- `x` with bits `hi` down to `lo` replaced by `y`. -/
def setBits (x hi lo y : Nat) : Nat :=
  x - bits x hi lo * 2 ^ lo + (y % 2 ^ (hi + 1 - lo)) * 2 ^ lo

/-- `n` little-endian bytes of `x`. -/
def toBytes : Nat → Nat → List Byte
  | 0, _ => []
  | n + 1, x => BitVec.ofNat 8 x :: toBytes n (x / 256)

/-- The number that little-endian bytes hold. -/
def ofBytes : List Byte → Nat
  | [] => 0
  | b :: bs => b.toNat + 256 * ofBytes bs

/-- `n` bytes at an offset of a block held as a number, as in a node, a header or a descriptor. -/
def fieldAt (x off n : Nat) : Nat := bits x (8 * (off + n) - 1) (8 * off)

/-- Round `x` up to a multiple of `n`. -/
def roundUp (x n : Nat) : Nat := (x + n - 1) / n * n

/-- Quotient rounded up. -/
def ceilDiv (x n : Nat) : Nat := (x + n - 1) / n

/-- The k-th of the numbers in ranges, each of a first number and a count. -/
def nthIn : List (Nat × Nat) → Nat → Nat
  | [], _ => 0
  | r :: rs, k => if k < r.2 then r.1 + k else nthIn rs (k - r.2)

/-- The count of the numbers in ranges. -/
def countIn (rs : List (Nat × Nat)) : Nat := rs.foldl (fun k r => k + r.2) 0

/-- Ranges without one number. -/
def cutOne (n : Nat) (rs : List (Nat × Nat)) : List (Nat × Nat) :=
  rs.flatMap fun r =>
    if r.1 ≤ n && n < r.1 + r.2 then [(r.1, n - r.1), (n + 1, r.1 + r.2 - n - 1)].filter fun q => q.2 != 0 else [r]

/-- The number of set bits among the low `w` bits of `x`. -/
def popcount : Nat → Nat → Nat
  | 0, _ => 0
  | w + 1, x => x % 2 + popcount w (x / 2)

end Sys2Proof
end

