-- ==== Sys2Proof/Syntax.lean ====
section
/-!
DEFINITION. The syntax of the Zhoas: the operand records of the instruction words (01_encoding.md, R7 to R16)
and the one inductive `Instr`, with a constructor for every row of spec/opcode_table.json. The first rows are
the instruction words of Tables 1.9 and 1.10, each carrying the fields the decoder read; the rows after PGPROBE
are the indivisible device steps of 95_what_each_step_holds.md, each carrying what names its occasion.
-/

namespace Sys2Proof

/-- A guard: the predicate number and the sense of GS (R7, R18). -/
structure Guard where
  neg : Bool
  idx : BitVec 4
deriving DecidableEq, Repr

/-- The type codes of Table 1.7; code 15 is reserved (R15). -/
inductive NumType
  | i32 | n32 | i64 | n64 | f32 | f64 | f16 | bf16 | e4m3 | e5m2 | l6 | i8 | n8 | i16 | n16
deriving DecidableEq, Repr

/-- The rounding codes of Table 1.5. -/
inductive Rnd
  | rne | rz | rm | rp
deriving DecidableEq, Repr

/-- The scope codes of Table 1.8; code 7 is reserved (R15). -/
inductive Scope
  | grp | team | core | clu | die | pkg | sys
deriving DecidableEq, Repr

/-- The order codes of Table 1.6; on fence, plain stands for sc. -/
inductive MemOrd
  | plain | acq | rel | ar
deriving DecidableEq, Repr

/-- The hint codes of Table 1.6. -/
inductive Hint
  | normal | strm | keep | nl1
deriving DecidableEq, Repr

/-- The width codes of Table 1.6; code 7 is reserved. -/
inductive Width
  | b8 | b16 | b32 | b64 | b128 | s8 | s16
deriving DecidableEq, Repr

/-- A source operand of Table 1.4: a v-register, an s-register or an immediate, with its raw field. -/
inductive Src
  | v (n : BitVec 8)
  | s (n : BitVec 8)
  | imm (i : BitVec 8)
deriving DecidableEq, Repr

/-- The operands of a two-word instruction with the arithmetic layout of M (Tables 1.2, 1.3 and 1.5). -/
structure Std where
  g : Option Guard
  a : BitVec 8
  b : BitVec 8
  c : Src
  e : Src
  ty : NumType
  rnd : Rnd
  sat : Bool
  spec : Bool
  f : BitVec 4
deriving DecidableEq, Repr

/-- The operands of a two-word instruction with the memory layout of M (Table 1.6). -/
structure Mem where
  g : Option Guard
  a : BitVec 8
  b : BitVec 8
  c : Src
  e : Src
  hint : Hint
  spec : Bool
  scope : Scope
  ord : MemOrd
  wid : Width
deriving DecidableEq, Repr

/-- The operands of a one-word instruction (Table 1.2). -/
structure One where
  g : Option Guard
  a : BitVec 8
  b : BitVec 8
deriving DecidableEq, Repr

/-- The operands of an instruction with an I-tail (R12). -/
structure Imm where
  g : Option Guard
  a : BitVec 8
  b : BitVec 8
  imm : Word
deriving DecidableEq, Repr

/-- The instructions and device steps of the Zhoas: one constructor per row of spec/opcode_table.json. -/
inductive Instr
  /-- MOV (R74). -/
  | mov (x : Std)
  /-- MOVI (R74). -/
  | movi (x : Imm)
  /-- MOVS (R74). -/
  | movs (x : One)
  /-- RDLANE (R75). -/
  | rdlane (x : Std)
  /-- WRLANE (R75). -/
  | wrlane (x : Std)
  /-- LXCH (R75). -/
  | lxch (x : Std)
  /-- PFOLD (R75). -/
  | pfold (x : Std)
  /-- MATCH (R75). -/
  | matchv (x : Std)
  /-- REDUX (R75). -/
  | redux (x : Std)
  /-- PLOP (R77). -/
  | plop (x : Std)
  /-- PMASK (R77). -/
  | pmask (x : Std)
  /-- PSET (R77). -/
  | pset (x : Std)
  /-- CHK (R78). -/
  | chk (x : Std)
  /-- PTEST (R78). -/
  | ptest (x : Std)
  /-- PSCRUB (R78). -/
  | pscrub (x : Std)
  /-- IADD (R82). -/
  | iadd (x : Std)
  /-- ISUB (R82). -/
  | isub (x : Std)
  /-- IADDC (R82). -/
  | iaddc (x : Std)
  /-- ISUBB (R82). -/
  | isubb (x : Std)
  /-- IMUL (R82). -/
  | imul (x : Std)
  /-- IMULHI (R82). -/
  | imulhi (x : Std)
  /-- IMAD (R82). -/
  | imad (x : Std)
  /-- IMADW (R82). -/
  | imadw (x : Std)
  /-- IABS (R82). -/
  | iabs (x : Std)
  /-- INEG (R82). -/
  | ineg (x : Std)
  /-- IMIN (R82). -/
  | imin (x : Std)
  /-- IMAX (R82). -/
  | imax (x : Std)
  /-- SHL (R85). -/
  | shl (x : Std)
  /-- SHR (R85). -/
  | shr (x : Std)
  /-- SRA (R85). -/
  | sra (x : Std)
  /-- ROT (R85). -/
  | rot (x : Std)
  /-- AND (R84). -/
  | and (x : Std)
  /-- OR (R84). -/
  | or (x : Std)
  /-- XOR (R84). -/
  | xor (x : Std)
  /-- NOT (R84). -/
  | not (x : Std)
  /-- BLOGIC (R84). -/
  | blogic (x : Std)
  /-- POPC (R86). -/
  | popc (x : Std)
  /-- CLZ (R86). -/
  | clz (x : Std)
  /-- CTZ (R86). -/
  | ctz (x : Std)
  /-- BREV (R86). -/
  | brev (x : Std)
  /-- BFE (R86). -/
  | bfe (x : Std)
  /-- BFI (R86). -/
  | bfi (x : Std)
  /-- BPICK (R86). -/
  | bpick (x : Std)
  /-- ICMP (R87). -/
  | icmp (x : Std)
  /-- ISEL (R87). -/
  | isel (x : Std)
  /-- LEA (R87). -/
  | lea (x : Std)
  /-- SRD (R74). -/
  | srd (x : One)
  /-- FADD (R113). -/
  | fadd (x : Std)
  /-- FSUB (R113). -/
  | fsub (x : Std)
  /-- FMUL (R113). -/
  | fmul (x : Std)
  /-- FFMA (R113). -/
  | ffma (x : Std)
  /-- FMIN (R113). -/
  | fmin (x : Std)
  /-- FMAX (R113). -/
  | fmax (x : Std)
  /-- FCMP (R113). -/
  | fcmp (x : Std)
  /-- FROUND (R114). -/
  | fround (x : Std)
  /-- FCLASS (R114). -/
  | fclass (x : Std)
  /-- FLDEXP (R114). -/
  | fldexp (x : Std)
  /-- CVT (R118). -/
  | cvt (x : Std)
  /-- FDIVFIX (R117). -/
  | fdivfix (x : Std)
  /-- FREDUX (R120). -/
  | fredux (x : Std)
  /-- FDP2 (R119). -/
  | fdp2 (x : Std)
  /-- IDP4 (R119). -/
  | idp4 (x : Std)
  /-- LMUL (R119). -/
  | lmul (x : Std)
  /-- FRCP (R115). -/
  | frcp (x : Std)
  /-- FRSQ (R115). -/
  | frsq (x : Std)
  /-- FSQRT (R115). -/
  | fsqrt (x : Std)
  /-- FEXP2 (R115). -/
  | fexp2 (x : Std)
  /-- FLOG2 (R115). -/
  | flog2 (x : Std)
  /-- FSIN (R115). -/
  | fsin (x : Std)
  /-- FCOS (R115). -/
  | fcos (x : Std)
  /-- PKOP (R119). -/
  | pkop (x : Std)
  /-- PKMUL (R119). -/
  | pkmul (x : Std)
  /-- PKFMA (R119). -/
  | pkfma (x : Std)
  /-- LD (R208). -/
  | ld (x : Mem)
  /-- ST (R209). -/
  | st (x : Mem)
  /-- ATOM (R210). -/
  | atom (x : Mem)
  /-- RED (R210). -/
  | red (x : Mem)
  /-- PF (R211). -/
  | pf (x : Mem)
  /-- FENCE (R212). -/
  | fence (x : Mem)
  /-- LDL (R181). -/
  | ldl (x : Std)
  /-- LDL_ADDR (R181). -/
  | ldlAddr (x : Std)
  /-- STL (R181). -/
  | stl (x : Std)
  /-- ATML (R181). -/
  | atml (x : Std)
  /-- CPL (R231). -/
  | cpl (x : Std)
  /-- CPX_EXPAND (R232). -/
  | cpxExpand (x : Std)
  /-- CPX_COMPACT (R232). -/
  | cpxCompact (x : Std)
  /-- CPZ (R231). -/
  | cpz (x : Std)
  /-- TDRAIN (R271). -/
  | tdrain (x : Std)
  /-- TFEED (R271). -/
  | tfeed (x : Std)
  /-- SFBLEND (R288). -/
  | sfblend (x : Std)
  /-- SFDEPTH (R289). -/
  | sfdepth (x : Std)
  /-- SFLD (R287). -/
  | sfld (x : Std)
  /-- SFST (R287). -/
  | sfst (x : Std)
  /-- TEX (R310). -/
  | tex (x : Std)
  /-- TEXG (R310). -/
  | texg (x : Std)
  /-- TEXQ (R310). -/
  | texq (x : Std)
  /-- TRACE (R313). -/
  | trace (x : Std)
  /-- BRA (R150). -/
  | bra (x : Imm)
  /-- BRX (R157). -/
  | brx (x : Imm)
  /-- BRI (R151). -/
  | bri (x : One)
  /-- CALL (R151). -/
  | call (x : Imm)
  /-- RET (R151). -/
  | ret (x : One)
  /-- SETMT (R153). -/
  | setmt (x : Imm)
  /-- SETMT_R (R153). -/
  | setmtR (x : Imm)
  /-- EXIT (R154). -/
  | exit (x : One)
  /-- NOP (R154). -/
  | nop (x : One)
  /-- YLD (R154). -/
  | yld (x : One)
  /-- BRK (R154). -/
  | brk (x : One)
  /-- MOV_U (R74). -/
  | movU (x : One)
  /-- MOVI_U (R74). -/
  | moviU (x : Imm)
  /-- MOVIH (R74). -/
  | movih (x : Imm)
  /-- SSR (R74). -/
  | ssr (x : One)
  /-- SWR (R74). -/
  | swr (x : One)
  /-- PLOP_U (R77). -/
  | plopU (x : Std)
  /-- IADD_U (R82). -/
  | iaddU (x : Std)
  /-- ISUB_U (R82). -/
  | isubU (x : Std)
  /-- IADDC_U (R82). -/
  | iaddcU (x : Std)
  /-- ISUBB_U (R82). -/
  | isubbU (x : Std)
  /-- IMUL_U (R82). -/
  | imulU (x : Std)
  /-- IMULHI_U (R82). -/
  | imulhiU (x : Std)
  /-- IMAD_U (R82). -/
  | imadU (x : Std)
  /-- IMADW_U (R82). -/
  | imadwU (x : Std)
  /-- IABS_U (R82). -/
  | iabsU (x : Std)
  /-- INEG_U (R82). -/
  | inegU (x : Std)
  /-- IMIN_U (R82). -/
  | iminU (x : Std)
  /-- IMAX_U (R82). -/
  | imaxU (x : Std)
  /-- SHL_U (R85). -/
  | shlU (x : Std)
  /-- SHR_U (R85). -/
  | shrU (x : Std)
  /-- SRA_U (R85). -/
  | sraU (x : Std)
  /-- ROT_U (R85). -/
  | rotU (x : Std)
  /-- AND_U (R84). -/
  | andU (x : Std)
  /-- OR_U (R84). -/
  | orU (x : Std)
  /-- XOR_U (R84). -/
  | xorU (x : Std)
  /-- NOT_U (R84). -/
  | notU (x : Std)
  /-- BLOGIC_U (R84). -/
  | blogicU (x : Std)
  /-- POPC_U (R86). -/
  | popcU (x : Std)
  /-- CLZ_U (R86). -/
  | clzU (x : Std)
  /-- CTZ_U (R86). -/
  | ctzU (x : Std)
  /-- BREV_U (R86). -/
  | brevU (x : Std)
  /-- BFE_U (R86). -/
  | bfeU (x : Std)
  /-- BFI_U (R86). -/
  | bfiU (x : Std)
  /-- BPICK_U (R86). -/
  | bpickU (x : Std)
  /-- ICMP_U (R87). -/
  | icmpU (x : Std)
  /-- ISEL_U (R87). -/
  | iselU (x : Std)
  /-- LEA_U (R87). -/
  | leaU (x : Std)
  /-- SLD (R208). -/
  | sld (x : Mem)
  /-- SST (R209). -/
  | sst (x : Mem)
  /-- SATOM (R210). -/
  | satom (x : Mem)
  /-- FENCE_U (R212). -/
  | fenceU (x : Mem)
  /-- MON (R213). -/
  | mon (x : Std)
  /-- MONW (R213). -/
  | monw (x : Std)
  /-- KMAP (R191). -/
  | kmap (x : Std)
  /-- KUNMAP (R191). -/
  | kunmap (x : Std)
  /-- KWB (R191). -/
  | kwb (x : Std)
  /-- KWB_ALL (R191). -/
  | kwbAll (x : Std)
  /-- KINV (R191). -/
  | kinv (x : Std)
  /-- CPST (R234). -/
  | cpst (x : Std)
  /-- CPW (R235). -/
  | cpw (x : Std)
  /-- SFALLOC (R291). -/
  | sfalloc (x : Std)
  /-- SFFREE (R291). -/
  | sffree (x : Std)
  /-- SFPIN (R291). -/
  | sfpin (x : Std)
  /-- SFPIN_UNPIN (R291). -/
  | sfpinUnpin (x : Std)
  /-- SFEVICT (R291). -/
  | sfevict (x : Std)
  /-- SFMAP (R291). -/
  | sfmap (x : Std)
  /-- VQPUSH (R295). -/
  | vqpush (x : Std)
  /-- VQFENCE (R293). -/
  | vqfence (x : One)
  /-- RSBIND (R298). -/
  | rsbind (x : Std)
  /-- UBRA (R152). -/
  | ubra (x : Imm)
  /-- UJMP (R152). -/
  | ujmp (x : One)
  /-- UCALL (R152). -/
  | ucall (x : Imm)
  /-- URET (R152). -/
  | uret (x : One)
  /-- LOOP (R155). -/
  | loop (x : Imm)
  /-- EXIT_U (R154). -/
  | exitU (x : One)
  /-- NOP_U (R154). -/
  | nopU (x : One)
  /-- HWAIT (R162). -/
  | hwait (x : One)
  /-- BRK_U (R154). -/
  | brkU (x : One)
  /-- TRAP (R341). -/
  | trap (x : One)
  /-- HTEST (R162). -/
  | htest (x : One)
  /-- HCANCEL (R163). -/
  | hcancel (x : One)
  /-- REGION (R341). -/
  | region (x : One)
  /-- FCONT (R342). -/
  | fcont (x : Imm)
  /-- FCONT_CLR (R342). -/
  | fcontClr (x : Imm)
  /-- FRET (R343). -/
  | fret (x : One)
  /-- BINIT (R170). -/
  | binit (x : Std)
  /-- BARR (R170). -/
  | barr (x : Std)
  /-- BWAIT (R170). -/
  | bwait (x : Std)
  /-- BARW (R170). -/
  | barw (x : Std)
  /-- BINV (R170). -/
  | binv (x : Std)
  /-- BTEST (R170). -/
  | btest (x : Std)
  /-- RGWAIT (R171). -/
  | rgwait (x : Std)
  /-- RGWAIT_TEST (R171). -/
  | rgwaitTest (x : Std)
  /-- RGADV (R171). -/
  | rgadv (x : Std)
  /-- GDEC (R139). -/
  | gdec (x : Std)
  /-- GADD (R139). -/
  | gadd (x : Std)
  /-- GSIG (R139). -/
  | gsig (x : Std)
  /-- MLEASE (R265). -/
  | mlease (x : Std)
  /-- MFREE (R265). -/
  | mfree (x : One)
  /-- MMA (R266). -/
  | mma (x : Std)
  /-- MMA_RESUME (R267). -/
  | mmaResume (x : Std)
  /-- MMAS (R266). -/
  | mmas (x : Std)
  /-- MMO (R266). -/
  | mmo (x : Std)
  /-- MZERO (R268). -/
  | mzero (x : Std)
  /-- MLD (R269). -/
  | mld (x : Std)
  /-- MST (R269). -/
  | mst (x : Std)
  /-- MREADY (R270). -/
  | mready (x : One)
  /-- MROW (R270). -/
  | mrow (x : One)
  /-- TIDSET (R250). -/
  | tidset (x : Std)
  /-- TIDINV (R250). -/
  | tidinv (x : One)
  /-- TIDQ (R250). -/
  | tidq (x : Std)
  /-- TIDQ_STATE (R250). -/
  | tidqState (x : Std)
  /-- COLDECL (R325). -/
  | coldecl (x : Std)
  /-- COLAG (R327). -/
  | colag (x : Std)
  /-- COLRS (R327). -/
  | colrs (x : Std)
  /-- COLAA (R327). -/
  | colaa (x : Std)
  /-- COLBAR (R327). -/
  | colbar (x : Std)
  /-- CPRIO (R321). -/
  | cprio (x : Std)
  /-- RFE (R344). -/
  | rfe (x : One)
  /-- CKILL (R58). -/
  | ckill (x : One)
  /-- CRCL (R60). -/
  | crcl (x : One)
  /-- TLBINV_PAGE (R224). -/
  | tlbinvPage (x : Std)
  /-- TLBINV_RANGE (R224). -/
  | tlbinvRange (x : Std)
  /-- TLBINV_CID (R224). -/
  | tlbinvCid (x : Std)
  /-- TLBINV_ALL (R224). -/
  | tlbinvAll (x : Std)
  /-- PGPROBE (R225). -/
  | pgprobe (x : Std)
  /-- CTXCMD_OPEN (R42). -/
  | ctxcmdOpen (cid ien vec : Nat) (host : Bool)
  /-- CTXCMD_KILL (R43). -/
  | ctxcmdKill (cid ien vec : Nat) (host : Bool)
  /-- CTXCMD_KILLRETIRE (R43). -/
  | ctxcmdKillretire (cid ien vec : Nat) (host : Bool)
  /-- CTXCMD_RECLAIM (R43). -/
  | ctxcmdReclaim (cid ien vec : Nat) (host : Bool)
  /-- CTXCMD_RESERVED (R43). -/
  | ctxcmdReserved (cmd cid ien vec : Nat) (host : Bool)
  /-- CTXCMD_COMPLETE (R43). -/
  | ctxcmdComplete (cid : Nat)
  /-- RECLAIM_QUIET (R60). -/
  | reclaimQuiet (cid : Nat)
  /-- INCARNATION_UPDATE (R45). -/
  | incarnationUpdate (id : Nat)
  /-- INCARNATION_ACK (R52). -/
  | incarnationAck (id : Nat)
  /-- TARGET_REQUEST (R46). -/
  | targetRequest (id : Nat)
  /-- RESPONSE_ARRIVAL (R47). -/
  | responseArrival (id : Nat)
  /-- STORE_DENIAL_REPORT (R57). -/
  | storeDenialReport (id : Nat)
  /-- L1_EVICTION (R192). -/
  | l1Eviction (core line : Nat)
  /-- SNOOP_INVALIDATE (R185). -/
  | snoopInvalidate (id : Nat)
  /-- SLICE_AGE_TIMEOUT (R320). -/
  | sliceAgeTimeout (slice : Nat)
  /-- NODE_NOTIFICATION (R130). -/
  | nodeNotification (id : Nat)
  /-- INSTANCE_DEQUEUE (R133). -/
  | instanceDequeue (die : Nat)
  /-- BULK_COPY_COMPLETE (R132). -/
  | bulkCopyComplete (ticket : Nat)
  /-- INSTANCE_FINISH (R132). -/
  | instanceFinish (ticket : Nat)
  /-- BIND_SUBMIT (R137). -/
  | bindSubmit (die slot cmd : Nat) (host : Bool)
  /-- TEAM_END (R138). -/
  | teamEnd (team : Nat)
  /-- STARVATION_TIMEOUT (R141). -/
  | starvationTimeout (team group : Nat)
  /-- PATH_AGEING_EXPIRY (R145). -/
  | pathAgeingExpiry (team group path : Nat)
  /-- SATELLITE_FORM (R158). -/
  | satelliteForm (team : Nat)
  /-- SPAWN_WAIT_TIMEOUT (R158). -/
  | spawnWaitTimeout (team : Nat)
  /-- BARRIER_COPY_COMPLETION (R168). -/
  | barrierCopyCompletion (id : Nat)
  /-- PAGE_WALK_COMPLETE (R216). -/
  | pageWalkComplete (id : Nat)
  /-- FAULT_NOTICE_WRITE (R223). -/
  | faultNoticeWrite (id : Nat)
  /-- COPY_PERFORMED (R228). -/
  | copyPerformed (id : Nat)
  /-- COPY_FAILURE_REPORT (R229). -/
  | copyFailureReport (id : Nat)
  /-- STAMP_WRITE (R234). -/
  | stampWrite (id : Nat)
  /-- CPW_COMPLETE (R235). -/
  | cpwComplete (id : Nat)
  /-- LEASE_GRANT (R255). -/
  | leaseGrant (core : Nat)
  /-- MATRIX_OP_COMPLETE (R266). -/
  | matrixOpComplete (core : Nat)
  /-- MATRIX_OP_STOP (R260). -/
  | matrixOpStop (core : Nat)
  /-- COLLECTIVE_COMPLETE (R328). -/
  | collectiveComplete (id : Nat)
  /-- SURFACE_OP_APPLY (R283). -/
  | surfaceOpApply (id : Nat)
  /-- TILE_SPILL (R280). -/
  | tileSpill (cid sid tile : Nat)
  /-- TILE_RETURN (R280). -/
  | tileReturn (cid sid tile : Nat)
  /-- SFEVICT_COMPLETE (R291). -/
  | sfevictComplete (id : Nat)
  /-- PUSH_ARRIVAL (R296). -/
  | pushArrival (id : Nat)
  /-- RSBIND_ARRIVAL (R298). -/
  | rsbindArrival (id : Nat)
  /-- SEQUENCER_DRAIN (R296). -/
  | sequencerDrain (ticket : Nat)
  /-- PRIMITIVE_RASTER (R300). -/
  | primitiveRaster (id : Nat)
  /-- PIXEL_GROUP_IDLE (R302). -/
  | pixelGroupIdle (ticket tile : Nat)
  /-- PIXEL_GROUP_LAUNCH (R303). -/
  | pixelGroupLaunch (id : Nat)
  /-- TEXTURE_RESULT (R310). -/
  | textureResult (id : Nat)
  /-- TRACE_RESULT (R313). -/
  | traceResult (id : Nat)
  /-- MONITOR_WAKE (R213). -/
  | monitorWake (team group : Nat)
  /-- REGION_COMMIT (R355). -/
  | regionCommit (team group path : Nat)
  /-- WATCHDOG_EXPIRY (R359). -/
  | watchdogExpiry (team group : Nat)
  /-- PREEMPT_SAVE (R345). -/
  | preemptSave (die slot : Nat) (host : Bool)
  /-- SAVE_COMPLETE (R346). -/
  | saveComplete (team : Nat)
  /-- SERVICE_RETIRE_BANK (R376). -/
  | serviceRetireBank (arg : Nat) (host : Bool)
  /-- SERVICE_RETURN_BANK (R376). -/
  | serviceReturnBank (arg : Nat) (host : Bool)
  /-- SERVICE_RETIRE_LINK_LANE (R376). -/
  | serviceRetireLinkLane (arg : Nat) (host : Bool)
  /-- SERVICE_RETURN_LINK_LANE (R376). -/
  | serviceReturnLinkLane (arg : Nat) (host : Bool)
  /-- SERVICE_RETIRE_VBUS_LANE (R376). -/
  | serviceRetireVbusLane (arg : Nat) (host : Bool)
  /-- SERVICE_RETURN_VBUS_LANE (R376). -/
  | serviceReturnVbusLane (arg : Nat) (host : Bool)
  /-- SERVICE_RETIRE_CORE (R376). -/
  | serviceRetireCore (arg : Nat) (host : Bool)
  /-- SERVICE_RETURN_CORE (R376). -/
  | serviceReturnCore (arg : Nat) (host : Bool)
  /-- SERVICE_RETIRE_CLUSTER (R376). -/
  | serviceRetireCluster (arg : Nat) (host : Bool)
  /-- SERVICE_RETURN_CLUSTER (R376). -/
  | serviceReturnCluster (arg : Nat) (host : Bool)
  /-- SERVICE_COMMAND_DONE (R376). -/
  | serviceCommandDone
  /-- CLASS_CONTROL_WRITE (R318). -/
  | classControlWrite (die cls value : Nat) (host : Bool)
  /-- POWER_LIMIT_WRITE (R377). -/
  | powerLimitWrite (value : Nat) (host : Bool)
  /-- CLOCK_THROTTLE (R377). -/
  | clockThrottle (footing : Bool) (sixteenths : Nat)
  /-- BANK_OVERHEAT (R377). -/
  | bankOverheat (bank : Nat)
  /-- BANK_COOLED (R377). -/
  | bankCooled (bank : Nat)
  /-- ATTESTATION_REQUEST (R371). -/
  | attestationRequest (host : Bool)
  /-- ATTESTATION_DONE (R371). -/
  | attestationDone
  /-- REGISTER_WRITE (R378). -/
  | registerWrite (bar off size value : Nat) (host : Bool)
  /-- GRAPH_PORT_READ (R364). -/
  | graphPortRead (k : Nat)
  /-- GRAPH_PORT_ADD (R364). -/
  | graphPortAdd (k d : Nat)
  /-- GRAPH_PORT_DEC (R364). -/
  | graphPortDec (k d : Nat)
  /-- HOST_DEBUG_READ (R363). -/
  | hostDebugRead (off size : Nat)
  /-- HOST_DEBUG_WRITE (R363). -/
  | hostDebugWrite (off size value : Nat)
  /-- HOST_UNSUPPORTED_REQUEST (R361). -/
  | hostUnsupportedRequest (bar off size : Nat) (write : Bool)
  /-- REMOTE_REQUEST (R367). -/
  | remoteRequest (port dev cid icn kind pa size value : Nat)
  /-- LINK_TRAINED (R368). -/
  | linkTrained (port lanes : Nat)
  /-- LINK_RECOVERY (R368). -/
  | linkRecovery (port : Nat)
  /-- LINK_RECOVERY_TIMEOUT (R368). -/
  | linkRecoveryTimeout (port : Nat)
  /-- LINK_PEER_LOST (R368). -/
  | linkPeerLost (port : Nat)
  /-- MORTAR_REPAIR (R322). -/
  | mortarRepair (module : Nat)
  /-- MORTAR_LOSS (R322). -/
  | mortarLoss (module : Nat)
  /-- VBUS_LANE_REPAIR (R323). -/
  | vbusLaneRepair (lane : Nat)
  /-- VBUS_RETRAIN (R323). -/
  | vbusRetrain (die : Nat)
  /-- HBM_UNCORRECTABLE (R358). -/
  | hbmUncorrectable (line : Nat)
  /-- BOOT (R369). -/
  | boot
  /-- FIRMWARE_UPDATE (R370). -/
  | firmwareUpdate (image : Nat)
  /-- ILLEGAL_ENCODING (R24). -/
  | illegalEncoding
  /-- INSTRUCTION_FETCH_FAULT (R28). -/
  | instructionFetchFault (code va : Nat)
  /-- CACHES_REPORT_QUIET (R52). -/
  | cachesReportQuiet (target cid : Nat)
  /-- VERTICAL_BUS_UNFREEZE (R323). -/
  | verticalBusUnfreeze (die : Nat)
  /-- MORTAR_MODULE_RETURN (R322). -/
  | mortarModuleReturn (module : Nat)
deriving DecidableEq, Repr

end Sys2Proof
end

