-- ==== Sys2Proof/Machine/Fields.lean ====
section
/-!
DEFINITION. The fields of an instruction's words (01_encoding.md, R7 to R16), the operand records they stand for,
and the words they are laid out in. Every bit of both words is in exactly one field.
-/

namespace Sys2Proof

/-- The fields of the first word (Table 1.1) and the tail. A one-word instruction has tail 0. -/
structure Fields where
  dom : Bool
  x : Bool
  ge : Bool
  gs : Bool
  g : BitVec 4
  op : BitVec 8
  a : BitVec 8
  b : BitVec 8
  tail : Word
deriving DecidableEq, Repr

/-- The fields of a first word and a tail (Table 1.2). -/
def Fields.ofWords (w t : Word) : Fields :=
  { dom := w.getLsbD 31, x := w.getLsbD 30, ge := w.getLsbD 29, gs := w.getLsbD 28
    g := w.extractLsb' 24 4, op := w.extractLsb' 16 8, a := w.extractLsb' 8 8, b := w.extractLsb' 0 8
    tail := t }

/-- The first word that holds the fields. -/
def Fields.first (f : Fields) : Word :=
  (BitVec.ofBool f.dom ++ BitVec.ofBool f.x ++ BitVec.ofBool f.ge ++ BitVec.ofBool f.gs ++ f.g ++ f.op ++ f.a ++ f.b)

/-- C of the standard tail (Table 1.3). -/
def Fields.c (f : Fields) : BitVec 8 := f.tail.extractLsb' 24 8
/-- E of the standard tail. -/
def Fields.e (f : Fields) : BitVec 8 := f.tail.extractLsb' 16 8
/-- CK of the standard tail. -/
def Fields.ck (f : Fields) : BitVec 2 := f.tail.extractLsb' 14 2
/-- EK of the standard tail. -/
def Fields.ek (f : Fields) : BitVec 2 := f.tail.extractLsb' 12 2
/-- The modifier field M of the standard tail. -/
def Fields.m (f : Fields) : BitVec 12 := f.tail.extractLsb' 0 12
/-- TYPE of the arithmetic layout (Table 1.5). -/
def Fields.ty (f : Fields) : BitVec 4 := f.tail.extractLsb' 0 4
/-- RND of the arithmetic layout. -/
def Fields.rnd (f : Fields) : BitVec 2 := f.tail.extractLsb' 4 2
/-- SAT of the arithmetic layout. -/
def Fields.sat (f : Fields) : Bool := f.tail.getLsbD 6
/-- SP, in both layouts (Tables 1.5 and 1.6). -/
def Fields.sp (f : Fields) : Bool := f.tail.getLsbD 9
/-- The function code F = FH:FL of the arithmetic layout. -/
def Fields.f (f : Fields) : BitVec 4 := f.tail.extractLsb' 10 2 ++ f.tail.extractLsb' 7 2
/-- WID of the memory layout (Table 1.6). -/
def Fields.wid (f : Fields) : BitVec 3 := f.tail.extractLsb' 0 3
/-- Bit 3 of the memory layout, reserved. -/
def Fields.bit3 (f : Fields) : Bool := f.tail.getLsbD 3
/-- ORD of the memory layout. -/
def Fields.ord (f : Fields) : BitVec 2 := f.tail.extractLsb' 4 2
/-- SCOPE of the memory layout. -/
def Fields.scope (f : Fields) : BitVec 3 := f.tail.extractLsb' 6 3
/-- HINT of the memory layout. -/
def Fields.hint (f : Fields) : BitVec 2 := f.tail.extractLsb' 10 2

/-- The standard tail of its parts (Table 1.3). -/
def stdTail (c e : BitVec 8) (ck ek : BitVec 2) (m : BitVec 12) : Word := c ++ e ++ ck ++ ek ++ m

/-- M in the arithmetic layout (Table 1.5). -/
def arithM (f : BitVec 4) (sp sat : Bool) (rnd : BitVec 2) (ty : BitVec 4) : BitVec 12 :=
  f.extractLsb' 2 2 ++ BitVec.ofBool sp ++ f.extractLsb' 0 2 ++ BitVec.ofBool sat ++ rnd ++ ty

/-- M in the memory layout (Table 1.6), bit 3 zero. -/
def memM (hint : BitVec 2) (sp : Bool) (scope : BitVec 3) (ord : BitVec 2) (wid : BitVec 3) : BitVec 12 :=
  hint ++ BitVec.ofBool sp ++ scope ++ ord ++ (0#1) ++ wid

/-- Table 1.7. -/
def NumType.code : NumType → BitVec 4
  | .i32 => 0 | .n32 => 1 | .i64 => 2 | .n64 => 3 | .f32 => 4 | .f64 => 5 | .f16 => 6 | .bf16 => 7
  | .e4m3 => 8 | .e5m2 => 9 | .l6 => 10 | .i8 => 11 | .n8 => 12 | .i16 => 13 | .n16 => 14

/-- Table 1.7 read backwards; code 15 is reserved. -/
def NumType.ofCode (c : BitVec 4) : Option NumType :=
  match c.toNat with
  | 0 => some .i32 | 1 => some .n32 | 2 => some .i64 | 3 => some .n64 | 4 => some .f32 | 5 => some .f64
  | 6 => some .f16 | 7 => some .bf16 | 8 => some .e4m3 | 9 => some .e5m2 | 10 => some .l6 | 11 => some .i8
  | 12 => some .n8 | 13 => some .i16 | 14 => some .n16 | _ => none

/-- RND of Table 1.5. -/
def Rnd.code : Rnd → BitVec 2
  | .rne => 0 | .rz => 1 | .rm => 2 | .rp => 3

/-- RND of Table 1.5 read backwards. -/
def Rnd.ofCode (c : BitVec 2) : Rnd :=
  match c.toNat with
  | 0 => .rne | 1 => .rz | 2 => .rm | _ => .rp

/-- Table 1.8. -/
def Scope.code : Scope → BitVec 3
  | .grp => 0 | .team => 1 | .core => 2 | .clu => 3 | .die => 4 | .pkg => 5 | .sys => 6

/-- Table 1.8 read backwards; code 7 is reserved. -/
def Scope.ofCode (c : Nat) : Option Scope :=
  match c with
  | 0 => some .grp | 1 => some .team | 2 => some .core | 3 => some .clu | 4 => some .die | 5 => some .pkg
  | 6 => some .sys | _ => none

/-- ORD of Table 1.6. -/
def MemOrd.code : MemOrd → BitVec 2
  | .plain => 0 | .acq => 1 | .rel => 2 | .ar => 3

/-- ORD of Table 1.6 read backwards. -/
def MemOrd.ofCode (c : BitVec 2) : MemOrd :=
  match c.toNat with
  | 0 => .plain | 1 => .acq | 2 => .rel | _ => .ar

/-- HINT of Table 1.6. -/
def Hint.code : Hint → BitVec 2
  | .normal => 0 | .strm => 1 | .keep => 2 | .nl1 => 3

/-- HINT of Table 1.6 read backwards. -/
def Hint.ofCode (c : BitVec 2) : Hint :=
  match c.toNat with
  | 0 => .normal | 1 => .strm | 2 => .keep | _ => .nl1

/-- WID of Table 1.6. -/
def Width.code : Width → BitVec 3
  | .b8 => 0 | .b16 => 1 | .b32 => 2 | .b64 => 3 | .b128 => 4 | .s8 => 5 | .s16 => 6

/-- WID of Table 1.6 read backwards; code 7 is reserved. -/
def Width.ofCode (c : BitVec 3) : Option Width :=
  match c.toNat with
  | 0 => some .b8 | 1 => some .b16 | 2 => some .b32 | 3 => some .b64 | 4 => some .b128 | 5 => some .s8
  | 6 => some .s16 | _ => none

/-- The kind code of a source (Table 1.4). -/
def Src.kind : Src → BitVec 2
  | .v _ => 0 | .s _ => 1 | .imm _ => 2

/-- The raw field of a source. -/
def Src.raw : Src → BitVec 8
  | .v n => n | .s n => n | .imm i => i

/-- The source of a kind and a raw field; kind 11 is reserved (R9). -/
def Src.ofKind (k : BitVec 2) (r : BitVec 8) : Option Src :=
  match k.toNat with
  | 0 => some (.v r) | 1 => some (.s r) | 2 => some (.imm r) | _ => none

/-- The guard of the first word (R7, R18). -/
def Fields.guard (f : Fields) : Option Guard := if f.ge then some { neg := f.gs, idx := f.g } else none

/-- The fields that every instruction has, from its guard and operand fields. -/
def headFields (dom x : Bool) (op : BitVec 8) (g : Option Guard) (a b : BitVec 8) (t : Word) : Fields :=
  match g with
  | none => { dom := dom, x := x, ge := false, gs := false, g := 0, op := op, a := a, b := b, tail := t }
  | some u => { dom := dom, x := x, ge := true, gs := u.neg, g := u.idx, op := op, a := a, b := b, tail := t }

/-- The fields of a two-word instruction with the arithmetic layout. -/
def Std.toFields (dom : Bool) (op : BitVec 8) (x : Std) : Fields :=
  headFields dom true op x.g x.a x.b
    (stdTail x.c.raw x.e.raw x.c.kind x.e.kind (arithM x.f x.spec x.sat x.rnd.code x.ty.code))

/-- The operands of the arithmetic layout, unless a kind or the type is reserved (R9, R15). -/
def Std.ofFields (f : Fields) : Option Std :=
  match Src.ofKind f.ck f.c, Src.ofKind f.ek f.e, NumType.ofCode f.ty with
  | some c, some e, some ty =>
    some { g := f.guard, a := f.a, b := f.b, c := c, e := e, ty := ty, rnd := Rnd.ofCode f.rnd, sat := f.sat
           spec := f.sp, f := f.f }
  | _, _, _ => none

/-- The fields of a two-word instruction with the memory layout. -/
def Mem.toFields (dom : Bool) (op : BitVec 8) (x : Mem) : Fields :=
  headFields dom true op x.g x.a x.b
    (stdTail x.c.raw x.e.raw x.c.kind x.e.kind (memM x.hint.code x.spec x.scope.code x.ord.code x.wid.code))

/-- The operands of the memory layout, unless a kind, the width or the scope is reserved or bit 3 is set (R14). -/
def Mem.ofFields (f : Fields) : Option Mem :=
  match Src.ofKind f.ck f.c, Src.ofKind f.ek f.e, Width.ofCode f.wid, Scope.ofCode f.scope.toNat with
  | some c, some e, some wid, some sc =>
    if f.bit3 then none
    else some { g := f.guard, a := f.a, b := f.b, c := c, e := e, hint := Hint.ofCode f.hint, spec := f.sp
                scope := sc, ord := MemOrd.ofCode f.ord, wid := wid }
  | _, _, _, _ => none

/-- The fields of a one-word instruction. -/
def One.toFields (dom : Bool) (op : BitVec 8) (x : One) : Fields := headFields dom false op x.g x.a x.b 0

/-- The operands of a one-word instruction. -/
def One.ofFields (f : Fields) : Option One := some { g := f.guard, a := f.a, b := f.b }

/-- The fields of an instruction with an I-tail (R12). -/
def Imm.toFields (dom : Bool) (op : BitVec 8) (x : Imm) : Fields := headFields dom true op x.g x.a x.b x.imm

/-- The operands of an instruction with an I-tail. -/
def Imm.ofFields (f : Fields) : Option Imm := some { g := f.guard, a := f.a, b := f.b, imm := f.tail }

/-- The fields that encode an instruction, with its opcode of Table 1.9 or 1.10; a device step has none. -/
def Instr.fields : Instr → Option Fields
  | .mov x => some (x.toFields false 0x01)
  | .movi x => some (x.toFields false 0x02)
  | .movs x => some (x.toFields false 0x03)
  | .rdlane x => some (x.toFields false 0x04)
  | .wrlane x => some (x.toFields false 0x05)
  | .lxch x => some (x.toFields false 0x06)
  | .pfold x => some (x.toFields false 0x07)
  | .matchv x => some (x.toFields false 0x08)
  | .redux x => some (x.toFields false 0x09)
  | .plop x => some (x.toFields false 0x0A)
  | .pmask x => some (x.toFields false 0x0B)
  | .pset x => some (x.toFields false 0x0C)
  | .chk x => some (x.toFields false 0x0D)
  | .ptest x => some (x.toFields false 0x0E)
  | .pscrub x => some (x.toFields false 0x0F)
  | .iadd x => some (x.toFields false 0x10)
  | .isub x => some (x.toFields false 0x11)
  | .iaddc x => some (x.toFields false 0x12)
  | .isubb x => some (x.toFields false 0x13)
  | .imul x => some (x.toFields false 0x14)
  | .imulhi x => some (x.toFields false 0x15)
  | .imad x => some (x.toFields false 0x16)
  | .imadw x => some (x.toFields false 0x17)
  | .iabs x => some (x.toFields false 0x18)
  | .ineg x => some (x.toFields false 0x19)
  | .imin x => some (x.toFields false 0x1A)
  | .imax x => some (x.toFields false 0x1B)
  | .shl x => some (x.toFields false 0x1C)
  | .shr x => some (x.toFields false 0x1D)
  | .sra x => some (x.toFields false 0x1E)
  | .rot x => some (x.toFields false 0x1F)
  | .and x => some (x.toFields false 0x20)
  | .or x => some (x.toFields false 0x21)
  | .xor x => some (x.toFields false 0x22)
  | .not x => some (x.toFields false 0x23)
  | .blogic x => some (x.toFields false 0x24)
  | .popc x => some (x.toFields false 0x25)
  | .clz x => some (x.toFields false 0x26)
  | .ctz x => some (x.toFields false 0x27)
  | .brev x => some (x.toFields false 0x28)
  | .bfe x => some (x.toFields false 0x29)
  | .bfi x => some (x.toFields false 0x2A)
  | .bpick x => some (x.toFields false 0x2B)
  | .icmp x => some (x.toFields false 0x2C)
  | .isel x => some (x.toFields false 0x2D)
  | .lea x => some (x.toFields false 0x2E)
  | .srd x => some (x.toFields false 0x2F)
  | .fadd x => some (x.toFields false 0x30)
  | .fsub x => some (x.toFields false 0x31)
  | .fmul x => some (x.toFields false 0x32)
  | .ffma x => some (x.toFields false 0x33)
  | .fmin x => some (x.toFields false 0x34)
  | .fmax x => some (x.toFields false 0x35)
  | .fcmp x => some (x.toFields false 0x36)
  | .fround x => some (x.toFields false 0x37)
  | .fclass x => some (x.toFields false 0x38)
  | .fldexp x => some (x.toFields false 0x39)
  | .cvt x => some (x.toFields false 0x3A)
  | .fdivfix x => some (x.toFields false 0x3B)
  | .fredux x => some (x.toFields false 0x3C)
  | .fdp2 x => some (x.toFields false 0x3D)
  | .idp4 x => some (x.toFields false 0x3E)
  | .lmul x => some (x.toFields false 0x3F)
  | .frcp x => some (x.toFields false 0x40)
  | .frsq x => some (x.toFields false 0x41)
  | .fsqrt x => some (x.toFields false 0x42)
  | .fexp2 x => some (x.toFields false 0x43)
  | .flog2 x => some (x.toFields false 0x44)
  | .fsin x => some (x.toFields false 0x45)
  | .fcos x => some (x.toFields false 0x46)
  | .pkop x => some (x.toFields false 0x48)
  | .pkmul x => some (x.toFields false 0x49)
  | .pkfma x => some (x.toFields false 0x4A)
  | .ld x => some (x.toFields false 0x50)
  | .st x => some (x.toFields false 0x51)
  | .atom x => some (x.toFields false 0x52)
  | .red x => some (x.toFields false 0x53)
  | .pf x => some (x.toFields false 0x54)
  | .fence x => some (x.toFields false 0x55)
  | .ldl x => some (x.toFields false 0x56)
  | .ldlAddr x => some (x.toFields false 0x56)
  | .stl x => some (x.toFields false 0x57)
  | .atml x => some (x.toFields false 0x58)
  | .cpl x => some (x.toFields false 0x59)
  | .cpxExpand x => some (x.toFields false 0x5A)
  | .cpxCompact x => some (x.toFields false 0x5A)
  | .cpz x => some (x.toFields false 0x5B)
  | .tdrain x => some (x.toFields false 0x5C)
  | .tfeed x => some (x.toFields false 0x5D)
  | .sfblend x => some (x.toFields false 0x60)
  | .sfdepth x => some (x.toFields false 0x61)
  | .sfld x => some (x.toFields false 0x62)
  | .sfst x => some (x.toFields false 0x63)
  | .tex x => some (x.toFields false 0x64)
  | .texg x => some (x.toFields false 0x65)
  | .texq x => some (x.toFields false 0x66)
  | .trace x => some (x.toFields false 0x67)
  | .bra x => some (x.toFields false 0x70)
  | .brx x => some (x.toFields false 0x71)
  | .bri x => some (x.toFields false 0x72)
  | .call x => some (x.toFields false 0x73)
  | .ret x => some (x.toFields false 0x74)
  | .setmt x => some (x.toFields false 0x75)
  | .setmtR x => some (x.toFields false 0x75)
  | .exit x => some (x.toFields false 0x76)
  | .nop x => some (x.toFields false 0x77)
  | .yld x => some (x.toFields false 0x78)
  | .brk x => some (x.toFields false 0x79)
  | .movU x => some (x.toFields true 0x01)
  | .moviU x => some (x.toFields true 0x02)
  | .movih x => some (x.toFields true 0x03)
  | .ssr x => some (x.toFields true 0x04)
  | .swr x => some (x.toFields true 0x05)
  | .plopU x => some (x.toFields true 0x0A)
  | .iaddU x => some (x.toFields true 0x10)
  | .isubU x => some (x.toFields true 0x11)
  | .iaddcU x => some (x.toFields true 0x12)
  | .isubbU x => some (x.toFields true 0x13)
  | .imulU x => some (x.toFields true 0x14)
  | .imulhiU x => some (x.toFields true 0x15)
  | .imadU x => some (x.toFields true 0x16)
  | .imadwU x => some (x.toFields true 0x17)
  | .iabsU x => some (x.toFields true 0x18)
  | .inegU x => some (x.toFields true 0x19)
  | .iminU x => some (x.toFields true 0x1A)
  | .imaxU x => some (x.toFields true 0x1B)
  | .shlU x => some (x.toFields true 0x1C)
  | .shrU x => some (x.toFields true 0x1D)
  | .sraU x => some (x.toFields true 0x1E)
  | .rotU x => some (x.toFields true 0x1F)
  | .andU x => some (x.toFields true 0x20)
  | .orU x => some (x.toFields true 0x21)
  | .xorU x => some (x.toFields true 0x22)
  | .notU x => some (x.toFields true 0x23)
  | .blogicU x => some (x.toFields true 0x24)
  | .popcU x => some (x.toFields true 0x25)
  | .clzU x => some (x.toFields true 0x26)
  | .ctzU x => some (x.toFields true 0x27)
  | .brevU x => some (x.toFields true 0x28)
  | .bfeU x => some (x.toFields true 0x29)
  | .bfiU x => some (x.toFields true 0x2A)
  | .bpickU x => some (x.toFields true 0x2B)
  | .icmpU x => some (x.toFields true 0x2C)
  | .iselU x => some (x.toFields true 0x2D)
  | .leaU x => some (x.toFields true 0x2E)
  | .sld x => some (x.toFields true 0x50)
  | .sst x => some (x.toFields true 0x51)
  | .satom x => some (x.toFields true 0x52)
  | .fenceU x => some (x.toFields true 0x55)
  | .mon x => some (x.toFields true 0x56)
  | .monw x => some (x.toFields true 0x57)
  | .kmap x => some (x.toFields true 0x58)
  | .kunmap x => some (x.toFields true 0x59)
  | .kwb x => some (x.toFields true 0x5A)
  | .kwbAll x => some (x.toFields true 0x5A)
  | .kinv x => some (x.toFields true 0x5B)
  | .cpst x => some (x.toFields true 0x5C)
  | .cpw x => some (x.toFields true 0x5D)
  | .sfalloc x => some (x.toFields true 0x60)
  | .sffree x => some (x.toFields true 0x61)
  | .sfpin x => some (x.toFields true 0x62)
  | .sfpinUnpin x => some (x.toFields true 0x62)
  | .sfevict x => some (x.toFields true 0x63)
  | .sfmap x => some (x.toFields true 0x64)
  | .vqpush x => some (x.toFields true 0x68)
  | .vqfence x => some (x.toFields true 0x69)
  | .rsbind x => some (x.toFields true 0x6A)
  | .ubra x => some (x.toFields true 0x70)
  | .ujmp x => some (x.toFields true 0x71)
  | .ucall x => some (x.toFields true 0x72)
  | .uret x => some (x.toFields true 0x73)
  | .loop x => some (x.toFields true 0x74)
  | .exitU x => some (x.toFields true 0x76)
  | .nopU x => some (x.toFields true 0x77)
  | .hwait x => some (x.toFields true 0x78)
  | .brkU x => some (x.toFields true 0x79)
  | .trap x => some (x.toFields true 0x7A)
  | .htest x => some (x.toFields true 0x7B)
  | .hcancel x => some (x.toFields true 0x7C)
  | .region x => some (x.toFields true 0x7D)
  | .fcont x => some (x.toFields true 0x7E)
  | .fcontClr x => some (x.toFields true 0x7E)
  | .fret x => some (x.toFields true 0x7F)
  | .binit x => some (x.toFields true 0x80)
  | .barr x => some (x.toFields true 0x81)
  | .bwait x => some (x.toFields true 0x82)
  | .barw x => some (x.toFields true 0x83)
  | .binv x => some (x.toFields true 0x84)
  | .btest x => some (x.toFields true 0x85)
  | .rgwait x => some (x.toFields true 0x86)
  | .rgwaitTest x => some (x.toFields true 0x86)
  | .rgadv x => some (x.toFields true 0x87)
  | .gdec x => some (x.toFields true 0x88)
  | .gadd x => some (x.toFields true 0x89)
  | .gsig x => some (x.toFields true 0x8A)
  | .mlease x => some (x.toFields true 0x90)
  | .mfree x => some (x.toFields true 0x91)
  | .mma x => some (x.toFields true 0x92)
  | .mmaResume x => some (x.toFields true 0x92)
  | .mmas x => some (x.toFields true 0x93)
  | .mmo x => some (x.toFields true 0x94)
  | .mzero x => some (x.toFields true 0x95)
  | .mld x => some (x.toFields true 0x96)
  | .mst x => some (x.toFields true 0x97)
  | .mready x => some (x.toFields true 0x98)
  | .mrow x => some (x.toFields true 0x99)
  | .tidset x => some (x.toFields true 0x9C)
  | .tidinv x => some (x.toFields true 0x9D)
  | .tidq x => some (x.toFields true 0x9E)
  | .tidqState x => some (x.toFields true 0x9E)
  | .coldecl x => some (x.toFields true 0xA0)
  | .colag x => some (x.toFields true 0xA1)
  | .colrs x => some (x.toFields true 0xA2)
  | .colaa x => some (x.toFields true 0xA3)
  | .colbar x => some (x.toFields true 0xA4)
  | .cprio x => some (x.toFields true 0xA5)
  | .rfe x => some (x.toFields true 0xB0)
  | .ckill x => some (x.toFields true 0xB1)
  | .crcl x => some (x.toFields true 0xB2)
  | .tlbinvPage x => some (x.toFields true 0xB3)
  | .tlbinvRange x => some (x.toFields true 0xB3)
  | .tlbinvCid x => some (x.toFields true 0xB3)
  | .tlbinvAll x => some (x.toFields true 0xB3)
  | .pgprobe x => some (x.toFields true 0xB4)
  | .ctxcmdOpen _ _ _ _ => none
  | .ctxcmdKill _ _ _ _ => none
  | .ctxcmdKillretire _ _ _ _ => none
  | .ctxcmdReclaim _ _ _ _ => none
  | .ctxcmdReserved _ _ _ _ _ => none
  | .ctxcmdComplete _ => none
  | .reclaimQuiet _ => none
  | .incarnationUpdate _ => none
  | .incarnationAck _ => none
  | .targetRequest _ => none
  | .responseArrival _ => none
  | .storeDenialReport _ => none
  | .l1Eviction _ _ => none
  | .snoopInvalidate _ => none
  | .sliceAgeTimeout _ => none
  | .nodeNotification _ => none
  | .instanceDequeue _ => none
  | .bulkCopyComplete _ => none
  | .instanceFinish _ => none
  | .bindSubmit _ _ _ _ => none
  | .teamEnd _ => none
  | .starvationTimeout _ _ => none
  | .pathAgeingExpiry _ _ _ => none
  | .satelliteForm _ => none
  | .spawnWaitTimeout _ => none
  | .barrierCopyCompletion _ => none
  | .pageWalkComplete _ => none
  | .faultNoticeWrite _ => none
  | .copyPerformed _ => none
  | .copyFailureReport _ => none
  | .stampWrite _ => none
  | .cpwComplete _ => none
  | .leaseGrant _ => none
  | .matrixOpComplete _ => none
  | .matrixOpStop _ => none
  | .collectiveComplete _ => none
  | .surfaceOpApply _ => none
  | .tileSpill _ _ _ => none
  | .tileReturn _ _ _ => none
  | .sfevictComplete _ => none
  | .pushArrival _ => none
  | .rsbindArrival _ => none
  | .sequencerDrain _ => none
  | .primitiveRaster _ => none
  | .pixelGroupIdle _ _ => none
  | .pixelGroupLaunch _ => none
  | .textureResult _ => none
  | .traceResult _ => none
  | .monitorWake _ _ => none
  | .regionCommit _ _ _ => none
  | .watchdogExpiry _ _ => none
  | .preemptSave _ _ _ => none
  | .saveComplete _ => none
  | .serviceRetireBank _ _ => none
  | .serviceReturnBank _ _ => none
  | .serviceRetireLinkLane _ _ => none
  | .serviceReturnLinkLane _ _ => none
  | .serviceRetireVbusLane _ _ => none
  | .serviceReturnVbusLane _ _ => none
  | .serviceRetireCore _ _ => none
  | .serviceReturnCore _ _ => none
  | .serviceRetireCluster _ _ => none
  | .serviceReturnCluster _ _ => none
  | .serviceCommandDone => none
  | .classControlWrite _ _ _ _ => none
  | .powerLimitWrite _ _ => none
  | .clockThrottle _ _ => none
  | .bankOverheat _ => none
  | .bankCooled _ => none
  | .attestationRequest _ => none
  | .attestationDone => none
  | .registerWrite _ _ _ _ _ => none
  | .graphPortRead _ => none
  | .graphPortAdd _ _ => none
  | .graphPortDec _ _ => none
  | .hostDebugRead _ _ => none
  | .hostDebugWrite _ _ _ => none
  | .hostUnsupportedRequest _ _ _ _ => none
  | .remoteRequest _ _ _ _ _ _ _ _ => none
  | .linkTrained _ _ => none
  | .linkRecovery _ => none
  | .linkRecoveryTimeout _ => none
  | .linkPeerLost _ => none
  | .mortarRepair _ => none
  | .mortarLoss _ => none
  | .vbusLaneRepair _ => none
  | .vbusRetrain _ => none
  | .hbmUncorrectable _ => none
  | .boot => none
  | .firmwareUpdate _ => none
  | .illegalEncoding => none
  | .instructionFetchFault _ _ => none
  | .cachesReportQuiet _ _ => none
  | .verticalBusUnfreeze _ => none
  | .mortarModuleReturn _ => none

end Sys2Proof
end

