-- ==== Sys2Proof/Machine/Rows.lean ====
section
/-!
DEFINITION. What the fields of every instruction word may hold: the field tables of the spec (Tables 1.12, 1.13,
3.6, 4.2, 6.1, 7.8, 8.1, 9.4, 10.3, 10.5, 11.11, 12.5, 13.1, 14.5, 15.5, 16.3, 16.5, 17.9, 18.4 and 19.4) as one
list of rows, and the registers each word names, which the budget check of R16 and R64 needs.
-/

namespace Sys2Proof

/-- What an A or B field names. -/
inductive Slot
  /-- unused, so zero -/
  | zero
  /-- `n` v-registers from an aligned start (R16) -/
  | v (n : Nat)
  /-- `n` s-registers from s0 to s63 (R17) -/
  | s (n : Nat)
  /-- two s-registers from an even start -/
  | sPair
  /-- a predicate p0 to p15 or q0 to q15 -/
  | p
  /-- a raw value below `n` -/
  | raw (n : Nat)
  /-- an even raw value below `n` -/
  | rawEven (n : Nat)
  /-- any assigned special register (Table 3.2) -/
  | special
  /-- a uniform special register -/
  | uniform
  /-- a writable special register -/
  | writable
deriving DecidableEq, Repr

/-- What a C or E field with its kind names. -/
inductive Opn
  /-- unused: zero of kind 00 -/
  | nil
  /-- kind 00 with `n` v-registers, 01 or 10 -/
  | src (n : Nat)
  /-- kind 00 with `n` v-registers, or 01 -/
  | regs (n : Nat)
  /-- kind 00 only, `n` v-registers -/
  | vOnly (n : Nat)
  /-- kind 01 or 10 -/
  | su
  /-- kind 01 only -/
  | si
  /-- kind 01 only, an even pair -/
  | siPair
  /-- kind 10 only, raw value from `lo` to `hi` -/
  | imm (lo hi : Nat)
  /-- kind 10 only, an even raw value up to `hi` -/
  | immEven (hi : Nat)
  /-- kind 01, or 10 with a raw value from `lo` to `hi` -/
  | sOrImm (lo hi : Nat)
  /-- kind 10 only, one of the listed raw values -/
  | immIn (l : List Nat)
deriving DecidableEq, Repr

/-- The C and E fields together: separately, or as the number of R169 and R249. -/
inductive Pair
  | sep (c e : Opn)
  /-- static: C of kind 10 and E of kind 10 at most 3; dynamic: C of kind 01 and E zero (R169, R249) -/
  | number
deriving DecidableEq, Repr

/-- What M or the I-tail may hold. -/
inductive Mods
  /-- a one-word form -/
  | none
  /-- an I-tail with any value -/
  | value
  /-- an I-tail that is a branch offset (R12) -/
  | offset
  /-- the arithmetic layout: accepted types (none: TYPE zero), function codes (none: F zero), rounding, .sat, .spec -/
  | arith (tys : List NumType) (fs : List Nat) (rnd sat spec : Bool)
  /-- the memory layout: accepted widths and orders, .spec, hints -/
  | mem (wids : List Nat) (ords : List Nat) (spec hint : Bool)
deriving DecidableEq, Repr

/-- The fields a form accepts. -/
structure Shape where
  a : Slot
  b : Slot
  ce : Pair
  m : Mods
  /-- a further condition of the form's entry -/
  also : Bool := true
deriving DecidableEq, Repr

/-- Is the special register per lane (Table 3.2)? -/
def specialPerLane (n : Nat) : Bool := n == 64 || (84 ≤ n && n ≤ 90)
/-- Is the special register 64 bits wide (Table 3.2)? -/
def special64 (n : Nat) : Bool := n == 83 || n == 91
/-- Is the number an assigned special register (R65)? -/
def specialAssigned (n : Nat) : Bool := 64 ≤ n && n ≤ 91
/-- May swr write the special register (Table 3.2)? -/
def specialWritable (n : Nat) : Bool := n == 81 || n == 82

/-- Does an A or B field hold what its slot names (R16, R17)? -/
def Slot.ok (k : Slot) (x : Nat) : Bool :=
  match k with
  | .zero => x == 0
  | .v n => x % n == 0
  | .s _ => x < 64
  | .sPair => x < 64 && x % 2 == 0
  | .p => x < 16
  | .raw n => x < n
  | .rawEven n => x < n && x % 2 == 0
  | .special => specialAssigned x
  | .uniform => specialAssigned x && !specialPerLane x
  | .writable => specialWritable x

/-- Does a C or E field hold what its entry names (R9 to R11)? -/
def Opn.ok (o : Opn) (k x : Nat) : Bool :=
  match o with
  | .nil => k == 0 && x == 0
  | .src n => (k == 0 && x % n == 0) || (k == 1 && x < 64) || k == 2
  | .regs n => (k == 0 && x % n == 0) || (k == 1 && x < 64)
  | .vOnly n => k == 0 && x % n == 0
  | .su => (k == 1 && x < 64) || k == 2
  | .si => k == 1 && x < 64
  | .siPair => k == 1 && x < 64 && x % 2 == 0
  | .imm lo hi => k == 2 && lo ≤ x && x ≤ hi
  | .immEven hi => k == 2 && x ≤ hi && x % 2 == 0
  | .sOrImm lo hi => (k == 1 && x < 64) || (k == 2 && lo ≤ x && x ≤ hi)
  | .immIn l => k == 2 && l.contains x

/-- Do C and E hold what the form names? -/
def Pair.ok (p : Pair) (f : Fields) : Bool :=
  match p with
  | .sep c e => c.ok f.ck.toNat f.c.toNat && e.ok f.ek.toNat f.e.toNat
  | .number =>
    (f.ck == 2 && f.ek == 2 && f.e.toNat < 4) || (f.ck == 1 && f.c.toNat < 64 && f.ek == 0 && f.e == 0)

/-- Do M or the I-tail hold what the form accepts (R12 to R15)? -/
def Mods.ok (m : Mods) (f : Fields) : Bool :=
  match m with
  | .none => f.tail == 0
  | .value => true
  | .offset => f.tail.toNat % 4 == 0
  | .arith tys fs rnd sat spec =>
    (match NumType.ofCode f.ty with
      | .none => false
      | .some t => if tys.isEmpty then t == .i32 else tys.contains t) &&
    (if fs.isEmpty then f.f == 0 else fs.contains f.f.toNat) &&
    (rnd || f.rnd == 0) && (sat || !f.sat) && (spec || !f.sp)
  | .mem wids ords spec hint =>
    wids.contains f.wid.toNat && ords.contains f.ord.toNat && (spec || !f.sp) && (hint || f.hint == 0) &&
    !f.bit3 && f.scope != 7

/-- Does the form accept the fields? -/
def Shape.ok (h : Shape) (f : Fields) : Bool :=
  h.a.ok f.a.toNat && h.b.ok f.b.toNat && h.m.ok f &&
  (match h.m with
    | .arith .. => h.ce.ok f
    | .mem .. => h.ce.ok f
    | _ => true) && h.also

/-- A named run of registers: v or s, first number, count. -/
structure Named where
  isS : Bool
  first : Nat
  count : Nat
deriving DecidableEq, Repr

/-- The registers a slot names. -/
def Slot.named (k : Slot) (x : Nat) : List Named :=
  match k with
  | .v n => [⟨false, x, n⟩]
  | .s n => [⟨true, x, n⟩]
  | .sPair => [⟨true, x, 2⟩]
  | _ => []

/-- The registers a C or E field names. -/
def Opn.named (o : Opn) (k x : Nat) : List Named :=
  match o with
  | .nil => []
  | .src n => if k == 0 then [⟨false, x, n⟩] else if k == 1 then [⟨true, x, 1⟩] else []
  | .regs n => if k == 0 then [⟨false, x, n⟩] else [⟨true, x, 1⟩]
  | .vOnly n => [⟨false, x, n⟩]
  | .su => if k == 1 then [⟨true, x, 1⟩] else []
  | .si => [⟨true, x, 1⟩]
  | .siPair => [⟨true, x, 2⟩]
  | .sOrImm _ _ => if k == 1 then [⟨true, x, 1⟩] else []
  | _ => []

/-- The registers a word of the form names (R16, R64). -/
def Shape.named (h : Shape) (f : Fields) : List Named :=
  h.a.named f.a.toNat ++ h.b.named f.b.toNat ++
  (match h.ce with
    | .sep c e => c.named f.ck.toNat f.c.toNat ++ e.named f.ek.toNat f.e.toNat
    | .number => if f.ck == 1 then [⟨true, f.c.toNat, 1⟩] else [])

/-- v-registers of a value of the type: two for a 64-bit type (R80, R111). -/
def NumType.regs : NumType → Nat
  | .i64 => 2 | .n64 => 2 | .f64 => 2 | _ => 1

/-- Bits of a value of the type (Table 1.7). -/
def NumType.bits : NumType → Nat
  | .i64 | .n64 | .f64 => 64
  | .i32 | .n32 | .f32 => 32
  | .f16 | .bf16 | .i16 | .n16 => 16
  | .e4m3 | .e5m2 | .l6 | .i8 | .n8 => 8

/-- v-registers of a value of TYPE, 1 where TYPE is reserved. -/
def Fields.regs (f : Fields) : Nat := ((NumType.ofCode f.ty).map NumType.regs).getD 1
/-- v-registers of an access of WID (R14). -/
def Fields.widRegs (f : Fields) : Nat := if f.wid == 3 then 2 else if f.wid == 4 then 4 else 1
/-- F as a number. -/
def Fields.fn (f : Fields) : Nat := f.f.toNat

/-- One row of the opcode maps: an assigned form, its domain and opcode, its length and the fields it accepts. -/
structure Row where
  name : String
  dom : Bool
  op : Nat
  two : Bool
  /-- which words of the opcode are this form, where the table splits one -/
  sel : Fields → Bool
  shape : Fields → Shape
  build : Fields → Option Instr


/-- A two-word row with the arithmetic layout. -/
def rowStd (name : String) (dom : Bool) (op : Nat) (k : Std → Instr) (shape : Fields → Shape)
    (sel : Fields → Bool := fun _ => true) : Row :=
  { name := name, dom := dom, op := op, two := true, sel := sel, shape := shape
    build := fun f => (Std.ofFields f).map k }

/-- A two-word row with the memory layout. -/
def rowMem (name : String) (dom : Bool) (op : Nat) (k : Mem → Instr) (shape : Fields → Shape) : Row :=
  { name := name, dom := dom, op := op, two := true, sel := fun _ => true, shape := shape
    build := fun f => (Mem.ofFields f).map k }

/-- A one-word row. -/
def rowOne (name : String) (dom : Bool) (op : Nat) (k : One → Instr) (a b : Fields → Slot) : Row :=
  { name := name, dom := dom, op := op, two := false, sel := fun _ => true
    shape := fun f => { a := a f, b := b f, ce := .sep .nil .nil, m := .none }
    build := fun f => (One.ofFields f).map k }

/-- A row with an I-tail. -/
def rowImm (name : String) (dom : Bool) (op : Nat) (k : Imm → Instr) (shape : Fields → Shape)
    (sel : Fields → Bool := fun _ => true) : Row :=
  { name := name, dom := dom, op := op, two := true, sel := sel, shape := shape
    build := fun f => (Imm.ofFields f).map k }

/-- 32- and 64-bit integer types. -/
def tyInt : List NumType := [.i32, .n32, .i64, .n64]
/-- n32 and n64. -/
def tyN : List NumType := [.n32, .n64]
/-- i32 and i64. -/
def tyI : List NumType := [.i32, .i64]
/-- f32 and f64. -/
def tyF : List NumType := [.f32, .f64]

/-- A destination or source register of `n` words: v in an L-word, s in a U-word (R80). -/
def reg (u : Bool) (n : Nat) : Slot := if u then .s 1 else .v n
/-- A source operand: any kind in an L-word, 01 or 10 in a U-word (R11, R80). -/
def srcOf (u : Bool) (n : Nat) : Opn := if u then .su else .src n

/-- The shape of an integer operation of Table 4.2. -/
def intShape (u : Bool) (a b : Nat) (c e : Opn) (tys : List NumType) (fs : List Nat) (sat : Bool) : Shape :=
  { a := reg u a, b := reg u b, ce := .sep c e, m := .arith tys fs false sat false }

/-- The register chk, ptest and pscrub name, by F (Table 3.6). -/
def poisonReg (f : Fields) : Slot :=
  match f.fn with
  | 0 => .v 1 | 1 => .v 2 | 2 => .p | _ => .s 1

/-- The element-index immediate of cvt (R111): bits 7:6 and 3:2 zero, each index within its register. -/
def cvtIndexOk (f : Fields) : Bool :=
  match NumType.ofCode f.f, NumType.ofCode f.ty with
  | some src, some dst =>
    let i := bits f.e.toNat 5 4
    let j := bits f.e.toNat 1 0
    src != dst && bits f.e.toNat 7 6 == 0 && bits f.e.toNat 3 2 == 0 &&
    i < max 1 (32 / src.bits) && j < max 1 (32 / dst.bits) && (dst != .l6 || f.rnd == 0)
  | _, _ => false

/-- Registers of the source of cvt. -/
def cvtSrcRegs (f : Fields) : Nat := ((NumType.ofCode f.f).map NumType.regs).getD 1

/-- Width code, tiles and evenness of a matrix form (R264). -/
def tileOk (f : Fields) : Bool := f.c.toNat + bits f.fn 1 0 ≤ 11

/-- A shape of register slots, C and E, and M. -/
def shp (a b : Slot) (c e : Opn) (m : Mods) (also : Bool := true) : Shape :=
  { a := a, b := b, ce := .sep c e, m := m, also := also }

/-- A shape whose C and E hold a barrier or identifier number. -/
def shpNum (a b : Slot) (m : Mods) (also : Bool := true) : Shape :=
  { a := a, b := b, ce := .number, m := m, also := also }

/-- M all zero. -/
def m0 : Mods := .arith [] [] false false false
/-- M with F only. -/
def mf (fs : List Nat) : Mods := .arith [] fs false false false
/-- M with TYPE and F. -/
def mt (tys : List NumType) (fs : List Nat) : Mods := .arith tys fs false false false
/-- The function codes 0 to n - 1. -/
def upTo (n : Nat) : List Nat := List.range n

/-- The atomic operation is cas (Table 11.12). -/
def isCas (f : Fields) : Bool := f.e == 9
/-- Plain order requires scope zero (R14). -/
def scopeOk (f : Fields) : Bool := f.ord != 0 || f.scope == 0

/-- Tables 3.6 and 8.1: moves, lane crossing, predicates and poison. -/
def rowsMove : List Row :=
  [ rowStd "MOV" false 0x01 .mov (fun f => shp (.v f.regs) .zero (.src f.regs) .nil (mt tyN []))
  , rowImm "MOVI" false 0x02 .movi (fun _ => shp (.v 1) .zero .nil .nil .value)
  , rowOne "MOVS" false 0x03 .movs (fun _ => .v 1) (fun _ => .s 1)
  , rowStd "RDLANE" false 0x04 .rdlane (fun f => shp (.s 1) (.v f.regs) .su .nil (mt tyN []))
  , rowStd "WRLANE" false 0x05 .wrlane (fun f => shp (.v f.regs) (.s 1) .su .nil (mt tyN []))
  , rowStd "LXCH" false 0x06 .lxch (fun f => shp (.v f.regs) (.v f.regs) (.src 1) (.immIn [1, 2, 4, 8, 16, 32]) (mt tyN (upTo 4)))
  , rowStd "PFOLD" false 0x07 .pfold (fun f => shp (if f.fn < 4 then .p else .s 1) .p .nil .nil (mf (upTo 6)))
  , rowStd "MATCH" false 0x08 .matchv (fun f => shp (if f.fn == 0 then .v 1 else .p) (.v f.regs) .nil .nil (mt tyN (upTo 2)))
  , rowStd "REDUX" false 0x09 .redux (fun f => shp (.s 1) (.v f.regs) .nil .nil (mt tyInt (upTo 6)))
  , rowStd "PLOP" false 0x0A .plop (fun _ => shp .p .p (.imm 0 15) .nil (mf (upTo 16)))
  , rowStd "PMASK" false 0x0B .pmask (fun _ => shp .p .zero (.src 1) .nil m0)
  , rowStd "PSET" false 0x0C .pset (fun f => shp .p (if f.fn < 2 then .p else .v 1) .nil .nil (mf (upTo 4)))
  , rowStd "CHK" false 0x0D .chk (fun f => shp .zero (poisonReg f) .nil .nil (mf (upTo 4)))
  , rowStd "PTEST" false 0x0E .ptest (fun f => shp .p (poisonReg f) .nil .nil (mf (upTo 4)))
  , rowStd "PSCRUB" false 0x0F .pscrub (fun f => shp (poisonReg f) .zero .nil .nil (mf (upTo 4)))
  , rowOne "SRD" false 0x2F .srd (fun f => .v (if special64 f.b.toNat then 2 else 1)) (fun _ => .special)
  , rowOne "MOV_U" true 0x01 .movU (fun _ => .s 1) (fun _ => .s 1)
  , rowImm "MOVI_U" true 0x02 .moviU (fun _ => shp (.s 1) .zero .nil .nil .value)
  , rowImm "MOVIH" true 0x03 .movih (fun _ => shp (.s 1) .zero .nil .nil .value)
  , rowOne "SSR" true 0x04 .ssr (fun _ => .s 1) (fun _ => .uniform)
  , rowOne "SWR" true 0x05 .swr (fun _ => .writable) (fun _ => .s 1)
  , rowStd "PLOP_U" true 0x0A .plopU (fun _ => shp .p .p (.imm 0 15) .nil (mf (upTo 16))) ]

/-- Table 4.2, L-words. -/
def rowsInt : List Row :=
  [ rowStd "IADD" false 0x10 .iadd (fun f => intShape false f.regs f.regs (srcOf false f.regs) .nil tyInt [] true)
  , rowStd "ISUB" false 0x11 .isub (fun f => intShape false f.regs f.regs (srcOf false f.regs) .nil tyInt [] true)
  , rowStd "IADDC" false 0x12 .iaddc (fun f => intShape false f.regs f.regs (srcOf false f.regs) (.imm 0 15) tyInt [] false)
  , rowStd "ISUBB" false 0x13 .isubb (fun f => intShape false f.regs f.regs (srcOf false f.regs) (.imm 0 15) tyInt [] false)
  , rowStd "IMUL" false 0x14 .imul (fun f => intShape false f.regs f.regs (srcOf false f.regs) .nil tyInt [] false)
  , rowStd "IMULHI" false 0x15 .imulhi (fun f => intShape false f.regs f.regs (srcOf false f.regs) .nil tyInt [] false)
  , rowStd "IMAD" false 0x16 .imad (fun f => intShape false f.regs f.regs (srcOf false f.regs) (srcOf false f.regs) tyInt [] false)
  , rowStd "IMADW" false 0x17 .imadw (fun _ => intShape false 2 1 (srcOf false 1) (srcOf false 2) [.i32, .n32] [] false)
  , rowStd "IABS" false 0x18 .iabs (fun f => intShape false f.regs f.regs .nil .nil tyI [] true)
  , rowStd "INEG" false 0x19 .ineg (fun f => intShape false f.regs f.regs .nil .nil tyI [] true)
  , rowStd "IMIN" false 0x1A .imin (fun f => intShape false f.regs f.regs (srcOf false f.regs) .nil tyInt [] false)
  , rowStd "IMAX" false 0x1B .imax (fun f => intShape false f.regs f.regs (srcOf false f.regs) .nil tyInt [] false)
  , rowStd "SHL" false 0x1C .shl (fun f => intShape false f.regs f.regs (srcOf false 1) .nil tyInt (upTo 2) false)
  , rowStd "SHR" false 0x1D .shr (fun f => intShape false f.regs f.regs (srcOf false 1) .nil tyInt (upTo 2) false)
  , rowStd "SRA" false 0x1E .sra (fun f => intShape false f.regs f.regs (srcOf false 1) .nil tyInt (upTo 2) false)
  , rowStd "ROT" false 0x1F .rot (fun f => intShape false f.regs f.regs (srcOf false 1) .nil tyN (upTo 2) false)
  , rowStd "AND" false 0x20 .and (fun f => intShape false f.regs f.regs (srcOf false f.regs) .nil tyInt [] false)
  , rowStd "OR" false 0x21 .or (fun f => intShape false f.regs f.regs (srcOf false f.regs) .nil tyInt [] false)
  , rowStd "XOR" false 0x22 .xor (fun f => intShape false f.regs f.regs (srcOf false f.regs) .nil tyInt [] false)
  , rowStd "NOT" false 0x23 .not (fun f => intShape false f.regs f.regs .nil .nil tyInt [] false)
  , rowStd "BLOGIC" false 0x24 .blogic (fun f => intShape false f.regs f.regs (srcOf false f.regs) (.imm 0 255) tyInt [] false)
  , rowStd "POPC" false 0x25 .popc (fun f => intShape false 1 f.regs .nil .nil tyN [] false)
  , rowStd "CLZ" false 0x26 .clz (fun f => intShape false 1 f.regs .nil .nil tyN [] false)
  , rowStd "CTZ" false 0x27 .ctz (fun f => intShape false 1 f.regs .nil .nil tyN [] false)
  , rowStd "BREV" false 0x28 .brev (fun f => intShape false f.regs f.regs .nil .nil tyN [] false)
  , rowStd "BFE" false 0x29 .bfe (fun f => intShape false f.regs f.regs (srcOf false 1) (srcOf false 1) tyInt [] false)
  , rowStd "BFI" false 0x2A .bfi (fun f => intShape false f.regs f.regs (srcOf false 1) (srcOf false 1) tyN [] false)
  , rowStd "BPICK" false 0x2B .bpick (fun f => intShape false f.regs f.regs (srcOf false f.regs) (srcOf false 1) [.n32] [] false)
  , rowStd "ICMP" false 0x2C .icmp (fun f => { a := .p, b := reg false f.regs, ce := .sep (srcOf false f.regs) .nil, m := mt tyInt (upTo 6) })
  , rowStd "ISEL" false 0x2D .isel (fun f => intShape false f.regs f.regs (srcOf false f.regs) (.imm 0 15) tyInt [] false)
  , rowStd "LEA" false 0x2E .lea (fun f => intShape false 2 2 (srcOf false f.regs) (.imm 0 7) tyInt [] false) ]

/-- Table 4.2, U-words. -/
def rowsIntU : List Row :=
  [ rowStd "IADD_U" true 0x10 .iaddU (fun f => intShape true f.regs f.regs (srcOf true f.regs) .nil tyInt [] true)
  , rowStd "ISUB_U" true 0x11 .isubU (fun f => intShape true f.regs f.regs (srcOf true f.regs) .nil tyInt [] true)
  , rowStd "IADDC_U" true 0x12 .iaddcU (fun f => intShape true f.regs f.regs (srcOf true f.regs) (.imm 0 15) tyInt [] false)
  , rowStd "ISUBB_U" true 0x13 .isubbU (fun f => intShape true f.regs f.regs (srcOf true f.regs) (.imm 0 15) tyInt [] false)
  , rowStd "IMUL_U" true 0x14 .imulU (fun f => intShape true f.regs f.regs (srcOf true f.regs) .nil tyInt [] false)
  , rowStd "IMULHI_U" true 0x15 .imulhiU (fun f => intShape true f.regs f.regs (srcOf true f.regs) .nil tyInt [] false)
  , rowStd "IMAD_U" true 0x16 .imadU (fun f => intShape true f.regs f.regs (srcOf true f.regs) (srcOf true f.regs) tyInt [] false)
  , rowStd "IMADW_U" true 0x17 .imadwU (fun _ => intShape true 2 1 (srcOf true 1) (srcOf true 2) [.i32, .n32] [] false)
  , rowStd "IABS_U" true 0x18 .iabsU (fun f => intShape true f.regs f.regs .nil .nil tyI [] true)
  , rowStd "INEG_U" true 0x19 .inegU (fun f => intShape true f.regs f.regs .nil .nil tyI [] true)
  , rowStd "IMIN_U" true 0x1A .iminU (fun f => intShape true f.regs f.regs (srcOf true f.regs) .nil tyInt [] false)
  , rowStd "IMAX_U" true 0x1B .imaxU (fun f => intShape true f.regs f.regs (srcOf true f.regs) .nil tyInt [] false)
  , rowStd "SHL_U" true 0x1C .shlU (fun f => intShape true f.regs f.regs (srcOf true 1) .nil tyInt (upTo 2) false)
  , rowStd "SHR_U" true 0x1D .shrU (fun f => intShape true f.regs f.regs (srcOf true 1) .nil tyInt (upTo 2) false)
  , rowStd "SRA_U" true 0x1E .sraU (fun f => intShape true f.regs f.regs (srcOf true 1) .nil tyInt (upTo 2) false)
  , rowStd "ROT_U" true 0x1F .rotU (fun f => intShape true f.regs f.regs (srcOf true 1) .nil tyN (upTo 2) false)
  , rowStd "AND_U" true 0x20 .andU (fun f => intShape true f.regs f.regs (srcOf true f.regs) .nil tyInt [] false)
  , rowStd "OR_U" true 0x21 .orU (fun f => intShape true f.regs f.regs (srcOf true f.regs) .nil tyInt [] false)
  , rowStd "XOR_U" true 0x22 .xorU (fun f => intShape true f.regs f.regs (srcOf true f.regs) .nil tyInt [] false)
  , rowStd "NOT_U" true 0x23 .notU (fun f => intShape true f.regs f.regs .nil .nil tyInt [] false)
  , rowStd "BLOGIC_U" true 0x24 .blogicU (fun f => intShape true f.regs f.regs (srcOf true f.regs) (.imm 0 255) tyInt [] false)
  , rowStd "POPC_U" true 0x25 .popcU (fun f => intShape true 1 f.regs .nil .nil tyN [] false)
  , rowStd "CLZ_U" true 0x26 .clzU (fun f => intShape true 1 f.regs .nil .nil tyN [] false)
  , rowStd "CTZ_U" true 0x27 .ctzU (fun f => intShape true 1 f.regs .nil .nil tyN [] false)
  , rowStd "BREV_U" true 0x28 .brevU (fun f => intShape true f.regs f.regs .nil .nil tyN [] false)
  , rowStd "BFE_U" true 0x29 .bfeU (fun f => intShape true f.regs f.regs (srcOf true 1) (srcOf true 1) tyInt [] false)
  , rowStd "BFI_U" true 0x2A .bfiU (fun f => intShape true f.regs f.regs (srcOf true 1) (srcOf true 1) tyN [] false)
  , rowStd "BPICK_U" true 0x2B .bpickU (fun f => intShape true f.regs f.regs (srcOf true f.regs) (srcOf true 1) [.n32] [] false)
  , rowStd "ICMP_U" true 0x2C .icmpU (fun f => { a := .p, b := reg true f.regs, ce := .sep (srcOf true f.regs) .nil, m := mt tyInt (upTo 6) })
  , rowStd "ISEL_U" true 0x2D .iselU (fun f => intShape true f.regs f.regs (srcOf true f.regs) (.imm 0 15) tyInt [] false)
  , rowStd "LEA_U" true 0x2E .leaU (fun f => intShape true 2 2 (srcOf true f.regs) (.imm 0 7) tyInt [] false) ]

/-- Table 6.1. -/
def rowsFloat : List Row :=
  [ rowStd "FADD" false 0x30 .fadd (fun f => shp (.v f.regs) (.v f.regs) (.src f.regs) .nil (.arith tyF [] true true false))
  , rowStd "FSUB" false 0x31 .fsub (fun f => shp (.v f.regs) (.v f.regs) (.src f.regs) .nil (.arith tyF [] true true false))
  , rowStd "FMUL" false 0x32 .fmul (fun f => shp (.v f.regs) (.v f.regs) (.src f.regs) .nil (.arith tyF [] true true false))
  , rowStd "FFMA" false 0x33 .ffma (fun f => shp (.v f.regs) (.v f.regs) (.src f.regs) (.src f.regs) (.arith tyF [] true true false))
  , rowStd "FMIN" false 0x34 .fmin (fun f => shp (.v f.regs) (.v f.regs) (.src f.regs) .nil (.arith tyF [] false false false))
  , rowStd "FMAX" false 0x35 .fmax (fun f => shp (.v f.regs) (.v f.regs) (.src f.regs) .nil (.arith tyF [] false false false))
  , rowStd "FCMP" false 0x36 .fcmp (fun f => shp .p (.v f.regs) (.src f.regs) .nil (.arith tyF (upTo 8) false false false))
  , rowStd "FROUND" false 0x37 .fround (fun f => shp (.v f.regs) (.v f.regs) .nil .nil (.arith tyF (upTo 2) true false false))
  , rowStd "FCLASS" false 0x38 .fclass (fun f => shp (.v 1) (.v f.regs) .nil .nil (.arith tyF [] false false false))
  , rowStd "FLDEXP" false 0x39 .fldexp (fun f => shp (.v f.regs) (.v f.regs) (.src 1) .nil (.arith tyF [] true true false))
  , rowStd "CVT" false 0x3A .cvt (fun f => shp (.v f.regs) (.v (cvtSrcRegs f)) .nil (.imm 0 255) (.arith [.i32, .n32, .i64, .n64, .f32, .f64, .f16, .bf16, .e4m3, .e5m2, .l6, .i8, .n8, .i16, .n16] (upTo 15) true true false) (cvtIndexOk f))
  , rowStd "FDIVFIX" false 0x3B .fdivfix (fun f => shp (.v f.regs) (.v f.regs) (.src f.regs) (.src f.regs) (.arith tyF [] true true false))
  , rowStd "FREDUX" false 0x3C .fredux (fun f => shp (.s 1) (.v f.regs) .nil .nil (.arith tyF (upTo 3) false false false))
  , rowStd "FDP2" false 0x3D .fdp2 (fun _ => shp (.v 1) (.v 1) (.src 1) (.src 1) (.arith [.f16, .bf16] [] true true false))
  , rowStd "IDP4" false 0x3E .idp4 (fun _ => shp (.v 1) (.v 1) (.src 1) (.src 1) (.arith [.i8, .n8] [] false true false))
  , rowStd "LMUL" false 0x3F .lmul (fun f => shp (.v 1) (.v 1) (.regs 1) (if f.fn == 0 then .immIn [0, 0x10, 0x20, 0x30] else .nil) (.arith [.f32] (upTo 2) true true false) (f.fn == 1 || (f.rnd == 0 && !f.sat)))
  , rowStd "FRCP" false 0x40 .frcp (fun f => shp (.v f.regs) (.v f.regs) .nil .nil (.arith tyF [] false false false))
  , rowStd "FRSQ" false 0x41 .frsq (fun f => shp (.v f.regs) (.v f.regs) .nil .nil (.arith tyF [] false false false))
  , rowStd "FSQRT" false 0x42 .fsqrt (fun f => shp (.v f.regs) (.v f.regs) .nil .nil (.arith tyF [] true false false))
  , rowStd "FEXP2" false 0x43 .fexp2 (fun f => shp (.v f.regs) (.v f.regs) .nil .nil (.arith [.f32] [] false false false))
  , rowStd "FLOG2" false 0x44 .flog2 (fun f => shp (.v f.regs) (.v f.regs) .nil .nil (.arith [.f32] [] false false false))
  , rowStd "FSIN" false 0x45 .fsin (fun f => shp (.v f.regs) (.v f.regs) .nil .nil (.arith [.f32] [] false false false))
  , rowStd "FCOS" false 0x46 .fcos (fun f => shp (.v f.regs) (.v f.regs) .nil .nil (.arith [.f32] [] false false false))
  , rowStd "PKOP" false 0x48 .pkop (fun f => shp (.v 1) (.v 1) (.src 1) .nil (.arith [.f16, .bf16] (upTo 8) true true false) (bits f.fn 1 0 < 2 || (f.rnd == 0 && !f.sat)))
  , rowStd "PKMUL" false 0x49 .pkmul (fun _ => shp (.v 1) (.v 1) (.src 1) .nil (.arith [.f16, .bf16] [0, 4] true true false))
  , rowStd "PKFMA" false 0x4A .pkfma (fun _ => shp (.v 1) (.v 1) (.src 1) (.src 1) (.arith [.f16, .bf16] [0, 4] true true false)) ]

/-- Tables 10.3, 10.5, 11.11 and 13.1: memory, scratch, windows and copies. -/
def rowsMem : List Row :=
  [ rowMem "LD" false 0x50 .ld (fun f => shp (.v f.widRegs) (.v 2) .su .nil (.mem (upTo 7) [0, 1] true true) (scopeOk f))
  , rowMem "ST" false 0x51 .st (fun f => shp (.v f.widRegs) (.v 2) .su .nil (.mem (upTo 5) [0, 2] false true) (scopeOk f))
  , rowMem "ATOM" false 0x52 .atom (fun f => shp (.v (if isCas f then 2 * f.widRegs else f.widRegs)) (.v 2) .su (.imm 0 10) (.mem [2, 3] (upTo 4) false false) (scopeOk f))
  , rowMem "RED" false 0x53 .red (fun f => shp (.v f.widRegs) (.v 2) .su (.immIn [0, 1, 2, 3, 4, 5, 6, 7, 10]) (.mem [2, 3] [0, 2] false false) (scopeOk f))
  , rowMem "PF" false 0x54 .pf (fun f => shp .zero (.v 2) .su .nil (.mem (upTo 5) [0] false true) (scopeOk f))
  , rowMem "FENCE" false 0x55 .fence (fun _ => shp .zero .zero .nil .nil (.mem [0] (upTo 4) false false) (true))
  , rowMem "SLD" true 0x50 .sld (fun f => shp (.s 1) (.s 1) .su .nil (.mem [0, 1, 2, 3, 5, 6] [0, 1] true true) (scopeOk f))
  , rowMem "SST" true 0x51 .sst (fun f => shp (.s 1) (.s 1) .su .nil (.mem (upTo 4) [0, 2] false true) (scopeOk f))
  , rowMem "SATOM" true 0x52 .satom (fun f => shp (if isCas f then .sPair else .s 1) (.s 1) .su (.imm 0 10) (.mem [2, 3] (upTo 4) false false) (scopeOk f))
  , rowMem "FENCE_U" true 0x55 .fenceU (fun _ => shp .zero .zero .nil .nil (.mem [0] (upTo 4) false false) (true))
  , rowStd "MON" true 0x56 .mon (fun _ => shp (.s 1) (.s 1) .su .nil (mf (upTo 7)))
  , rowStd "MONW" true 0x57 .monw (fun _ => shp (.s 1) .zero .su .nil (mf (upTo 2)))
  , rowStd "LDL" false 0x56 .ldl (fun f => shp (.v (if f.fn == 1 then 4 else f.regs)) (.v 2) .su .nil (mt (if f.fn == 1 then [.n32] else [.i8, .n8, .i16, .n16, .n32, .n64]) (upTo 2))) (fun f => f.fn != 2)
  , rowStd "LDL_ADDR" false 0x56 .ldlAddr (fun _ => shp (.v 2) (.v 2) .su .nil (mt [.n64] [2])) (fun f => f.fn == 2)
  , rowStd "STL" false 0x57 .stl (fun f => shp (.v (if f.fn == 1 then 4 else f.regs)) (.v 2) .su .nil (mt (if f.fn == 1 then [.n32] else [.n8, .n16, .n32, .n64]) (upTo 2)))
  , rowStd "ATML" false 0x58 .atml (fun f => shp (.v f.regs) (.v 2) .su (.src f.regs) (.arith (if f.fn == 8 then [.f32] else tyInt) (upTo 9) (f.fn == 8) false false))
  , rowStd "CPL" false 0x59 .cpl (fun f => if bitN f.fn 2 == 1 then shpNum (.v 2) (.v 2) (mf [0, 1, 2, 4, 5, 6]) else shp (.v 2) (.v 2) .nil .nil (mf [0, 1, 2, 4, 5, 6]))
  , rowStd "CPX_EXPAND" false 0x5A .cpxExpand (fun _ => shp (.v 2) (.v 2) (.vOnly 2) .nil (mt [.e4m3, .e5m2, .l6, .i8, .n8, .f16, .bf16, .i16, .n16] [0])) (fun f => f.fn != 1)
  , rowStd "CPX_COMPACT" false 0x5A .cpxCompact (fun _ => shp (.v 2) (.v 2) (.vOnly 2) .nil (mt [.e4m3, .e5m2, .l6, .i8, .n8, .f16, .bf16, .i16, .n16] [1])) (fun f => f.fn == 1)
  , rowStd "CPZ" false 0x5B .cpz (fun f => if bitN f.fn 2 == 1 then shpNum (.v 2) .zero (mf [0, 1, 2, 4, 5, 6]) else shp (.v 2) .zero .nil .nil (mf [0, 1, 2, 4, 5, 6]))
  , rowStd "KMAP" true 0x58 .kmap (fun _ => shp (.s 1) (.s 1) .si (.sOrImm 0 15) m0)
  , rowStd "KUNMAP" true 0x59 .kunmap (fun _ => shp (.s 1) .zero .nil (.sOrImm 0 15) m0)
  , rowStd "KWB" true 0x5A .kwb (fun _ => shp (.s 1) .zero .nil (.sOrImm 0 15) (mf [0])) (fun f => f.fn != 1)
  , rowStd "KWB_ALL" true 0x5A .kwbAll (fun _ => shp (.s 1) .zero .nil .nil (mf [1])) (fun f => f.fn == 1)
  , rowStd "KINV" true 0x5B .kinv (fun _ => shp (.s 1) .zero .nil (.sOrImm 0 15) m0)
  , rowStd "CPST" true 0x5C .cpst (fun _ => shp (.s 1) (.s 1) .su .nil (mf (upTo 7)))
  , rowStd "CPW" true 0x5D .cpw (fun _ => shp (.s 1) (.s 1) .si .si m0) ]

/-- Tables 14.5, 15.5, 16.3, 16.5, 17.9, 18.4 and the footing U-words of R293, R295, R298 and R309. -/
def rowsUnit : List Row :=
  [ rowStd "TDRAIN" false 0x5C .tdrain (fun f => shp (.v f.regs) (if f.regs == 2 then .rawEven 12 else .raw 12) (.sOrImm 0 127) .nil (mt tyN (upTo 2)))
  , rowStd "TFEED" false 0x5D .tfeed (fun f => shp (if f.regs == 2 then .rawEven 12 else .raw 12) (.v f.regs) (.sOrImm 0 127) .nil (mt tyN (upTo 2)))
  , rowStd "SFBLEND" false 0x60 .sfblend (fun _ => shp (.v 4) (.v 1) .si .nil (mf (upTo 6)))
  , rowStd "SFDEPTH" false 0x61 .sfdepth (fun _ => shp .p (.v 1) .si (.vOnly 1) (mf (upTo 16)))
  , rowStd "SFLD" false 0x62 .sfld (fun f => shp (.v (2 ^ (f.fn % 4))) (.v 1) .si .nil (.arith [] (upTo 3) false false true))
  , rowStd "SFST" false 0x63 .sfst (fun f => shp (.v (2 ^ (f.fn % 4))) (.v 1) .si .nil (mf (upTo 3)))
  , rowStd "TEX" false 0x64 .tex (fun _ => shp (.v 4) (.v 4) .si .nil (.arith [] [] false false true))
  , rowStd "TEXG" false 0x65 .texg (fun _ => shp (.v 4) (.v 4) .si (.vOnly 4) (.arith [] [] false false true))
  , rowStd "TEXQ" false 0x66 .texq (fun _ => shp (.v 1) .zero .si (.src 1) (mf (upTo 4)))
  , rowStd "TRACE" false 0x67 .trace (fun _ => shp (.v 4) (.v 8) .si (.imm 0 255) (.arith [] (upTo 4) false false true))
  , rowStd "SFALLOC" true 0x60 .sfalloc (fun _ => shp (.s 1) (.s 1) .nil .nil m0)
  , rowStd "SFFREE" true 0x61 .sffree (fun _ => shpNum (.s 1) .zero m0)
  , rowStd "SFPIN" true 0x62 .sfpin (fun _ => shpNum (.s 1) .zero (mf [0])) (fun f => f.fn != 1)
  , rowStd "SFPIN_UNPIN" true 0x62 .sfpinUnpin (fun _ => shpNum (.s 1) .zero (mf [1])) (fun f => f.fn == 1)
  , rowStd "SFEVICT" true 0x63 .sfevict (fun _ => shpNum (.s 1) .zero m0)
  , rowStd "SFMAP" true 0x64 .sfmap (fun _ => shp (.s 1) .zero (.sOrImm 0 255) .nil (mf (upTo 3)))
  , rowStd "VQPUSH" true 0x68 .vqpush (fun _ => shp .zero (.s 1) .si .nil m0)
  , rowOne "VQFENCE" true 0x69 .vqfence (fun _ => .zero) (fun _ => .zero)
  , rowStd "RSBIND" true 0x6A .rsbind (fun _ => shp .zero (.s 1) .si .nil m0)
  , rowStd "MLEASE" true 0x90 .mlease (fun _ => shp (.s 1) .zero (.sOrImm 1 64) .nil m0)
  , rowOne "MFREE" true 0x91 .mfree (fun _ => .zero) (fun _ => .zero)
  , rowStd "MMA" true 0x92 .mma (fun f => shp (.s 1) (.s 6) (.imm 0 11) .nil (.arith [] [0, 1, 2, 4, 5, 6] false false true) (tileOk f)) (fun f => f.fn != 8)
  , rowStd "MMA_RESUME" true 0x92 .mmaResume (fun _ => shp (.s 1) .zero .nil .nil (mf [8])) (fun f => f.fn == 8)
  , rowStd "MMAS" true 0x93 .mmas (fun f => shp (.s 1) (.s 6) (.imm 0 11) .siPair (.arith [] [0, 1, 2, 4, 5, 6] false false true) (tileOk f))
  , rowStd "MMO" true 0x94 .mmo (fun f => shp (.s 1) (.s 6) (.imm 0 11) .nil (.arith [] (upTo 3) false false true) (tileOk f))
  , rowStd "MZERO" true 0x95 .mzero (fun f => shp (.s 1) .zero (.imm 0 11) .nil (mf (upTo 3)) (tileOk f))
  , rowStd "MLD" true 0x96 .mld (fun f => shp (.s 1) (.s 3) (if f.regs == 2 then .immEven 11 else .imm 0 11) .nil (.arith [.i32, .f32, .f64] (upTo 3) false false true) (tileOk f && (f.regs == 1 || bits f.fn 1 0 == 0)))
  , rowStd "MST" true 0x97 .mst (fun f => shp (.s 1) (.s 3) (if f.regs == 2 then .immEven 11 else .imm 0 11) .nil (.arith [.i32, .f32, .f64] [0, 1, 2, 4, 5, 6] false true false) (tileOk f && (f.regs == 1 || bits f.fn 1 0 == 0)))
  , rowOne "MREADY" true 0x98 .mready (fun _ => .zero) (fun _ => .zero)
  , rowOne "MROW" true 0x99 .mrow (fun _ => .s 1) (fun _ => .s 1)
  , rowStd "TIDSET" true 0x9C .tidset (fun _ => shpNum (.s 1) (.s 1) m0)
  , rowOne "TIDINV" true 0x9D .tidinv (fun _ => .s 1) (fun _ => .s 1)
  , rowStd "TIDQ" true 0x9E .tidq (fun _ => shpNum (.s 1) .zero (mf (upTo 8))) (fun f => f.fn != 8)
  , rowStd "TIDQ_STATE" true 0x9E .tidqState (fun _ => shpNum (.s 1) .zero (mf [8])) (fun f => f.fn == 8)
  , rowStd "COLDECL" true 0xA0 .coldecl (fun _ => shp (.s 1) (.s 1) (.imm 0 7) .nil m0)
  , rowStd "COLAG" true 0xA1 .colag (fun _ => shp (.s 1) (.s 3) (.imm 0 7) .nil m0)
  , rowStd "COLRS" true 0xA2 .colrs (fun _ => shp (.s 1) (.s 3) (.imm 0 7) .nil (mt [.f32, .bf16, .i32] (upTo 3)))
  , rowStd "COLAA" true 0xA3 .colaa (fun _ => shp (.s 1) (.s 3) (.imm 0 7) .nil m0)
  , rowStd "COLBAR" true 0xA4 .colbar (fun _ => shp (.s 1) .zero (.imm 0 7) .nil m0)
  , rowStd "CPRIO" true 0xA5 .cprio (fun _ => shp (.s 1) .zero (.sOrImm 0 7) .nil m0) ]

/-- Tables 7.8, 8.1, 9.4, 12.5, 19.4 and the context words of R58 and R60. -/
def rowsControl : List Row :=
  [ rowImm "BRA" false 0x70 .bra (fun _ => shp (.raw 2) .zero .nil .nil .offset)
  , rowImm "BRX" false 0x71 .brx (fun _ => shp .zero .zero .nil .nil .offset)
  , rowOne "BRI" false 0x72 .bri (fun _ => .zero) (fun _ => .v 2)
  , rowImm "CALL" false 0x73 .call (fun _ => shp (.v 2) .zero .nil .nil .offset)
  , rowOne "RET" false 0x74 .ret (fun _ => .zero) (fun _ => .v 2)
  , rowImm "SETMT" false 0x75 .setmt (fun _ => shp (.v 2) .zero .nil .nil .offset) (fun f => f.tail != 0)
  , rowImm "SETMT_R" false 0x75 .setmtR (fun _ => shp (.v 2) (.v 2) .nil .nil .offset) (fun f => f.tail == 0)
  , rowOne "EXIT" false 0x76 .exit (fun _ => .zero) (fun _ => .zero)
  , rowOne "NOP" false 0x77 .nop (fun _ => .zero) (fun _ => .zero)
  , rowOne "YLD" false 0x78 .yld (fun _ => .zero) (fun _ => .zero)
  , rowOne "BRK" false 0x79 .brk (fun _ => .zero) (fun _ => .zero)
  , rowImm "UBRA" true 0x70 .ubra (fun _ => shp .zero .zero .nil .nil .offset)
  , rowOne "UJMP" true 0x71 .ujmp (fun _ => .zero) (fun _ => .s 1)
  , rowImm "UCALL" true 0x72 .ucall (fun _ => shp (.s 1) .zero .nil .nil .offset)
  , rowOne "URET" true 0x73 .uret (fun _ => .zero) (fun _ => .s 1)
  , rowImm "LOOP" true 0x74 .loop (fun f => shp .zero (.s 1) .nil .nil .offset (8 ≤ f.tail.toInt))
  , rowOne "EXIT_U" true 0x76 .exitU (fun _ => .zero) (fun _ => .zero)
  , rowOne "NOP_U" true 0x77 .nopU (fun _ => .zero) (fun _ => .zero)
  , rowOne "HWAIT" true 0x78 .hwait (fun _ => .s 1) (fun _ => .s 1)
  , rowOne "BRK_U" true 0x79 .brkU (fun _ => .zero) (fun _ => .zero)
  , rowOne "TRAP" true 0x7A .trap (fun _ => .s 1) (fun _ => .raw 256)
  , rowOne "HTEST" true 0x7B .htest (fun _ => .s 1) (fun _ => .s 1)
  , rowOne "HCANCEL" true 0x7C .hcancel (fun _ => .s 1) (fun _ => .s 1)
  , rowOne "REGION" true 0x7D .region (fun _ => .zero) (fun _ => .zero)
  , rowImm "FCONT" true 0x7E .fcont (fun f => shp (.s 3) .zero .nil .nil .offset (f.a.toNat ≤ 61)) (fun f => f.tail != 0)
  , rowImm "FCONT_CLR" true 0x7E .fcontClr (fun _ => shp .zero .zero .nil .nil .offset) (fun f => f.tail == 0)
  , rowOne "FRET" true 0x7F .fret (fun _ => .s 1) (fun _ => .raw 2)
  , rowStd "BINIT" true 0x80 .binit (fun _ => shpNum .zero (.s 1) (mf (upTo 2)))
  , rowStd "BARR" true 0x81 .barr (fun f => shpNum (.s 1) (if f.fn == 1 then .s 1 else .zero) (mf (upTo 2)))
  , rowStd "BWAIT" true 0x82 .bwait (fun _ => shpNum .p (.s 1) m0)
  , rowStd "BARW" true 0x83 .barw (fun f => shpNum .p (if f.fn == 1 then .s 1 else .zero) (mf (upTo 2)))
  , rowStd "BINV" true 0x84 .binv (fun _ => shpNum .zero .zero m0)
  , rowStd "BTEST" true 0x85 .btest (fun _ => shpNum .p (.s 1) m0)
  , rowStd "RGWAIT" true 0x86 .rgwait (fun _ => shp .zero .zero (.imm 0 7) (.sOrImm 0 15) (mf (upTo 2))) (fun f => bitN f.fn 1 == 0)
  , rowStd "RGWAIT_TEST" true 0x86 .rgwaitTest (fun _ => shp .p .zero (.imm 0 7) (.sOrImm 0 15) (mf [2, 3])) (fun f => bitN f.fn 1 == 1)
  , rowStd "RGADV" true 0x87 .rgadv (fun _ => shp .zero .zero (.imm 0 7) (.sOrImm 0 15) (mf (upTo 2)))
  , rowStd "GDEC" true 0x88 .gdec (fun _ => shp (.s 1) (.s 1) .nil .nil m0)
  , rowStd "GADD" true 0x89 .gadd (fun _ => shp (.s 1) (.s 1) (.sOrImm 0 127) .nil m0)
  , rowStd "GSIG" true 0x8A .gsig (fun _ => shp (.s 1) (.s 1) .nil .nil m0)
  , rowOne "RFE" true 0xB0 .rfe (fun _ => .s 1) (fun _ => .s 1)
  , rowOne "CKILL" true 0xB1 .ckill (fun _ => .s 1) (fun _ => .s 1)
  , rowOne "CRCL" true 0xB2 .crcl (fun _ => .s 1) (fun _ => .s 1)
  , rowStd "TLBINV_PAGE" true 0xB3 .tlbinvPage (fun _ => shp (.s 1) (.s 1) .si .nil (mf [0, 4])) (fun f => bits f.fn 1 0 == 0)
  , rowStd "TLBINV_RANGE" true 0xB3 .tlbinvRange (fun _ => shp (.s 1) (.s 1) .si .si (mf [1, 5])) (fun f => bits f.fn 1 0 == 1)
  , rowStd "TLBINV_CID" true 0xB3 .tlbinvCid (fun _ => shp (.s 1) .zero .si .nil (mf [2, 6])) (fun f => bits f.fn 1 0 == 2)
  , rowStd "TLBINV_ALL" true 0xB3 .tlbinvAll (fun _ => shp (.s 1) .zero .nil .nil (mf [3, 7])) (fun f => bits f.fn 1 0 == 3)
  , rowStd "PGPROBE" true 0xB4 .pgprobe (fun _ => shp (.s 1) (.s 1) .si .nil m0) ]

/-- Every assigned form of Tables 1.9 and 1.10 (R21). -/
def rows : List Row :=
  rowsMove ++ (rowsInt ++ (rowsIntU ++ (rowsFloat ++ (rowsMem ++ (rowsUnit ++ rowsControl)))))

/-- The row of a domain and opcode, and of the fields where the opcode has two forms. -/
def rowOf (f : Fields) : Option Row := rows.find? fun r => r.dom == f.dom && r.op == f.op.toNat && r.sel f

/-- Is the opcode assigned, and to which length (R21, R23)? True for two words. -/
def lengthOf (dom : Bool) (op : Nat) : Option Bool :=
  (rows.find? fun r => r.dom == dom && r.op == op).map Row.two

/-- The three U-words that take no guard (R20). -/
def guardForbidden (dom : Bool) (op : Nat) : Bool := dom && (op == 0x7D || op == 0x74 || op == 0xB0)

end Sys2Proof
end

