-- ==== Sys2Proof/WellFormed.lean ====
section
/-!
DEFINITION. Well-formed instructions: those whose fields the spec's field tables accept (01_encoding.md R8 to R20,
R24), each check under its own name, and which are the form those fields stand for.
-/

namespace Sys2Proof

/-- X agrees with the opcode's length (R8). -/
def Fields.lengthOk (f : Fields) : Bool := lengthOf f.dom f.op.toNat == some f.x

/-- With GE = 0, GS and G are zero (R8). -/
def Fields.guardBitsOk (f : Fields) : Bool := f.ge || (!f.gs && f.g == 0)

/-- The opcodes of R20 carry no guard. -/
def Fields.guardAllowed (f : Fields) : Bool := !(guardForbidden f.dom f.op.toNat && f.ge)

/-- The operand fields and the tail hold what the row of the form accepts. -/
def Fields.fieldsOk (f : Fields) : Bool :=
  match rowOf f with
  | none => false
  | some r => (r.shape f).ok f

/-- The instruction the fields stand for. -/
def Fields.instr (f : Fields) : Option Instr := (rowOf f).bind fun r => r.build f

/-- A well-formed instruction: a device step, or a form whose fields pass every check and stand for it. -/
def Instr.wf (i : Instr) : Bool :=
  match i.fields with
  | none => true
  | some f => f.lengthOk && f.guardBitsOk && f.guardAllowed && f.fieldsOk && f.instr == some i

end Sys2Proof
end

