-- ==== Sys2Proof/Decode.lean ====
section
/-!
DEFINITION. The decoder of R24, total on any pair of words, and the encoder of R35 written from the same tables.
The decoder names the check that refuses a pattern. Fetching the words is the step's part.
-/

namespace Sys2Proof

/-- Why a pattern is an illegal encoding: the checks of R24, in their order. -/
inductive Illegal
  /-- the all-zero word, or an OP value reserved in its domain -/
  | unassigned
  /-- X differs from the opcode's length -/
  | length
  /-- GE is 0 and GS or G is not -/
  | guardBits
  /-- a guard on region, loop or rfe -/
  | guardForbidden
  /-- a field holds a value its entry does not accept -/
  | fields
deriving DecidableEq, Repr

/-- The outcome of decoding a pair of words. -/
inductive Decoded
  | instr (i : Instr)
  | illegal (why : Illegal)
deriving DecidableEq, Repr

/-- The checks of R24 on the first word alone; none when it may go on to the tail. -/
def checkFirst (w : Word) : Option Illegal :=
  let f := Fields.ofWords w 0
  match lengthOf f.dom f.op.toNat with
  | none => some .unassigned
  | some two =>
    if w == 0 then some .unassigned
    else if f.x != two then some .length
    else if !f.guardBitsOk then some .guardBits
    else if !f.guardAllowed then some .guardForbidden
    else none

/-- Does the first word ask for a tail (R8)? -/
def wantsTail (w : Word) : Bool := w.getLsbD 30

/-- Decoding of a first word and its tail, 0 where there is none (R24 down to FieldsValid). -/
def decodeWords (w t : Word) : Decoded :=
  match checkFirst w with
  | some e => .illegal e
  | none =>
    let f := Fields.ofWords w (if wantsTail w then t else 0)
    if f.fieldsOk then
      match f.instr with
      | some i => .instr i
      | none => .illegal .fields
    else .illegal .fields

/-- Decoding of a list of bytes, lowest address first (R6): the instruction and the bytes after it. -/
def decodeBytes (bs : List Byte) : Option (Decoded × List Byte) :=
  if bs.length < 4 then none
  else
    let w := BitVec.ofNat 32 (ofBytes (bs.take 4))
    if (checkFirst w).isNone && wantsTail w then
      if bs.length < 8 then none
      else some (decodeWords w (BitVec.ofNat 32 (ofBytes ((bs.drop 4).take 4))), bs.drop 8)
    else some (decodeWords w 0, bs.drop 4)

/-- The words of an instruction, first word first (R35); a device step has none. -/
def encode (i : Instr) : List Word :=
  match i.fields with
  | none => []
  | some f => if f.x then [f.first, f.tail] else [f.first]

/-- The length in bytes of an instruction (R23). -/
def Instr.length (i : Instr) : Nat :=
  match i.fields with
  | none => 0
  | some f => if f.x then 8 else 4

/-- The bytes of a table word: its bits from bit 0, with 0 above them, 8 bytes in all (R6). -/
def tableBytes (nbits w : Nat) : List Byte := toBytes 8 (w % 2 ^ nbits)

/-- The instruction the decoder reads from a word numbered as the opcode table numbers it. -/
def decodeTableWord (nbits w : Nat) : Option Instr :=
  match decodeBytes (tableBytes nbits w) with
  | some (.instr i, _) => some i
  | _ => none

end Sys2Proof
end

