-- ==== Sys2Proof/Config.lean ====
section
/-!
DEFINITION. What the spec leaves open, as constants with no body (log 3), and the counts of the package
(00_scope.md, 18_fabric.md). A free value is one of these applied to State.tick, so that nothing can say what it is.
-/

namespace Sys2Proof.Config

/-- A byte the spec does not determine. -/
opaque freeByte (tick idx : Nat) : Byte
/-- A number the spec does not determine. -/
opaque freeNat (tick idx : Nat) : Nat
/-- A choice between two outcomes the spec allows. -/
opaque freeBool (tick idx : Nat) : Bool
/-- Which of several moves comes next (R141 to R145, R316: no order is promised). -/
opaque pick (tick count : Nat) : Nat

/-- The faithful functions of Table 6.3: true takes the upper of the two neighbours the bound allows. -/
opaque faithfulUp (op x : Nat) : Bool
/-- The special functions whose result Table 6.3 bounds but does not fix: bits of the f32 result. -/
opaque special (op x : Nat) (ftz : Bool) : Word

/-- The error of a level of detail, a fixed function of its inputs (17_footing.md R308). -/
opaque lodError (inputs : List Int) : Nat

/-- The code with which a peer device answers a request: 3 where its access tables deny it, 5 where the line it reads is
poisoned there, any other number where it performs it (11_memory.md R207). -/
opaque peerAnswer (tick key : Nat) : Nat

/-- One less than the notifications that a slice's buffer holds (07_launch.md R130). -/
opaque notifRoom : Nat

/-- SHA-256 of a byte list (20_outside.md): its value is not the spec's to state. -/
opaque sha256 (bs : List Byte) : List Byte
/-- Does a signature over a digest verify under the key in the fuses (20_outside.md R369)? -/
opaque verifies (digest sig : List Byte) : Bool
/-- The attestation signature over a report (20_outside.md R372). -/
opaque sign (bs : List Byte) : List Byte
/-- A fused byte: serial number, certificate and keys (20_outside.md R371). -/
opaque fuse (idx : Nat) : Byte

/-- The entries of the boot table, as the boot ROM fills it: 128 bits each (02_contexts.md R57). -/
opaque bootEntry (n : Nat) : Nat

/-- The core whose vertical port a lane of the vertical bus serves (18_fabric.md R323, 20_outside.md R376). -/
opaque laneCore (lane : Nat) : Nat
/-- The spare lanes of a die's vertical bus (18_fabric.md R323). -/
opaque spareLanes (die : Nat) : Nat

/-- Bytes that an item with so many bytes of data takes in a store buffer (R354). -/
opaque itemBytes (len : Nat) : Nat

/-- Bytes of HBM (00_scope.md): 384 GiB behind the home agents. -/
def hbmBytes : Nat := 384 * 2 ^ 30
/-- Cores of the package (Table 0.2). -/
def cores : Nat := 256
/-- Dies of the package, one per stack. -/
def dies : Nat := 2

end Sys2Proof.Config
end

