-- ==== Sys2Proof/Machine/Store.lean ====
section
/-!
DEFINITION. Finite maps as lists of key and value pairs in one canonical form: keys strictly rising and, where the
map has a value for unlisted keys, no entry equal to it. Memory, register files and tables are such maps.
-/

namespace Sys2Proof

/-- The value listed for a key. -/
def mfind (k : Nat) : List (Nat × α) → Option α
  | [] => none
  | (j, v) :: l => if j = k then some v else mfind k l

/-- The map without a key. -/
def merase (k : Nat) : List (Nat × α) → List (Nat × α)
  | [] => []
  | (j, v) :: l => if j = k then merase k l else (j, v) :: merase k l

/-- The map with a key bound to a value, keys kept rising. -/
def mput (k : Nat) (v : α) : List (Nat × α) → List (Nat × α)
  | [] => [(k, v)]
  | (j, w) :: l => if k < j then (k, v) :: (j, w) :: l else if k = j then (k, v) :: l else (j, w) :: mput k v l

/-- The value at a key of a map in which an unlisted key reads `d`. -/
def mget (d : α) (k : Nat) (l : List (Nat × α)) : α := (mfind k l).getD d

/-- Write a key of such a map; writing `d` removes the entry. -/
def mset [DecidableEq α] (d : α) (k : Nat) (v : α) (l : List (Nat × α)) : List (Nat × α) :=
  if v = d then merase k l else mput k v l

/-- Keys strictly rising, all above a bound. -/
def keysAbove : Option Nat → List (Nat × α) → Bool
  | _, [] => true
  | none, (j, _) :: l => keysAbove (some j) l
  | some b, (j, _) :: l => decide (b < j) && keysAbove (some j) l

/-- The canonical form: keys strictly rising, and no entry equal to the value of an unlisted key. -/
def mwf [DecidableEq α] (d : α) (l : List (Nat × α)) : Bool := keysAbove none l && l.all fun e => decide (e.2 ≠ d)

/-- Change the value at a key, if it is listed. -/
def mmod (k : Nat) (f : α → α) (l : List (Nat × α)) : List (Nat × α) :=
  match mfind k l with
  | none => l
  | some v => mput k (f v) l

/-- Insert a number into a rising list without repeats. -/
def insertNat (k : Nat) : List Nat → List Nat
  | [] => [k]
  | j :: l => if k < j then k :: j :: l else if k = j then j :: l else j :: insertNat k l

/-- Insert a pair into a list of pairs in rising order of their keys. -/
def insertByKey (e : Nat × α) : List (Nat × α) → List (Nat × α)
  | [] => [e]
  | f :: l => if e.1 ≤ f.1 then e :: f :: l else f :: insertByKey e l

/-- Pairs in rising order of their keys. -/
def sortByKey : List (Nat × α) → List (Nat × α)
  | [] => []
  | e :: l => insertByKey e (sortByKey l)

/-- The numbers from `a` on, `n` of them. -/
def range' (a n : Nat) : List Nat := (List.range n).map (a + ·)

end Sys2Proof
end

