-- ==== Sys2Proof/Machine/State.lean ====
section
/-!
DEFINITION. The state of the package as plain data: every register, table, queue and memory the spec gives it
(INVENTORY.md, State), and the state right after reset.
-/

namespace Sys2Proof.Machine

open Sys2Proof

/-- A finite map: keys strictly rising, no entry equal to what an unlisted key reads as. -/
abbrev Map (α : Type) := List (Nat × α)

/-- Why the machine stops with a fault. The spec makes every fault it describes an exception that the machine takes
and goes on from, so this model stops with none. -/
inductive Fault
  /-- Raised by no meaning: every fault of the spec is taken as an exception (R333). Safe. -/
  | none
deriving DecidableEq, Repr

/-- Why the model has no meaning for a step. -/
inductive Refusal
  /-- The instruction with this mnemonic has no meaning yet. Raised by exec alone. Safe: the run stops. -/
  | notModelled (mnemonic : String)
deriving DecidableEq, Repr

/-- A value that may carry poison: its value, or the token of the fault it carries (R61, R68). -/
inductive PV (α : Type)
  | ok (a : α)
  | bad (tok : Word)
deriving DecidableEq, Repr

/-- The roles of a group (R125). -/
inductive Role
  | copy | vector | matrix
deriving DecidableEq, Repr

/-- One entry of a loop stack (R155). -/
structure LoopEntry where
  start : Nat
  last : Nat
  rem : Nat
deriving DecidableEq, Repr

/-- A thread: what R147, R155 and R341 give it, and its CRC signature (R354). -/
structure Thread where
  pc : Nat := 0
  meet : Option Nat := none
  repc : Option Nat := none
  remeet : Option Nat := none
  rdepth : Nat := 0
  trec : Nat := 0
  exited : Bool := false
  held : Bool := false
  released : Bool := false
  path : Nat := 0
  loops : List LoopEntry := []
  sig : DWord := BitVec.allOnes 64
deriving DecidableEq, Repr

/-- What a path waits for before its instruction issues again. -/
inductive Wait
  /-- nothing: the path is ready -/
  | none
  /-- the operation of a handle-table entry with this sequence number (R161, R162) -/
  | handle (entry : Nat) (seq : Nat)
  /-- a free handle-table entry (R160) -/
  | handleFree
  /-- the phase of a barrier's token, with the q-register that takes the status (R170, R173) -/
  | barrier (n phase epoch q : Nat)
  /-- a stage of a ring (R170) -/
  | ring (g stage : Nat) (empty : Bool)
  /-- a write to the monitored bytes, which last read as the value (R213) -/
  | monitor (seen : Nat)
  /-- a lease of the core's matrix engine; mlease then writes the count into its register (R255, R265) -/
  | lease (reg : Option (Nat × Nat))
  /-- the end of a kill or reclaim of a context, which answers the instruction (R52, R60) -/
  | quiet (cid : Nat)
  /-- the event under way on a context (R51) -/
  | context (cid : Nat)
  /-- accesses that used a translation in the process of being invalidated (R224) -/
  | translations
  /-- the copies of the group (R234) -/
  | copies
  /-- the footing work of the group to drain (R293) -/
  | footing
  /-- room in a queue (R226, R292, R296) -/
  | room
  /-- a free fault-queue entry (R222) -/
  | faultRoom
  /-- the locator of another team to settle (R178) -/
  | locator (save : Nat)
  /-- a commit (R355): at an overflow 0, at region 1, at exit 2 -/
  | twin (at_ : Nat)
  /-- a result on its way to this instruction: a texture, traversal or surface operation -/
  | result (id : Nat)
  /-- the team's copies and matrix loads to drain (R191) -/
  | drain
  /-- the operations accepted by a surface that sffree has made FREEING (R291) -/
  | freeing (sid : Nat)
  /-- a push of this path that waits in its core's vertical queue (R296) -/
  | pushed (id : Nat)
  /-- the fault under swap-out that the group holds already, beside which it holds no second one (R335) -/
  | second
  /-- a held fault: the path stands still until it is resolved (R333) -/
  | fault
deriving DecidableEq, Repr

/-- A path of a group (R144, R145): its ageing count and what it waits for. Its threads carry its number. -/
structure PathSt where
  age : Nat := 0
  wait : Wait := .none
  /-- 1024 sibling issues have passed (R145) -/
  due : Bool := false
  /-- the path's instruction has yielded, until its group issues again (R154) -/
  yielded : Bool := false
  /-- it could issue when its group chose a path last (R145) -/
  ready : Bool := false
  /-- the path's instruction has committed (R355) -/
  committed : Bool := false
  /-- the path waits in a barw that has arrived (R173) -/
  arrived : Bool := false
  /-- when the path began to wait at its instruction, in the order of its group; 0 where it has not (R359) -/
  since : Nat := 0
deriving DecidableEq, Repr

/-- A fault record (Table 19.2), with what its resolution needs (R338). -/
structure FaultRec where
  seq : Nat := 0
  code : Nat
  deferred : Bool := false
  cont : Bool := false
  held : Bool := false
  queued : Bool := false
  unrec : Bool := false
  terminal : Bool := false
  teamend : Bool := false
  copy1 : Bool := false
  group : Nat
  trapno : Nat := 0
  cid : Nat
  icn : Nat
  core : Nat
  pc : Nat := 0
  addr : Nat := 0
  token : Word := 0
  recN : Word := 0
  mask : Nat := 0
  save : Nat := 0
  arg : DWord := 0
  /-- the fault arose in the fetch of the first word (R338) -/
  firstFetch : Bool := false
  /-- length of the instruction as decoded at the fault (R338) -/
  len : Nat := 4
  /-- the fault-queue entry has been released (R224) -/
  released : Bool := false
  /-- the action of a resolution not yet applied (Table 19.3) -/
  action : Option Nat := Option.none
deriving DecidableEq, Repr

/-- The pixel registers of a lane (R65, Table 17.8). -/
structure PixelLane where
  x : Word := 0
  y : Word := 0
  sample : Word := 0
  cover : Word := 0
  u : Word := 0
  v : Word := 0
  prim : Word := 0
deriving DecidableEq, Repr

/-- What makes a group a pixel group (R302 to R304). -/
structure PixelInfo where
  lanes : List PixelLane := []
  ticket : Nat := 0
  tile : Nat := 0
  batch : Nat := 0
deriving DecidableEq, Repr

/-- A group of 32 threads, or the matrix thread as group 32 (R61, R333). -/
structure Group where
  num : Nat
  role : Role
  satellite : Bool := false
  pixel : Option PixelInfo := Option.none
  v : Map (PV Word) := []
  s : Map (PV DWord) := []
  p : Map (PV Bool) := []
  q : Map (PV Bool) := []
  /-- pending marks of R161 -/
  pend : List Nat := []
  fflags : BitVec 5 := 0
  gstat : Word := 0
  recN : Word := 0
  threads : List Thread := []
  paths : Map PathSt := []
  cur : Option Nat := Option.none
  /-- instructions retired since the team's last completed barrier phase (R142) -/
  urgent : Nat := 0
  /-- 4096 core clocks have passed without an issue (R141) -/
  starved : Bool := false
  /-- the recorded copy code, 0 for none (R229) -/
  copyCode : Nat := 0
  /-- the recorded report code, 0 for none (R57, R288) -/
  reportCode : Nat := 0
  /-- the report code was recorded before the copy code (R212) -/
  reportFirst : Bool := false
  /-- the copy code lost data in scratch or a stash window (R229) -/
  copyLost : Bool := false
  /-- the monitor: address and scope (R213) -/
  mon : Option (Nat × Scope) := Option.none
  /-- the fault redirected to a continuation (R335) -/
  redirected : Option FaultRec := Option.none
  /-- the fault under swap-out (R337) -/
  swapped : Option FaultRec := Option.none
  /-- the handle-table entry and sequence number of the thread's last matrix operation, and its progress (R258) -/
  lastOp : Option (Nat × Nat) := Option.none
  /-- the operations whose handles the group has waited for, by entry and sequence number (R263) -/
  awaited : List (Nat × Nat) := []
  progress : DWord := 0
  /-- mismatches of R356 at a TREC: the TREC and the count -/
  mismatch : Nat × Nat := (0, 0)
  /-- the region has been partly committed at an overflow (R356) -/
  partly : Bool := false
  /-- a yld has sent the group behind the others of its slot, until the slot issues again (R154) -/
  aside : Bool := false
  /-- while the group is diverged: a count of its issues, and how its lanes were divided into paths before, each up to a
  count, latest first (R72) -/
  clock : Nat := 0
  parts : List (Nat × List Nat) := []
  /-- while the group is diverged, the values that registers held before, latest first, each with the count at which it
  was overwritten (R72): by v- and p-register and lane; by s- and q-register, with the lanes that wrote -/
  pastV : Map (List (Nat × PV Word)) := []
  pastP : Map (List (Nat × PV Bool)) := []
  pastS : Map (List (Nat × List Nat × PV DWord)) := []
  pastQ : Map (List (Nat × List Nat × PV Bool)) := []
  /-- within one instruction, what its path reads of registers that other paths wrote (R72); empty between steps -/
  viewS : Map (PV DWord) := []
  viewQ : Map (PV Bool) := []
deriving DecidableEq, Repr

/-- A stash window (Table 10.4). -/
structure Window where
  base : Nat
  len : Nat
  soff : Nat
  mode : Nat
deriving DecidableEq, Repr

/-- A named barrier (Table 9.1). -/
structure Barrier where
  phase : Nat := 0
  epoch : Nat := 0
  valid : Bool := false
  count : Nat := 0
  pending : Nat := 0
  tx : Nat := 0
deriving DecidableEq, Repr

/-- A stage ring (Table 9.2): its depth and the FULL bits. -/
structure Ring where
  depth : Nat := 0
  full : Nat := 0
deriving DecidableEq, Repr

/-- A handle-table entry (R160, Table 8.4). Status 0x80 is not complete. -/
structure HandleEnt where
  kind : Nat
  seq : Nat
  status : Nat := 0x80
  code : Nat := 0
  /-- order of completion, for reuse (R160) -/
  doneAt : Nat := 0
  cancel : Bool := false
  /-- a token to raise at the first read (R269): the token and the address of the mst -/
  raise : Option (Word × Nat) := Option.none
  progress : DWord := 0
deriving DecidableEq, Repr

/-- A registered continuation (R342). -/
structure Cont where
  pc : Nat
  base : Nat
deriving DecidableEq, Repr

/-- A spawn record (R157): a target and the values of one lane's registers. -/
structure SpawnRec where
  /-- its place in spawn memory (Table 19.6) -/
  at_ : Nat := 0
  target : Nat
  vals : List (PV Word)
  /-- it has waited 2048 core clocks (R158) -/
  old : Bool := false
deriving DecidableEq, Repr

/-- A collective slot (R324). -/
structure ColSlot where
  tag : Nat
  size : Nat
  rank : Nat
  next : Nat := 0
deriving DecidableEq, Repr

/-- The residence states of Table 10.2. -/
inductive Loc
  | unbound | resident | saving | saved | restoring | ended
deriving DecidableEq, Repr

/-- A bind record (Table 7.6). -/
structure Bind where
  cmd : Nat := 0
  result : Nat := 0
  cid : Nat := 0
  icn : Nat := 0
  ticket : Nat := 0
  tx : Nat := 0
  ty : Nat := 0
  tz : Nat := 0
  vregBase : Nat := 0
  barBase : Nat := 0
  scrBase : Nat := 0
  staBase : Nat := 0
  gslot : Nat := 0
  mslot : Nat := 0
  save : Nat := 0
  /-- the reserved bytes and bits, 0 when they are zero -/
  reserved : Nat := 0
deriving DecidableEq, Repr

/-- A kernel header (Table 1.18), entries as absolute addresses. -/
structure Hdr where
  flags : Nat := 0
  /-- the matrix role is present: the offset of its entry is not 0 (R39) -/
  matrix : Bool := false
  copyEntry : Nat := 0
  vecEntry : Nat := 0
  matEntry : Nat := 0
  copyGroups : Nat := 0
  copyRegs : Nat := 0
  vecGroups : Nat := 0
  vecRegs : Nat := 0
  matRegs : Nat := 0
  scratchGr : Nat := 0
  stashGr : Nat := 0
  l1Gr : Nat := 0
  cls : Nat := 0
  barriers : Nat := 0
  rings : Nat := 0
  stages : Nat := 0
  records : Nat := 0
  live : Nat := 0
  satellites : Nat := 0
  scratchBytes : Nat := 0
  stashBytes : Nat := 0
deriving DecidableEq, Repr

/-- Where a checked access is performed. -/
inductive Place
  | scratch (team off : Nat)
  /-- valid words of a live window, or a write-back store -/
  | stash (off : Nat)
  /-- a load that first fills its line from where the line lies, in registration mode or not -/
  | stashFill (off : Nat) (line : Place) (coh : Bool)
  /-- a write-through store, and where it is performed -/
  | stashThrough (off : Nat) (p : Place)
  /-- an atomic that first writes the line back, and where it is performed -/
  | stashAtomic (off va : Nat) (p : Place)
  | normal (pa : Nat)
  | device (pa : Nat)
  | surface (sid off : Nat)
  | remote (dev pa : Nat)
deriving DecidableEq, Repr

/-- The kinds of copy engine entries (R226). -/
inductive CopyKind
  | cpl | cpz | expand | compact | stamp | cpw
deriving DecidableEq, Repr

/-- One lane of a queued copy: its addresses with the places they were translated to at issue (R227), and how far it has
come: no byte is atomic with another (R228). Bytes of the metadata address count from 256 on. -/
structure LaneCopy where
  lane : Nat
  dst : Nat × Place
  src : Option (Nat × Place) := none
  meta_ : Option (Nat × Place) := none
  done : Bool := false
  /-- the source bytes read so far, and the destination bytes written -/
  got : Map Byte := []
  wrote : List Nat := []
  /-- its destination lies in the core, and each copy of a paired team performs it for itself (R236) -/
  own : Bool := false
deriving DecidableEq, Repr

/-- How a lane has ended after issue: its code, whether data in the core store was lost, and whether it was this copy's
own (R229). -/
structure CopyFail where
  code : Nat
  lost : Bool
  own : Bool := false
deriving DecidableEq, Repr

/-- The line of its destination that a bulk copy is at: its number from the first, the source bytes read, and the bytes
written (R228). -/
structure BulkLine where
  num : Nat
  got : Map Byte := []
  wrote : List Nat := []
deriving DecidableEq, Repr

/-- An operation of a copy engine (R226 to R235): a queued per-lane copy, a stamp, or a bulk copy. -/
structure CopyOp where
  team : Nat
  group : Nat
  core : Nat
  cid : Nat
  icn : Nat
  kind : CopyKind
  ty : NumType := .i32
  /-- bytes per lane -/
  size : Nat := 0
  lanes : List LaneCopy := []
  /-- the barrier and its EPOCH at issue (R231) -/
  bar : Option (Nat × Nat) := none
  /-- the barrier of the other copy of a paired team, with its EPOCH (R236) -/
  twinBar : Option (Nat × Nat) := none
  /-- ended lanes that the barrier has yet to hear of: whether each is this copy's own -/
  owed : List Bool := []
  /-- how lanes have ended that the group has yet to record (R229) -/
  fails : List CopyFail := []
  /-- the place of the instruction in the order of its group's copies, and that of its twin (R228, R234) -/
  seq : Nat := 0
  twinSeq : Option Nat := none
  /-- a stamp: its address, value and scope; whether a covered copy failed. Its one lane holds its place -/
  va : Nat := 0
  val : DWord := 0
  scope : Scope := .grp
  withheld : Bool := false
  /-- a bulk copy: the handles it completes (team, entry, sequence number), its ranges, the lines of its destination that
  it has not begun, and the line it is at -/
  handles : List (Nat × Nat × Nat) := []
  dst : Nat := 0
  src : Nat := 0
  len : Nat := 0
  gaps : List (Nat × Nat) := []
  line : Option BulkLine := none
  /-- it waits for the release of a fault-queue entry at an address (R222, R235) -/
  blocked : Option Nat := none
  /-- the status and code a bulk copy ends with, once it has ended -/
  ended : Option (Nat × Nat) := none
deriving DecidableEq, Repr

/-- The matrix operations (R266 to R269). -/
inductive MxKind
  | mma | mmas | mmo | mzero | mld | mst
deriving DecidableEq, Repr

/-- An operand element as the engine has read it: bits, whether its position is real, its block scale, and the code of
a failed read under .spec (R259, R261). -/
structure MxElem where
  x : Nat := 0
  real : Bool := true
  scale : Nat := 127
  bad : Option Nat := none
  /-- no stored value stands here (R246) -/
  skip : Bool := false
deriving DecidableEq, Repr

/-- A matrix operation that an engine has accepted, or that a stop has left FAULTED (R256 to R260). -/
structure MxOp where
  kind : MxKind
  team : Nat
  entry : Nat
  seq : Nat
  pc : Nat
  cid : Nat
  icn : Nat
  tile : Nat
  cols : Nat
  spec : Bool := false
  outliers : Bool := false
  mx : Bool := false
  sat : Bool := false
  ty : NumType := .f32
  /-- records as read at issue (R251), as 512-bit numbers -/
  recA : Nat := 0
  recB : Nat := 0
  recO : Nat := 0
  ao : List Int := []
  bo : List Int := []
  k : Nat := 0
  /-- ADDR and PITCH of the metadata (R246) -/
  meta_ : Nat × Nat := (0, 0)
  /-- an identifier was not valid under .spec: every element is poisoned with the code (R266) -/
  allBad : Option Nat := none
  chunk : Nat := 0
  bands : Nat := 0
  /-- the B elements of the chunk in progress, once read -/
  bdata : Option (List MxElem) := none
  flags : BitVec 5 := 0
  /-- stopped with a code, and FAULTED rather than running (R260) -/
  faulted : Option Nat := none
  /-- the address whose fault-queue entry stopped it (R267) -/
  blocked : Option Nat := none
  /-- the entry that stopped it was released with .fail and this code (R224, R267) -/
  failed : Option Nat := none
deriving DecidableEq, Repr

/-- An operation that writes tiles, from its issue until the threads have waited for it: the tiles as they have stood since,
and what a tfeed leaves to its end (R263). -/
structure TileRace where
  entry : Nat
  seq : Nat
  tile : Nat
  count : Nat
  running : Bool := true
  past : List (Map (PV Word)) := []
  late : Map (PV Word) := []
deriving DecidableEq, Repr

/-- A notification on its way from a slice to its die's walker (R128). -/
structure Notif where
  die : Nat
  cid : Nat
  icn : Nat
  va : Nat
  pa : Nat
deriving DecidableEq, Repr

/-- An entry of a walker's queues (R130) with the walker's copy of the node; `unread` where the node could not be
read (R133). -/
structure QueueEnt where
  die : Nat
  cid : Nat
  icn : Nat
  va : Nat
  pa : Nat
  eprio : Nat
  node : Nat
  unread : Bool := false
deriving DecidableEq, Repr

/-- A quad of a pixel group: its position, the ordinal and record of its primitive, the raster state, the fan triangle
that covers it, and the covered samples of its four pixels (R300 to R304). -/
structure Quad where
  x : Nat
  y : Nat
  ordinal : Nat
  prim : Nat
  state : Nat
  /-- the fan triangle's vertices after clipping: x, y, z, w each in units of 2^-149 -/
  tri : List Int
  /-- its snapped positions in 1/256 pixel -/
  pos : List (Int × Int)
  cover : List Nat
deriving DecidableEq, Repr

/-- An open pixel group of a screen tile (R302). -/
structure OpenGroup where
  core : Nat
  sshade : Bool
  samples : Nat
  quads : List Quad := []
deriving DecidableEq, Repr

/-- A closed pixel group on its way to a free slot of its pool team (R302, R303). -/
structure ClosedGroup where
  ticket : Nat
  core : Nat
  tile : Nat
  batch : Nat
  sshade : Bool
  samples : Nat
  quads : List Quad
deriving DecidableEq, Repr

/-- An admitted primitive on its way through one owner's raster unit (R299, R300). -/
structure RasterItem where
  ticket : Nat
  core : Nat
  ordinal : Nat
  prim : Nat
  state : Nat
deriving DecidableEq, Repr

/-- The batches of a screen tile: the next number, and those closed and not finished (R283, R302). -/
structure Batches where
  next : Nat := 0
  unfinished : List Nat := []
deriving DecidableEq, Repr

/-- The sequencer of a draw instance and its screen tiles (R296 to R302). Records and blocks are 512-bit numbers. -/
structure Draw where
  next : Nat := 0
  held : Map Nat := []
  heldBinds : Map Nat := []
  /-- the raster state block in force -/
  state : Nat := 0
  ua : List Nat := []
  ub : List Nat := []
  open_ : Map OpenGroup := []
  batches : Map Batches := []
  drained : Bool := false
deriving DecidableEq, Repr

/-- A running instance of a node (R132, R136): the walker's copies and what it counts. -/
structure Inst where
  die : Nat
  cid : Nat
  icn : Nat
  eprio : Nat
  va : Nat
  pa : Nat
  node : Nat
  succ : List Nat := []
  hdr : Hdr := {}
  pix : Hdr := {}
  args : List Byte := []
  draw : Option Draw := none
  /-- teams bound so far: pool, x, y, z -/
  bound : List (Bool × Nat × Nat × Nat) := []
  ended : Nat := 0
  /-- the lines of a bulk copy's destination still to be copied, as ranges of their numbers; none before the first -/
  gaps : Option (List (Nat × Nat)) := none
deriving DecidableEq, Repr

/-- The successors that a finished instance has yet to decrement, each with its index in the list (R130, R132). -/
structure Decs where
  die : Nat
  cid : Nat
  icn : Nat
  left : List (Nat × Nat)
deriving DecidableEq, Repr

/-- A push or bind in a vertical queue (R292, R295, R298). -/
structure Push where
  team : Nat
  group : Nat
  core : Nat
  ticket : Nat
  ordinal : Nat
  data : Nat
  bind : Bool
deriving DecidableEq, Repr

/-- The operations of the texture sampler and the traversal unit. -/
inductive TexKind
  | tex | texg | texq | trace
deriving DecidableEq, Repr

/-- A sampling, query or traversal operation in a vertical queue: its operands as read at issue (R292, R309 to
R313). -/
structure TexOp where
  team : Nat
  group : Nat
  path : Nat
  core : Nat
  kind : TexKind
  a : Nat
  spec : Bool
  f : Nat := 0
  mask : Nat := 0
  /-- the descriptor's 32 bytes, or the root VA -/
  desc : Nat := 0
  /-- the record of the identifier that a descriptor of kind 2 names, as read at issue, or why it was not read: code 1 for
  one that is not valid (R239, R251) -/
  rec_ : Nat := 0
  recCode : Nat := 0
  /-- operands by lane; a token where one is poisoned -/
  lanes : Map (PV (List Nat)) := []
deriving DecidableEq, Repr

/-- The surface operations of R282. -/
inductive SurfKind
  | blend | depth | load | store
deriving DecidableEq, Repr

/-- One lane of a surface operation: its sample and its data. -/
structure SurfLane where
  lane : Nat
  x : Nat
  y : Nat
  smp : Nat
  layer : Nat := 0
  sid : Nat := 0
  /-- data registers, lowest first in the low bits; the depth of sfdepth -/
  data : Nat := 0
  /-- no effect: a helper lane (R305) -/
  idle : Bool := false
  /-- the result, once it is known: a token of a poisoned lane or of a failed check under .spec, or what the brick
  returned (R286, R287) -/
  res : Option (PV Nat) := none
  /-- applied at its brick -/
  done : Bool := false
deriving DecidableEq, Repr

/-- A surface operation on its way to the bricks (R282, R283). -/
structure SurfOp where
  team : Nat
  group : Nat
  path : Nat
  cid : Nat
  icn : Nat
  kind : SurfKind
  f : Nat := 0
  a : Nat := 0
  regs : Nat := 1
  spec : Bool := false
  /-- FTZ of the group at issue, which the comparison of sfdepth takes (R94, R289) -/
  ftz : Bool := false
  /-- the instruction's words (R354) -/
  words : List Nat := []
  /-- the stream, screen tile and batch of a sequenced operation -/
  order : Option (Nat × Nat × Nat) := none
  lanes : List SurfLane := []
deriving DecidableEq, Repr

/-- An eviction of a surface in progress (R291): the tiles left, and the first backing fault. -/
structure Evict where
  team : Nat
  entry : Nat
  seq : Nat
  cid : Nat
  sid : Nat
  left : List Nat := []
  code : Nat := 0
deriving DecidableEq, Repr

/-- A collective group (R324, R325): its members by rank, as team and slot; a rank that has left is in no member. -/
structure ColGroup where
  cid : Nat
  tag : Nat
  size : Nat
  die : Nat
  members : Map (Nat × Nat) := []
  /-- a rank has undeclared it or ended its team, and its operations fail -/
  broken : Bool := false
deriving DecidableEq, Repr

/-- The collective operations (R326). -/
inductive ColKind
  | gather | reduce | all | barrier
deriving DecidableEq, Repr

/-- One rank's part of a collective (R326 to R328). -/
structure ColPart where
  team : Nat
  group : Nat
  handles : List (Nat × Nat × Nat)
  op : ColKind
  ty : NumType
  f : Nat
  src : Nat := 0
  dst : Nat := 0
  m : Nat := 0
deriving DecidableEq, Repr

/-- A 16-byte unit of a rank's destination that is not yet moved whole: bit i of `left` for its byte i (R328, R329). -/
structure ColUnit where
  rank : Nat
  unit : Nat
  left : Nat := 0xFFFF
  begun : Bool := false
deriving DecidableEq, Repr

/-- A collective: the operations with one sequence number of a group (R328). -/
structure Coll where
  cg : Nat
  q : Nat
  parts : Map ColPart := []
  /-- the destination units not yet moved whole, none before the first byte moves (R329) -/
  left : Option (List ColUnit) := none
  /-- the flags gathered for each rank (R109) -/
  flags : List (BitVec 5) := []
  /-- the status and code it ended with, for ranks that come later -/
  ended : Option (Nat × Nat) := none
deriving DecidableEq, Repr

/-- An outward effect of an instruction (R354): performed at once, or buffered by a paired or contained team. -/
inductive Effect
  /-- bytes written to memory at a virtual address, with order and scope -/
  | write (va : Nat) (bytes : List Byte) (ord : MemOrd) (scope : Scope) (hint : Hint)
  /-- a reduction of Table 11.12 at a virtual address -/
  | red (va w op val : Nat) (ord : MemOrd) (scope : Scope)
  /-- a dirty line of the stash on its way to memory: its address, and its bytes with their offsets -/
  | back (va : Nat) (bytes : List (Nat × Byte))
  /-- an operation of the copy engine: one lane's copy, a stamp or a bulk copy -/
  | copy (c : CopyOp)
  /-- a push or a raster state bind -/
  | push (p : Push)
  /-- an identifier written or invalidated -/
  | tid (id : Nat) (words : List DWord) (valid : Bool)
  /-- a surface operation -/
  | surface (o : SurfOp)
  /-- a declaration: slot, tag, size and rank; size 0 undeclares -/
  | decl (slot tag size rank : Nat)
  /-- a collective operation on a slot, with its sequence number and the slot's rank and tag -/
  | coll (slot q rank tag : Nat) (p : ColPart)
deriving DecidableEq, Repr

/-- A buffered item of R354 and the thread it belongs to. -/
structure Item where
  group : Nat
  thread : Nat
  eff : Effect
deriving DecidableEq, Repr

/-- What a stash line shares: its physical line, and whether its page is in registration mode (R185, R195). -/
structure StashLine where
  pa : Nat
  coh : Bool
deriving DecidableEq, Repr

/-- A team (R122 to R124) with everything its groups share. -/
structure Team where
  bind : Bind
  hdr : Hdr
  /-- the slot of its die's slot table, none while it is not bound -/
  slot : Option Nat := Option.none
  core : Nat := 0
  gx : Nat := 1
  gy : Nat := 1
  gz : Nat := 1
  ftz : Bool := false
  unifen : Bool := false
  cls : Nat := 0
  /-- the order in which dispatch started the team (R141) -/
  age : Nat := 0
  groups : Map Group := []
  scratch : Map Byte := []
  stash : Map Byte := []
  /-- the physical line that each stash line holds clean words of (R185) -/
  stashPa : Map StashLine := []
  /-- stash words that are valid and bytes that are dirty (R183) -/
  valid : List Nat := []
  dirty : List Nat := []
  windows : Map Window := []
  barriers : Map Barrier := []
  rings : Map Ring := []
  handles : Map HandleEnt := []
  hseq : Nat := 0
  hdone : Nat := 0
  /-- accumulator tile elements: 8192 * tile + 64 * row + column (R254) -/
  tiles : Map (PV Word) := []
  /-- operations whose tile writes may race with accesses (R263) -/
  races : List TileRace := []
  /-- operations left under the lease held (R255) -/
  lease : Option Nat := Option.none
  /-- normal memory as the core saw it at the thread's last operand-ready fence (R205, R270): none before the first -/
  ready : Option (List Host.Cell) := Option.none
  /-- the tick of the team's launch or of the start of its restore: a fetch may still see what a word held before a
  later write (R29) -/
  codeFrom : Nat := 0
  slots : Map ColSlot := []
  conts : Map Cont := []
  spawn : List SpawnRec := []
  loc : Loc := .unbound
  image : Bool := false
  items : List Item := []
  paired : Bool := false
  contained : Bool := false
  copy1 : Bool := false
  /-- the team was saved by a pre-emption or swap-out that must report its end (R345) -/
  preempt : Option Nat := Option.none
  /-- 16 KiB granules that the team-end write-back waits for, and those released with .fail (R188) -/
  endWaits : List Nat := []
  denied : List Nat := []
  /-- matrix operations saved with the team, in acceptance order (R272) -/
  savedOps : List MxOp := []
deriving DecidableEq, Repr

/-- A context table entry (Table 2.1); the state codes are 0 CLOSED, 1 LIVE, 2 DRAINING, 3 CLOSING. -/
structure Ctx where
  ptroot : Nat := 0
  state : Nat := 0
  icn : Nat := 0
  flags : Nat := 0
  classes : Nat := 0
  priocap : Nat := 0
  faultBase : Nat := 0
  kills : Nat := 0
deriving DecidableEq, Repr

/-- A live incarnation table entry (Table 2.3). -/
structure Lit where
  quiet : Bool := true
  live : Bool := false
  icn : Nat := 0
deriving DecidableEq, Repr

/-- An incarnation-update message on its way to a target, or its acknowledgement on its way back (R45). -/
structure Update where
  target : Nat
  cid : Nat
  icn : Nat
  live : Bool
  applied : Bool := false
deriving DecidableEq, Repr

/-- An operation of the context hardware under way on a CID (R42, R52, R60): 1 OPEN, 2 a kill, 3 a reclaim that waits
for QUIET, 4 the end of a reclaim, with the register to answer when it ends. -/
structure CtxOp where
  kind : Nat
  /-- the team, group, path and s-register of the waiting instruction -/
  reg : Option (Nat × Nat × Nat × Nat) := Option.none
  /-- the CTXCMD command waits for it -/
  cmd : Bool := false
deriving DecidableEq, Repr

/-- An access table entry (Table 2.8). -/
structure Acl where
  limit : Nat := 0
  base : Nat := 0
  cid : Nat := 0
  anyCid : Bool := false
  mclass : Nat := 0
  mindex : Nat := 0
  anyIdx : Bool := false
  rd : Bool := false
  wr : Bool := false
  atm : Bool := false
  en : Bool := false
deriving DecidableEq, Repr

/-- The kind of a request under R56. -/
inductive Access
  | read | write | atomic
deriving DecidableEq, Repr

/-- Who makes a request: class and index (Table 2.8). -/
structure Master where
  cls : Nat
  idx : Nat
deriving DecidableEq, Repr

/-- A denial record of a target (R57, Table 20.17). -/
structure Denial where
  target : Nat
  master : Master
  cid : Nat
  pa : Nat
  kind : Access
deriving DecidableEq, Repr

/-- A cell of a first-level cache: core, physical address, byte, dirty or clean, last writer (R192, R44). -/
structure L1Cell where
  byte : Byte
  dirty : Bool
  cid : Nat
  icn : Nat
  /-- the team and group that wrote it, to whom a denied write-back is reported (R57) -/
  by_ : Option (Nat × Nat) := Option.none
  /-- the threads that wrote or read the byte while it is dirty (R201, R203) -/
  seen : List Nat := []
deriving DecidableEq, Repr

/-- The values that a byte held before an incarnation's writes to it (R53, R54). -/
structure Past where
  cid : Nat
  icn : Nat
  vals : List Byte
deriving DecidableEq, Repr

/-- A line of a shared cache slice: its cache class and its last writer (R44, R317). -/
structure SliceLine where
  line : Nat
  cls : Nat
  writer : Option (Nat × Nat) := Option.none
deriving DecidableEq, Repr

/-- A request in flight to a target (R44): a write-back of dirty bytes, or the read of a line for a fill. -/
structure Request where
  target : Nat
  core : Nat
  cid : Nat
  icn : Nat
  pa : Nat
  /-- the bytes of a write-back with their offsets in the line; empty for a read -/
  bytes : List (Nat × Byte)
  isRead : Bool
  /-- the team and group to whom a denial is reported (R57) -/
  by_ : Option (Nat × Nat) := Option.none
  /-- the cache class of the access (R317) -/
  cls : Nat := 0
  /-- it has waited 4096 core clocks (R320) -/
  aged : Bool := false
  /-- the threads that wrote or read its bytes (R203) -/
  seen : List Nat := []
deriving DecidableEq, Repr

/-- A write to a peer's memory that may still be outstanding: a link that goes Down loses it (R57, R207, R368). -/
structure PeerWrite where
  team : Nat
  group : Nat
  dev : Nat
  pa : Nat
  /-- the bytes the peer held before it -/
  old : List Byte
deriving DecidableEq, Repr

/-- A response in flight (R47): a line for a fill. -/
structure Response where
  core : Nat
  cid : Nat
  icn : Nat
  pa : Nat
  bytes : List Byte
deriving DecidableEq, Repr

/-- A report of a denied or lost write on its way to its group (R57, R207). -/
structure Report where
  team : Nat
  group : Nat
  code : Nat
deriving DecidableEq, Repr

/-- A translation that a TLB holds (R217): CID, level, page number and the leaf entry; or a non-leaf entry that a die's
walk unit holds, with the part of the address above its level. The units: a core's L1 TLB by its number, a cluster's TLB
from 256 on, and a die's last-level TLB and walk unit from 320 on (Table 12.3). -/
structure Tlb where
  unit : Nat
  cid : Nat
  level : Nat
  page : Nat
  pte : Nat
deriving DecidableEq, Repr

/-- A walk in flight for a prefetch or a fetch-ahead (R221). -/
structure Walk where
  core : Nat
  cid : Nat
  icn : Nat
  va : Nat
  /-- fetch the line into L1 after the walk -/
  fill : Bool
deriving DecidableEq, Repr

/-- A fault-queue entry (R222). -/
structure FaultEnt where
  core : Nat
  idx : Nat
  cid : Nat
  granule : Nat
  code : Nat := 1
deriving DecidableEq, Repr

/-- A fault notice waiting to be written (Table 12.4). -/
structure Notice where
  core : Nat
  entry : Nat
  teamend : Bool
  wb : Bool
  mal : Bool
  lvl : Nat
  kind : Nat
  code : Nat
  icn : Nat
  cid : Nat
  va : Nat
deriving DecidableEq, Repr

/-- Per-core state that outlives teams. -/
structure CoreSt where
  /-- clocks counted since core reset (R66) -/
  clock : Nat := 0
  fenced : Bool := false
  retired : Bool := false
  /-- arrivals dropped for want of a barrier (Table 9.3) -/
  bdrops : Nat := 0
  /-- copy checks (Table 13.4) -/
  loss : Nat := 0
  mdbad : Nat := 0
  /-- the thread that holds the matrix lease, by team, and those that ask for one in order (R255) -/
  holder : Option Nat := Option.none
  asking : List (Nat × Nat) := []
  /-- MSLOT of the last grantee (R255) -/
  lastLease : Nat := 0
  /-- the group each issue slot issued from last (R141) -/
  last : Map (Nat × Nat) := []
  /-- MSLOT of the matrix thread that the cluster's sequencer issued from last, at its first core (R143) -/
  lastMslot : Nat := 15
deriving DecidableEq, Repr

/-- The path the step issues, and the words' length, set before its instruction runs. -/
structure At where
  team : Nat
  group : Nat
  path : Nat
  len : Nat
deriving DecidableEq, Repr

/-- CTXCMD (Table 2.10) as its fields: GO with the command under way, and RESULT. -/
structure CtxCmd where
  go : Bool := false
  op : Nat := 0
  cid : Nat := 0
  ien : Bool := false
  vec : Nat := 0
  result : Nat := 0
  /-- the command waits for another event on its CID (R51) -/
  waiting : Bool := false
  /-- the result to write when the command ends -/
  ended : Option Nat := Option.none
deriving DecidableEq, Repr

/-- A firmware image of the boot flash (R369): the bytes its digest covers, its signature, the public key of its
signer, its security version, and the writes its firmware makes to control registers at boot, as offset, size and
value. -/
structure Firmware where
  body : List Byte := []
  sig : List Byte := []
  key : List Byte := []
  svn : Nat := 0
  setup : List (Nat × Nat × Nat) := []
deriving DecidableEq, Repr

/-- A completion that leaves the package: to the host (R361 to R364), or to a peer (R367). -/
inductive Reply
  /-- the data of a host read, or the old COUNT of a FetchAdd -/
  | host (value : Nat)
  /-- Completer Abort -/
  | abort
  /-- Unsupported Request -/
  | unsupported
  /-- the answer to a request of a peer: port, device, fault code (0 for none) and data -/
  | peer (port dev code value : Nat)
deriving DecidableEq, Repr

/-- The package registers of Table 20.14 that the hardware acts on. -/
structure Ctl where
  ctxcmd : CtxCmd := {}
  ctxbase : Nat := 0
  tidbase : Nat := 0
  sfbase : Nat := 0
  devno : Nat := 0
  /-- the port mask of each device (R366) -/
  route : Map Nat := []
  /-- HMODE (R373) and the error log's registers (R375) -/
  hmode : Nat := 0
  elogTail : Nat := 0
  elogHead : Nat := 0
  elogDrop : Nat := 0
  elogVec : Nat := 0
  hwin : Nat := 0
  /-- BOOTSTAT (R369), and the digest and security version of the running image (R371) -/
  bootstat : Nat := 0
  fwDigest : List Byte := []
  svn : Nat := 0
  /-- LIMIT of the power limit register (R377) -/
  power : Nat := 2200
  /-- the service command register: RET, UNIT and INDEX, and BUSY in bit 31 (Table 20.7) -/
  service : Nat := 0
  /-- NONCE; the nonce of the report being made, while one is; DONE; and the report (R371) -/
  nonce : Nat := 0
  attest : Option Nat := Option.none
  attDone : Bool := false
  report : List Byte := []
  /-- the import table, entries as 64-bit numbers (R367) -/
  imports : Map Nat := []
  /-- the low half of an 8-byte register written first, by its offset (R378) -/
  half : Option (Nat × Nat) := Option.none
  /-- a fatal package error has occurred (R374) -/
  fatal : Bool := false
deriving DecidableEq, Repr

/-- An error log record (Table 20.11). -/
structure ElogRec where
  seq : Nat := 0
  kind : Nat
  code : Nat := 0
  cid : Option Nat := Option.none
  icn : Nat := 0
  unit : Nat := 0
  addr : Nat := 0
  detail : Nat := 0
deriving DecidableEq, Repr

/-- The registers and counters of a die (Table 20.15). -/
structure DieSt where
  pagerq : Nat := 0
  hostq : Nat := 0
  hostqvec : Nat := 0
  placeq : Nat := 0
  placeqvec : Nat := 0
  preempt : Nat := 0
  wdog : Nat := 0x40000
  /-- the sequence number of the next instance of the die's walker (R136) -/
  ticket : Nat := 0
  /-- primitive check counter: GAP, BAD and DUP (Table 17.2) -/
  gap : Nat := 0
  bad : Nat := 0
  dup : Nat := 0
  /-- class control registers (Table 18.2), MAXWAYS 24 at reset -/
  classes : List Nat := List.replicate 8 0x1800
  /-- banks of the stack not in the availability map (R279) -/
  deadBanks : List Nat := []
  remapGen : Nat := 0
  /-- banks out of service because they overheated (R377) -/
  hotBanks : List Nat := []
  /-- the vertical bus: frozen; retraining has been deferred; its lanes out of service (R323) -/
  vbusFrozen : Bool := false
  vbusDue : Bool := false
  vbusOut : List Nat := []
deriving DecidableEq, Repr

/-- A tile of a surface (R278 to R280): resident or not, ever written, stuck, when it was last touched, and the
instant of its last spill. -/
structure TileSt where
  resident : Bool := false
  written : Bool := false
  stuck : Bool := false
  touched : Nat := 0
  /-- the tick of the spill that wrote its backing, none while it is not backed -/
  spilled : Option Nat := Option.none
deriving DecidableEq, Repr

/-- A snoop invalidation on its way (R185): to a core's first-level cache, or to a team's stash. -/
structure Snoop where
  stash : Bool
  who : Nat
  pa : Nat
deriving DecidableEq, Repr

/-- An Epril Link port (R368): 0 Down, 1 Active, 2 Recovery, and its lanes in use. -/
structure PortSt where
  st : Nat := 0
  lanes : Nat := 4
  /-- lanes retired in service (R376) -/
  out : List Nat := []
deriving DecidableEq, Repr

/-- The whole machine. -/
structure State where
  mem : List Host.Cell := []
  marked : List Nat := []
  /-- lines of core stores and caches whose next read meets an error that cannot be corrected (R28, R182) -/
  flaws : List Nat := []
  remote : Map Byte := []
  /-- lines of peers that writes of this device have marked (R229), by device * 2^45 + line -/
  peerMarks : List Nat := []
  /-- writes to peers that are still outstanding (R368) -/
  peerWrites : List PeerWrite := []
  devLog : List (Nat × Nat × Nat) := []
  l1 : Map L1Cell := []
  /-- lines of the shared cache by slice * 4096 + set, most recent first (R317) -/
  sets : Map (List SliceLine) := []
  /-- what bytes of memory, and of surfaces by their keys, held before writes of a live incarnation (R53) -/
  past : Map Past := []
  surfPast : Map Past := []
  /-- what words of memory held before writes, each with the tick of the write, as long as a team may fetch them (R29) -/
  olds : Map (List (Nat × Word)) := []
  requests : Map Request := []
  responses : Map Response := []
  snoops : Map Snoop := []
  reports : Map Report := []
  ctx : Map Ctx := []
  ctxOps : Map (List CtxOp) := []
  ctl : Ctl := {}
  lit : Map Lit := []
  updates : Map Update := []
  acl : Map Acl := []
  denials : Map Denial := []
  denialNext : Map Nat := []
  denialCount : Map Nat := []
  orphans : Map Nat := []
  /-- the identifier caches: records by (core * 64 + CID) * 1024 + identifier (R238) -/
  ids : Map Nat := []
  tlb : List Tlb := []
  nonLeaf : List Tlb := []
  walks : Map Walk := []
  faultq : List FaultEnt := []
  notices : Map Notice := []
  copies : Map CopyOp := []
  /-- matrix operations in the order accepted (R256) -/
  mxops : Map MxOp := []
  notifs : Map Notif := []
  queue : Map QueueEnt := []
  /-- running instances by TICKET (R136) -/
  insts : Map Inst := []
  /-- decrements of finished instances that a full notification buffer holds up, by TICKET (R130) -/
  decs : Map Decs := []
  pushes : Map Push := []
  raster : Map RasterItem := []
  closed : Map ClosedGroup := []
  texops : Map TexOp := []
  sfops : Map SurfOp := []
  evicts : Map Evict := []
  colGroups : Map ColGroup := []
  colls : Map Coll := []
  teams : Map Team := []
  /-- relaunch counts by SAVE, with the CID and ICN of the team (R55, R357) -/
  relaunches : Map (Nat × Nat × Nat) := []
  /-- bind records, by die * 2048 + slot (R135) -/
  slots : Map Bind := []
  cores : Map CoreSt := []
  dies : Map DieSt := []
  /-- bytes of surface tiles, by context, surface and offset (R276) -/
  surf : Map Byte := []
  /-- surface bytes that a return found poisoned (R280) -/
  surfBad : List Nat := []
  tiles : Map TileSt := []
  ports : Map PortSt := []
  /-- error log records by slot (R375) -/
  elog : Map ElogRec := []
  /-- notices to the firmware of the management core, in order: the kinds of error log records -/
  fwNotes : List Nat := []
  /-- mortar modules out of service (R322) -/
  mortarOut : List Nat := []
  /-- the core and footing clocks, in sixteenths of their full rate (R377) -/
  clocks : Nat × Nat := (16, 16)
  /-- the node addresses of the graph ports (R364) -/
  gnodes : Map Nat := []
  /-- the line of the most recent debug-window write, and its bytes written in this run (R363) -/
  hostLine : Option (Nat × List Nat) := Option.none
  /-- completions that have left, in order -/
  replies : List Reply := []
  /-- firmware images within reach of the boot ROM: 0 in the boot flash, others offered in service (R369, R370) -/
  flash : Map Firmware := []
  nextId : Nat := 0
  irqs : List Nat := []
  tick : Nat := 0
  inbox : List Instr := []
  at_ : Option At := Option.none
deriving DecidableEq, Repr

/-- The canonical form of memory: addresses strictly rising, and no entry equal to what an unlisted address reads as, 0
(log 1). -/
abbrev Memory.wf (m : List Host.Cell) : Prop := mwf (0 : Byte) m = true

/-- The state right after reset (R42, R45, R56): the supervising context LIVE, nothing else. -/
def State.reset : State := { ctx := [(0, { state := 1, flags := 1 })] }

end Sys2Proof.Machine
end

