-- ==== Sys2Proof/Machine/Group.lean ====
section
/-!
DEFINITION. The registers, threads and paths of a group: reads and writes with poison (03_registers.md R61 to R70),
program counters, splitting, holding, merging and hardware loops (08_issue.md R144 to R156).
-/

namespace Sys2Proof.Machine

open Sys2Proof

/-! ## Poison -/

/-- The token of a poisoned value. -/
def PV.tok? : PV α → Option Word
  | .ok _ => none
  | .bad t => some t

/-- Is the value poisoned? -/
def PV.poisoned (x : PV α) : Bool := x.tok?.isSome

/-- Apply a function to an unpoisoned value; poison passes unchanged (R68). -/
def PV.map (f : α → β) : PV α → PV β
  | .ok a => .ok (f a)
  | .bad t => .bad t

/-- The token of the first poisoned value of a list (R69). -/
def firstTok : List (PV Nat) → Option Word
  | [] => none
  | .bad t :: _ => some t
  | .ok _ :: l => firstTok l

/-- The value, 0 where it is poisoned. -/
def PV.val : PV Nat → Nat
  | .ok a => a
  | .bad _ => 0

/-- A result from operands in their read order: the first token, or the computed value (R69). -/
def combine (ops : List (PV Nat)) (f : List Nat → Nat) : PV Nat :=
  match firstTok ops with
  | some t => .bad t
  | none => .ok (f (ops.map PV.val))

/-- A poison token of Table 3.5. -/
def mkToken (code lane : Nat) (u m : Bool) (pc : Nat) : Word :=
  BitVec.ofNat 32 (code * 2 ^ 24 + (if u then 0 else lane) * 2 ^ 19 + b2n u * 2 ^ 18 + b2n m * 2 ^ 17 + bits pc 17 2)

/-- The fault code a token carries. -/
def tokenCode (t : Word) : Nat := bits t.toNat 31 24

/-! ## Registers -/

/-- V[n][l] (R61). -/
def Group.getV (g : Group) (n l : Nat) : PV Word := mget (.ok 0) (32 * n + l) g.v

/-- Write V[n][l]. -/
def Group.setV (g : Group) (n l : Nat) (x : PV Word) : Group := { g with v := mset (.ok 0) (32 * n + l) x g.v }

/-- S[n] with its poison (R61), as the issuing path sees it (R72). -/
def Group.getS (g : Group) (n : Nat) : PV DWord :=
  match mfind n g.viewS with
  | some x => x
  | none => mget (.ok 0) n g.s

/-- Write S[n]; any write of other data clears the pending mark (R161). -/
def Group.setS (g : Group) (n : Nat) (x : PV DWord) : Group :=
  { g with s := mset (.ok 0) n x g.s, viewS := merase n g.viewS, pend := g.pend.filter (· != n) }

/-- Write S[n] with a handle and mark it pending (R160). -/
def Group.setPending (g : Group) (n : Nat) (h : Nat) : Group :=
  { g with s := mset (.ok 0) n (.ok (BitVec.ofNat 64 h)) g.s, viewS := merase n g.viewS, pend := insertNat n g.pend }

/-- P[n][l]. -/
def Group.getP (g : Group) (n l : Nat) : PV Bool := mget (.ok false) (32 * n + l) g.p
/-- Write P[n][l]. -/
def Group.setP (g : Group) (n l : Nat) (x : PV Bool) : Group := { g with p := mset (.ok false) (32 * n + l) x g.p }
/-- Q[n], as the issuing path sees it (R72). -/
def Group.getQ (g : Group) (n : Nat) : PV Bool :=
  match mfind n g.viewQ with
  | some x => x
  | none => mget (.ok false) n g.q
/-- Write Q[n]. -/
def Group.setQ (g : Group) (n : Nat) (x : PV Bool) : Group :=
  { g with q := mset (.ok false) n x g.q, viewQ := merase n g.viewQ }

/-- S[n] as a number; a poisoned register holds its token in bits 31:0 (R61). -/
def Group.sVal (g : Group) (n : Nat) : Nat :=
  match g.getS n with
  | .ok x => x.toNat
  | .bad t => t.toNat

/-- Write S[n] with an unpoisoned number. -/
def Group.putS (g : Group) (n x : Nat) : Group := g.setS n (.ok (BitVec.ofNat 64 x))

/-- `k` consecutive v-registers of a lane as one value, lowest register lowest; poisoned with the token of the first
poisoned register (R69). -/
def Group.readV (g : Group) (n l : Nat) : Nat → PV Nat
  | 0 => .ok 0
  | k + 1 =>
    match g.getV n l, Group.readV g (n + 1) l k with
    | .bad t, _ => .bad t
    | .ok _, .bad t => .bad t
    | .ok a, .ok b => .ok (a.toNat + 2 ^ 32 * b)

/-- Write `k` consecutive v-registers of a lane; a poisoned result poisons each with the token as its value (R69). -/
def Group.writeV (g : Group) (n l : Nat) : Nat → PV Nat → Group
  | 0, _ => g
  | k + 1, .bad t => Group.writeV (g.setV n l (.bad t)) (n + 1) l k (.bad t)
  | k + 1, .ok x => Group.writeV (g.setV n l (.ok (BitVec.ofNat 32 x))) (n + 1) l k (.ok (x / 2 ^ 32))

/-- Write S[n] with a value that may be poisoned; a token stands in bits 31:0 (R61). -/
def Group.writeS (g : Group) (n : Nat) (x : PV Nat) : Group := g.setS n (x.map (BitVec.ofNat 64 ·))

/-- S[n] as an operand of `w` bits. -/
def Group.readS (g : Group) (n w : Nat) : PV Nat := (g.getS n).map fun x => x.toNat % 2 ^ w

/-- An immediate of kind 10 at `w` bits (R10). -/
def immVal (i : BitVec 8) (w : Nat) : Nat := signExt 8 w i.toNat

/-- A source operand of `w` bits in lane `l` (Table 1.4). -/
def Group.operand (g : Group) (x : Src) (w l : Nat) : PV Nat :=
  match x with
  | .v n => g.readV n.toNat l (w / 32)
  | .s n => g.readS n.toNat w
  | .imm i => .ok (immVal i w)

/-- The number an I- or raw field holds. -/
def srcNum (x : Src) : Nat := x.raw.toNat

/-- The s-register numbers that a C or E source reads. -/
def srcSNums : Src → List Nat
  | .s n => [n.toNat]
  | _ => []

/-! ## Threads and paths -/

/-- The thread of a lane. -/
def Group.thread (g : Group) (l : Nat) : Thread := g.threads.getD l { exited := true }

/-- Change the thread of each listed lane. -/
def Group.modThreads (g : Group) (lanes : List Nat) (f : Thread → Thread) : Group :=
  { g with threads := g.threads.mapIdx fun i t => if lanes.contains i then f t else t }

/-- The lanes of a path: its unexited threads that are not held. -/
def Group.pathLanes (g : Group) (p : Nat) : List Nat :=
  (List.range 32).filter fun l =>
    let t := g.thread l
    t.path == p && !t.exited && !t.held

/-- The lanes whose threads have not exited. -/
def Group.liveLanes (g : Group) : List Nat := (List.range 32).filter fun l => !(g.thread l).exited

/-- Has every thread of the group ended (R154)? -/
def Group.exited (g : Group) : Bool := g.liveLanes.isEmpty

/-- The mask with the bits of the lanes. -/
def maskOf (lanes : List Nat) : Nat := lanes.foldl (fun m l => m ||| 2 ^ l) 0

/-- Path numbers that still have threads. -/
def Group.livePaths (g : Group) : List Nat :=
  (List.range 32).foldl (fun ps l =>
    let t := g.thread l
    if t.exited || t.held then ps else insertNat t.path ps) []

/-- Drop the records of paths without threads, and the current path if it has none. -/
def Group.tidy (g : Group) : Group :=
  let ps := g.livePaths
  { g with
    paths := ps.map fun p => (p, mget {} p g.paths)
    cur := match g.cur with
      | some p => if ps.contains p then some p else none
      | none => none }

/-- A path number for a new path whose lowest lane is `l`: the lane, or a number not in use. -/
def freshNum (used : List Nat) (l : Nat) : Nat :=
  if used.contains l then ((List.range 65).find? fun n => !used.contains n).getD 65 else l

/-- Where the merge test of R146 finds a meeting point all of whose threads are held, those threads become one ready
path; they take the loop stack of the lowest-numbered one (R147). -/
def Group.mergeAt (g : Group) (x : Nat) : Group :=
  let meets := g.liveLanes.filter fun l => (g.thread l).meet == some x
  let held := meets.filter fun l => (g.thread l).held
  match held with
  | [] => g
  | l0 :: _ =>
    if held.length == meets.length then
      let st := (g.thread l0).loops
      let p := freshNum g.livePaths l0
      { g.modThreads held (fun t => { t with held := false, released := true, path := p, loops := st }) with
        paths := mput p {} g.paths }
    else g

/-- The meeting points of held threads. -/
def Group.heldPoints (g : Group) : List Nat :=
  (g.liveLanes.filter fun l => (g.thread l).held).foldl (fun xs l =>
    match (g.thread l).meet with
    | some x => insertNat x xs
    | none => xs) []

/-- Threads that stand at their meeting point and are not Released are held (R146), unless their path holds a fault. -/
def Group.hold (g : Group) : Group :=
  { g with threads := g.threads.map fun t =>
      if !t.exited && !t.held && !t.released && t.meet == some t.pc && (mget {} t.path g.paths).wait != .fault then
        { t with held := true }
      else t }

/-- The hold and merge rule, after any change it depends on (R146). -/
def Group.settle (g : Group) : Group :=
  let h := g.hold
  (h.heldPoints.foldl Group.mergeAt h).tidy

/-- What the threads of a path share: the address, the meeting register and the loop stack (R147). -/
abbrev Spot := Nat × Option Nat × List LoopEntry

/-- Where lanes go, with their meeting registers and loop stacks. -/
def Group.spots (g : Group) (dest : List (Nat × Nat)) : List (Nat × Spot) :=
  dest.map fun d => (d.1, d.2, (g.thread d.1).meet, (g.thread d.1).loops)

/-- The lanes split by where they go, in the order of their lowest lanes. -/
def targetsOf (dest : List (Nat × Spot)) : List Spot :=
  dest.foldl (fun ts d => if ts.contains d.2 then ts else ts ++ [d.2]) []

/-- Path numbers for the parts of a split: the first keeps the path, the others get fresh ones by their lowest lanes
(R144). -/
def splitNums (dest : List (Nat × Spot)) : List Nat → List Spot → List (Spot × Nat)
  | _, [] => []
  | used, t :: ts =>
    let l := ((dest.find? fun d => d.2 == t).map Prod.fst).getD 0
    let n := freshNum used l
    (t, n) :: splitNums dest (n :: used) ts

/-- Send lanes of one path, in rising order, to their addresses (R144): the part with the lowest lane keeps the path, each
other part becomes a new ready path. Threads whose meeting registers or loop stacks differ part too (R147, log 87). The
Released marks end with this issue (R146). -/
def Group.send (g : Group) (path : Nat) (dest : List (Nat × Nat)) : Group :=
  let spots := g.spots dest
  match targetsOf spots with
  | [] => g
  | t0 :: ts =>
    let nums := (t0, path) :: splitNums spots (path :: g.livePaths) ts
    let go := fun (l : Nat) (t : Thread) =>
      match mfind l spots with
      | some a => { t with pc := a.1, path := ((nums.find? fun n => n.1 == a).map Prod.snd).getD path, released := false }
      | none => t
    { g with
      threads := g.threads.mapIdx go
      paths := (nums.drop 1).foldl (fun ps n => mput n.2 {} ps) g.paths }

/-- Where a thread goes when it passes the instruction of `len` bytes at `pc` (R155), and its loop stack then. -/
def passLoop (t : Thread) (pc len : Nat) : Nat × List LoopEntry :=
  match t.loops with
  | [] => ((pc + len) % 2 ^ 56, [])
  | e :: es =>
    if e.last == (pc + len - 4) % 2 ^ 56 then
      if e.rem > 1 then (e.start, { e with rem := e.rem - 1 } :: es) else ((e.last + 4) % 2 ^ 56, es)
    else ((pc + len) % 2 ^ 56, e :: es)

/-- Move lanes of one path past their instruction, counting loop trips (R155). -/
def Group.pass (g : Group) (path : Nat) (lanes : List Nat) (pc len : Nat) : Group :=
  let dest := lanes.map fun l => (l, (passLoop (g.thread l) pc len).1)
  (g.modThreads lanes fun t => { t with loops := (passLoop t pc len).2 }).send path dest

/-- Pop the loop entries that a transfer leaves: the outermost entry whose body does not hold the target, and every
entry above it (R156). Innermost first. -/
def leaveLoops (target : Nat) (es : List LoopEntry) : List LoopEntry :=
  -- the entries from the outermost in, as long as each holds the target
  ((es.reverse.takeWhile fun e => e.start ≤ target && target ≤ e.last)).reverse

/-- End the threads of the lanes (R154); their loop stacks are discarded (R156). -/
def Group.endThreads (g : Group) (lanes : List Nat) : Group :=
  g.modThreads lanes fun t => { t with exited := true, held := false, loops := [] }

/-! ## Registers of other paths (R72) -/

/-- The entries of a register file that differ after an instruction, with the values they held before. -/
def changed [DecidableEq α] (d : α) (old new : Map α) : Map α :=
  (old.filter fun e => decide (mget d e.1 new ≠ e.2)) ++
    (new.filter fun e => (mfind e.1 old).isNone).map fun e => (e.1, d)

/-- Add earlier values to the past of a register file. -/
def addPast (past : Map (List (Nat × α))) (c : Nat) (es : Map α) : Map (List (Nat × α)) :=
  es.foldl (fun m e => mput e.1 ((c, e.2) :: mget [] e.1 m) m) past

/-- Add earlier values of uniform registers, with the lanes that wrote. -/
def addPastU (lanes : List Nat) (past : Map (List (Nat × List Nat × α))) (c : Nat) (es : Map α) : Map (List (Nat × List Nat × α)) :=
  es.foldl (fun m e => mput e.1 ((c, lanes, e.2) :: mget [] e.1 m) m) past

/-- How the lanes are divided: a number for each, equal for those of one path. -/
def Group.division (g : Group) : List Nat :=
  g.threads.mapIdx fun l t => if t.exited then 256 + l else if t.held then 128 + l else t.path

/-- Are all threads of the group that go on in one path, with none held? -/
def Group.whole (g : Group) : Bool := decide (g.livePaths.length ≤ 1) && g.heldPoints.isEmpty

/-- Note what an instruction of the lanes overwrote, and how it divided them: while the group is diverged the earlier values
are kept, and once it is on one path again they are forgotten (R72). -/
def Group.notePast (g old : Group) (lanes : List Nat) : Group :=
  if g.whole then
    { g with viewS := [], viewQ := [], clock := 0, parts := [], pastV := [], pastP := [], pastS := [], pastQ := [] }
  else
    let c := g.clock + 1
    { g with
      viewS := []
      viewQ := []
      clock := c
      parts := if old.division == g.division then g.parts else (c, old.division) :: g.parts
      pastV := addPast g.pastV c (changed (.ok 0) old.v g.v)
      pastP := addPast g.pastP c (changed (.ok false) old.p g.p)
      pastS := addPastU lanes g.pastS c (changed (.ok 0) old.s g.s)
      pastQ := addPastU lanes g.pastQ c (changed (.ok false) old.q g.q) }

/-- The count at which a lane left the path of another, 0 where that is not on record. -/
def Group.partedAt (g : Group) (i j : Nat) : Nat :=
  ((g.parts.find? fun p => p.2.getD i 512 == p.2.getD j 513).map Prod.fst).getD 0

/-- The divergence of lanes from a lane: where they have merged from several paths, the earliest. -/
def Group.parted (g : Group) (lanes : List Nat) (j : Nat) : Nat :=
  match lanes.map fun i => g.partedAt i j with
  | [] => 0
  | n :: ns => ns.foldl min n

/-- One of the values a register holds or held: the present one where there is no other (R72). -/
def pickPast (tick salt : Nat) (now : α) (past : List α) : α :=
  match past with
  | [] => now
  | _ => past.getD (Config.freeNat tick salt % (past.length + 1)) now

/-- Is a lane's register exact for a reader on the given lanes: the same path, exited or held (R72)? -/
def Group.exact (g : Group) (lanes : List Nat) (j : Nat) : Bool :=
  lanes.contains j || (g.thread j).exited || (g.thread j).held

/-- The earlier values of a uniform register that lanes may read: none where its last writer is exact for them; else those
it held since they diverged from that writer, but none from before a write of their own (R63, R72). -/
def Group.pastFor (g : Group) (lanes : List Nat) (es : List (Nat × List Nat × α)) : List α :=
  match es with
  | [] => []
  | e :: _ =>
    match e.2.1.filter fun j => !g.exact lanes j with
    | [] => []
    | j :: _ =>
      if e.2.1.any lanes.contains then []
      else (es.takeWhile fun x => g.parted lanes j < x.1 && !(x.2.1.any lanes.contains)).map fun x => x.2.2

/-- The registers of other paths as this issue of the lanes sees them (R72). -/
def Group.viewFor (g : Group) (tick : Nat) (lanes : List Nat) : Group :=
  { g with
    viewS := (g.pastS.filter fun e => !(g.pastFor lanes e.2).isEmpty).map fun e =>
      (e.1, pickPast tick e.1 (mget (.ok 0) e.1 g.s) (g.pastFor lanes e.2))
    viewQ := (g.pastQ.filter fun e => !(g.pastFor lanes e.2).isEmpty).map fun e =>
      (e.1, pickPast tick (64 + e.1) (mget (.ok false) e.1 g.q) (g.pastFor lanes e.2)) }

/-- The earlier values of a lane's register that lanes of another path may read (R72). -/
def Group.pastLane (g : Group) (lanes : List Nat) (j : Nat) (es : List (Nat × α)) : List α :=
  (es.takeWhile fun x => g.parted lanes j < x.1).map Prod.snd

/-- V[n][j] as a lane-crossing instruction of the lanes reads it (R72). -/
def Group.acrossV1 (g : Group) (tick : Nat) (lanes : List Nat) (n j : Nat) : PV Word :=
  if g.exact lanes j then g.getV n j
  else pickPast tick (128 + 32 * n + j) (g.getV n j) (g.pastLane lanes j (mget [] (32 * n + j) g.pastV))

/-- Src(B, j): `k` registers of a lane read across lanes (R72, R75). -/
def Group.acrossV (g : Group) (tick : Nat) (lanes : List Nat) (n j : Nat) : Nat → PV Nat
  | 0 => .ok 0
  | k + 1 =>
    match g.acrossV1 tick lanes n j, Group.acrossV g tick lanes (n + 1) j k with
    | .bad t, _ => .bad t
    | .ok _, .bad t => .bad t
    | .ok a, .ok b => .ok (a.toNat + 2 ^ 32 * b)

/-- P[n][j] read across lanes (R72). -/
def Group.acrossP (g : Group) (tick : Nat) (lanes : List Nat) (n j : Nat) : PV Bool :=
  if g.exact lanes j then g.getP n j
  else pickPast tick (32768 + 32 * n + j) (g.getP n j) (g.pastLane lanes j (mget [] (32 * n + j) g.pastP))

/-- Count an issue of a path: its own ageing count returns to zero, and those of the others that could issue rise (R145);
a preference against a path that has yielded ends (R154); the group has issued and retired an instruction (R142). -/
def Group.countIssue (g : Group) (path : Nat) : Group :=
  { g with
    paths := g.paths.map fun e =>
      if e.1 == path then (e.1, { e.2 with age := 0, due := false, yielded := false, committed := false, arrived := false })
      else if e.2.ready then (e.1, { e.2 with age := min 1024 (e.2.age + 1), due := e.2.due || 1024 ≤ e.2.age + 1, yielded := false })
      else (e.1, { e.2 with yielded := false })
    aside := false
    starved := false
    urgent := g.urgent + 1 }

/-- Change what a path waits for: one that begins to wait at an instruction is the youngest to wait, and one that waits for
nothing has gone on (R359). -/
def Group.setWait (g : Group) (path : Nat) (w : Wait) : Group :=
  let p := mget {} path g.paths
  let since := if w == .none then 0 else if p.since != 0 then p.since else g.paths.foldl (fun n e => max n e.2.since) 0 + 1
  { g with paths := mput path { p with wait := w, since := since } g.paths }

/-- What a path waits for. -/
def Group.waitOf (g : Group) (path : Nat) : Wait := (mget {} path g.paths).wait

end Sys2Proof.Machine
end

