-- ==== Sys2Proof/Machine/Phys.lean ====
section
/-!
DEFINITION. Physical memory and the targets in front of it: the home of a line, the live incarnation and access
tables (02_contexts.md R45 to R57), the poison marker (19_faults.md R358), the context table as a view of memory
(R41), and the first-level caches (10_local.md R192).
-/

namespace Sys2Proof.Machine

open Sys2Proof

/-! ## Targets (Table 20.16) -/

/-- The home agent of a physical address; the map is not architectural (R315, log 7). -/
def homeOf (pa : Nat) : Nat := (pa / 128) % 8
/-- The shared cache slice that holds a line (log 7). -/
def sliceOf (pa : Nat) : Nat := 16 * (homeOf pa / 4) + (pa / 1024) % 16

/-- The targets a request to a line may meet: slice, snoop filter, home agent, memory controller (R56). -/
def lineTargets (pa : Nat) : List Nat := [sliceOf pa, 40 + homeOf pa / 4, 32 + homeOf pa, 48 + homeOf pa]

/-- The targets of Table 2.2 by their numbers of Table 20.16. -/
def allTargets : List Nat :=
  range' 0 42 ++ range' 48 8 ++ [64, 65] ++ range' 80 12 ++ range' 96 18 ++ [120] ++ range' 256 1024 ++ range' 2048 2048

/-- A target's live incarnation entry (R45); CID 0 is always LIVE with ICN 0, since no command names it (R42, R58). -/
def litOf (s : State) (target cid : Nat) : Lit :=
  if cid = 0 then { quiet := true, live := true, icn := 0 } else mget {} (target * 1024 + cid) s.lit

/-- Does a target drop a request of an incarnation (R46)? -/
def dropped (s : State) (target cid icn : Nat) : Bool :=
  let e := litOf s target cid
  !e.live || e.icn != icn

/-- Is the incarnation no longer the LIVE one of its context? CID 0 always is (R42, R58). -/
def incStale (s : State) (cid icn : Nat) : Bool :=
  match mfind cid s.ctx with
  | some c => cid != 0 && (c.state != 1 || c.icn != icn)
  | none => false

/-- Does a target drop a request of an incarnation that is no longer LIVE (R46)? While one is LIVE every target has
acknowledged it (R42, R60). -/
def turnedAway (s : State) (target cid icn : Nat) : Bool := incStale s cid icn && dropped s target cid icn

/-- Count in the orphan counter of a target's port, saturating (Table 2.4). -/
def countOrphan (s : State) (target : Nat) : State :=
  { s with orphans := mset 0 target (min 0xFFFFFFFF (mget 0 target s.orphans + 1)) s.orphans }

/-! ## Access tables -/

/-- Does an access table entry allow a request (R56)? -/
def Acl.admits (e : Acl) (m : Master) (cid pa : Nat) (k : Access) : Bool :=
  e.en && e.base ≤ bits pa 51 14 && bits pa 51 14 ≤ e.limit && e.mclass == m.cls && (e.anyIdx || e.mindex == m.idx) &&
  (e.anyCid || e.cid == cid) &&
  (match k with
    | .read => e.rd
    | .write => e.wr
    | .atomic => e.rd && e.wr && e.atm)

/-- Does some enabled entry of a target's access table allow the request (R56)? -/
def targetAllows (s : State) (target : Nat) (m : Master) (cid pa : Nat) (k : Access) : Bool :=
  s.acl.any fun e => e.1 / 256 == target && e.2.admits m cid pa k

/-- The die of a core. -/
def dieOfCore (core : Nat) : Nat := core / 128
/-- The die whose home agents serve a line (Table 20.16). -/
def dieOfLine (pa : Nat) : Nat := homeOf pa / 4
/-- The die that a master stands on, none where it reaches either (Table 2.8). -/
def Master.die (m : Master) : Option Nat :=
  if m.cls ≤ 3 then some (dieOfCore m.idx) else if m.cls == 4 || m.cls == 5 then some (m.idx % 2) else none

/-- The mortar modules in service (R322). -/
def mortarTargets (s : State) : List Nat := (range' 80 12).filter fun t => !s.mortarOut.contains (t - 80)

/-- The targets that requests of the master to a line meet on the way to the line's own: a mortar module between the
stacks, the PCIe bridge, or the link port it came over (R56, Table 20.16). -/
def wayTargets (s : State) (m : Master) (pa : Nat) : List Nat :=
  if m.cls == 7 then [120]
  else if m.cls == 8 then [96 + m.idx]
  else if m.die.isSome && m.die != some (dieOfLine pa) then mortarTargets s
  else []

/-- The outcome of the tables that a request may meet: where they agree, theirs; else either outcome (R56, log 3). -/
def decided (tick salt : Nat) (ds : List Bool) : Bool :=
  if ds.all id then true else if ds.any id then Config.freeBool tick salt else false

/-- Is the request to a line allowed (R56)? -/
def lineAllows (s : State) (m : Master) (cid pa : Nat) (k : Access) : Bool :=
  decided s.tick pa ((wayTargets s m pa ++ lineTargets pa).map fun t => targetAllows s t m cid pa k)

/-- Does a home agent serve the physical address (R2, R216)? -/
def inHbm (pa : Nat) : Bool := pa < Config.hbmBytes

/-- Does a target on the way of a request to a line, or its slice, drop it (R46, R48)? -/
def wayDrops (s : State) (m : Master) (pa cid icn : Nat) : Bool :=
  (sliceOf pa :: wayTargets s m pa).any fun t => turnedAway s t cid icn

/-- Record a denial in the log of a target, the newest overwriting the oldest (R57, Table 20.17). -/
def logDenialAt (s : State) (t : Nat) (m : Master) (cid pa : Nat) (k : Access) : State :=
  let n := mget 0 t s.denialNext
  { s with
    denials := mput (t * 32 + n) { target := t, master := m, cid := cid, pa := pa, kind := k } s.denials
    denialNext := mset 0 t ((n + 1) % 32) s.denialNext
    denialCount := mset 0 t (min 0xFFFFFFFF (mget 0 t s.denialCount + 1)) s.denialCount }

/-- Record a denial of a request to a line at the first target on its way that denied it (R57). -/
def logDenial (s : State) (m : Master) (cid pa : Nat) (k : Access) : State :=
  logDenialAt s (((wayTargets s m pa ++ lineTargets pa).find? fun t => !targetAllows s t m cid pa k).getD (sliceOf pa)) m cid pa k

/-- The master that a core is (Table 2.8). -/
def coreMaster (core : Nat) : Master := { cls := 0, idx := core }

/-! ## The context table as a view of memory (R41) -/

/-- The context table entry of a CID. -/
def ctxOf (s : State) (cid : Nat) : Ctx := mget {} cid s.ctx

/-- Replace the context table entry of a CID. -/
def setCtx (s : State) (cid : Nat) (c : Ctx) : State := { s with ctx := mset {} cid c s.ctx }

/-- Byte `o` of a context table entry (Table 2.1). -/
def Ctx.byte (c : Ctx) (o : Nat) : Byte :=
  let n :=
    if o < 8 then c.ptroot / 256 ^ o
    else if o = 8 then c.state
    else if o = 9 then c.icn
    else if o = 10 then c.flags % 8
    else if o = 11 then c.classes
    else if o = 12 then c.priocap
    else if o < 16 then 0
    else if o < 24 then c.faultBase / 256 ^ (o - 16)
    else if o < 32 then c.kills / 256 ^ (o - 24)
    else 0
  BitVec.ofNat 8 n

/-- Byte `i` of a number replaced. -/
def withByte (x i : Nat) (b : Byte) : Nat := setBits x (8 * i + 7) (8 * i) b.toNat

/-- A write of byte `o` of an entry by software: the fields marked F take it, STATE, ICN and KILLS are the hardware's
alone, reserved bytes ignore it (R41). -/
def Ctx.setByte (c : Ctx) (o : Nat) (b : Byte) : Ctx :=
  if o < 8 then { c with ptroot := withByte c.ptroot o b }
  else if o = 10 then { c with flags := b.toNat % 8 }
  else if o = 11 then { c with classes := b.toNat }
  else if o = 12 then { c with priocap := b.toNat }
  else if 16 ≤ o ∧ o < 24 then { c with faultBase := withByte c.faultBase (o - 16) b }
  else c

/-- Does the physical address lie in the context table? There is none before firmware writes CTXBASE (R41). -/
def inCtxTable (s : State) (pa : Nat) : Bool :=
  s.ctl.ctxbase != 0 && s.ctl.ctxbase ≤ pa && pa < s.ctl.ctxbase + 65536

/-! ## Physical memory -/

/-- One byte of physical memory. A byte that nothing has written reads 0 (log 1). -/
def physByte (s : State) (pa : Nat) : Byte :=
  if inCtxTable s pa then (ctxOf s ((pa - s.ctl.ctxbase) / 64)).byte ((pa - s.ctl.ctxbase) % 64)
  else mget 0 pa s.mem

/-- `n` bytes of physical memory from an address. -/
def physBytes (s : State) (pa n : Nat) : List Byte := (range' pa n).map (physByte s)

/-- A number of `n` little-endian bytes in physical memory. -/
def physNat (s : State) (pa n : Nat) : Nat := ofBytes (physBytes s pa n)

/-- Write one byte of physical memory. -/
def setPhysByte (s : State) (pa : Nat) (b : Byte) : State :=
  if inCtxTable s pa then
    let cid := (pa - s.ctl.ctxbase) / 64
    setCtx s cid ((ctxOf s cid).setByte ((pa - s.ctl.ctxbase) % 64) b)
  else { s with mem := mset 0 pa b s.mem }

/-- Write bytes of physical memory from an address on. -/
def setPhysBytes : State → Nat → List Byte → State
  | s, _, [] => s
  | s, pa, b :: bs => setPhysBytes (setPhysByte s pa b) (pa + 1) bs

/-- Write a number as `n` little-endian bytes. -/
def setPhysNat (s : State) (pa n x : Nat) : State := setPhysBytes s pa (toBytes n x)

/-- Is the line of a physical address marked with HBM poison (R358)? -/
def isMarked (s : State) (pa : Nat) : Bool := s.marked.contains (pa / 128)

/-- Mark a line. -/
def markLine (s : State) (pa : Nat) : State := { s with marked := insertNat (pa / 128) s.marked }

/-- A write of a whole line as one access clears its marker (R358). -/
def clearMark (s : State) (pa : Nat) : State := { s with marked := s.marked.filter (· != pa / 128) }

/-- Write bytes as one access: the marker of a line wholly written is cleared (R358). -/
def physWrite (s : State) (pa : Nat) (bs : List Byte) : State :=
  let t := setPhysBytes s pa bs
  if pa % 128 == 0 && bs.length == 128 then clearMark t pa else t

/-! ## Writes of an incarnation (R53, R54) -/

/-- Note the value that a byte holds before a write of an incarnation: a kill may bring it back, and with it every value
that the incarnation has given the byte (R53, R54). CID 0 is never killed. -/
def Past.before (p : Option Past) (cid icn : Nat) (b : Byte) : Past :=
  match p with
  | some q =>
    if q.cid == cid && q.icn == icn then (if q.vals.contains b then q else { q with vals := q.vals ++ [b] })
    else { cid := cid, icn := icn, vals := [b] }
  | none => { cid := cid, icn := icn, vals := [b] }

/-- The note of a byte of memory before a write. -/
def notePast (s : State) (cid icn pa : Nat) : State :=
  if cid == 0 then { s with past := merase pa s.past }
  else { s with past := mput pa (Past.before (mfind pa s.past) cid icn (physByte s pa)) s.past }

/-- A byte performed for an incarnation. -/
def performByte (s : State) (cid icn pa : Nat) (b : Byte) : State := setPhysByte (notePast s cid icn pa) pa b

/-- What the kill of an incarnation leaves in a byte: the value it holds, or one that it held before (R53, R54). -/
def revertByte (s : State) (pa : Nat) (p : Past) : State :=
  let t := { s with past := merase pa s.past }
  match p.vals[Config.freeNat s.tick (2 ^ 57 + pa) % (p.vals.length + 1)]? with
  | some b => setPhysByte t pa b
  | none => t

/-! ## Snoops (R185) -/

/-- Snoops to the cores and stashes that hold clean copies of a written line (R185). -/
def snoopsFor (s : State) (core team pa : Nat) : List Snoop :=
  let cores := s.l1.foldl (fun cs e =>
    if (e.1 % 2 ^ 52) / 128 == pa / 128 && !e.2.dirty && e.1 / 2 ^ 52 != core then insertNat (e.1 / 2 ^ 52) cs else cs) []
  let teams := (s.teams.filter fun e => e.1 != team && e.2.stashPa.any fun l => l.2.pa == pa / 128 * 128).map Prod.fst
  cores.map (fun c => { stash := false, who := c, pa := pa / 128 * 128 }) ++
    teams.map (fun t => { stash := true, who := t, pa := pa / 128 * 128 })

/-- Send the snoops of a write, but to the core and the stash that make it (R185). -/
def sendSnoops (s : State) (core team pa : Nat) : State :=
  (snoopsFor s core team pa).foldl (fun t n => { t with snoops := mput t.nextId n t.snoops, nextId := t.nextId + 1 }) s

/-- The words of a stash line that a loss of its clean copy leaves valid: those wholly dirty (R185). -/
def Team.loseLines (t : Team) (gone : Nat × StashLine → Bool) : Team :=
  let lines := (t.stashPa.filter gone).map Prod.fst
  { t with
    valid := t.valid.filter fun w => !lines.contains (w / 32) || (range' (4 * w) 4).all t.dirty.contains
    stashPa := t.stashPa.filter fun l => !gone l }

/-- A snoop arrives: clean bytes of the line in the core's first-level cache, or clean words of the team's stash, are
invalidated; dirty bytes stay (R185). -/
def applySnoop (s : State) (n : Snoop) : State :=
  if n.stash then { s with teams := mmod n.who (fun t => t.loseLines fun l => l.2.pa == n.pa) s.teams }
  else
    { s with l1 := s.l1.filter fun e => !(e.1 / 2 ^ 52 == n.who && (e.1 % 2 ^ 52) / 128 == n.pa / 128 && !e.2.dirty) }

/-- The pending snoops of a choice arrive. -/
def takeSnoops (s : State) (sel : Snoop → Bool) : State :=
  let t := (s.snoops.filter fun n => sel n.2).foldl (fun t n => applySnoop t n.2) s
  { t with snoops := t.snoops.filter fun n => !sel n.2 }

/-- Keep what a word holds before a write of a step, for the teams that may still fetch it, and forget what none may
(R29). -/
def keepWord (s : State) (key : Nat) (now : Word) : State :=
  let live := fun (e : Nat × Word) => s.teams.any fun t => t.2.codeFrom ≤ e.1
  { s with olds := mset [] key ((mget [] key s.olds).filter live ++ [(s.tick, now)].filter live) s.olds }

/-- The words of a line that bytes at offsets touch, kept before the write (R29). -/
def keepWords (s : State) (line : Nat) (bs : List (Nat × Byte)) : State :=
  (bs.foldl (fun ws b => insertNat (b.1 / 4) ws) []).foldl
    (fun t w => keepWord t (line / 4 + w) (BitVec.ofNat 32 (physNat s (line + 4 * w) 4))) s

/-- A write performed in memory for an incarnation: bytes with their offsets in a line. Clean copies elsewhere are
snooped, and a write of the whole line clears its marker (R185, R195, R358). `core` and `team` are the cache and the
stash that the write leaves, numbers of none where it leaves none. -/
def performAt (s : State) (core team cid icn line : Nat) (bs : List (Nat × Byte)) : State :=
  let t := bs.foldl (fun t b => performByte t cid icn (line + b.1) b.2) (keepWords (sendSnoops s core team line) line bs)
  if bs.length == 128 then clearMark t line else t

/-- The number of no core, for writes that leave no first-level cache. -/
def noCore : Nat := Config.cores
/-- The number of no team, for writes that leave no stash. -/
def noTeam : Nat := 2 ^ 40

/-- Bytes from an address on, by their line, as offsets in it; `n` bounds the number of lines. -/
def linesFrom : Nat → Nat → List Byte → List (Nat × List (Nat × Byte))
  | 0, _, _ => []
  | n + 1, pa, bs =>
    if bs.isEmpty then []
    else
      let k := 128 - pa % 128
      (pa / 128 * 128, (bs.take k).mapIdx fun i b => (pa % 128 + i, b)) :: linesFrom n (pa + k) (bs.drop k)

/-- A write of bytes from an address on, performed in memory for an incarnation. -/
def performBytes (s : State) (core team cid icn pa : Nat) (bs : List Byte) : State :=
  (linesFrom (bs.length / 128 + 2) pa bs).foldl (fun t l => performAt t core team cid icn l.1 l.2) s

/-! ## The slices (R317 to R320) -/

/-- The registers of a die. -/
def dieOf (s : State) (d : Nat) : DieSt := mget {} d s.dies
/-- Change the registers of a die. -/
def modDie (s : State) (d : Nat) (f : DieSt → DieSt) : State := { s with dies := mset {} d (f (dieOf s d)) s.dies }

/-- PRIO, MAXWAYS and MINWAYS of a class on a slice's die (Table 18.2). -/
def classCtl (s : State) (slice c hi lo : Nat) : Nat := bits ((dieOf s (slice / 16)).classes.getD c 0) hi lo

/-- The set of a slice that a line falls in (log 7). -/
def setOf (pa : Nat) : Nat := sliceOf pa * 4096 + pa / 16384 % 4096

/-- A set without its least recent line of a class. -/
def dropLast (c : Nat) (ls : List SliceLine) : List SliceLine :=
  match ls.reverse.findIdx? fun l => l.cls == c with
  | none => ls
  | some i => (ls.reverse.eraseIdx i).reverse

/-- The victim class of R319 among the others: the lowest PRIO, ties to the higher class number. -/
def victimClass (prio : Nat → Nat) : List Nat → Option Nat
  | [] => none
  | c :: cs =>
    match victimClass prio cs with
    | none => some c
    | some d => some (if prio c < prio d then c else d)

/-- The set after an access of class c to a line (R317, R319); a write leaves its writer in the line (R44). -/
def allocate (s : State) (slice c line : Nat) (writer : Option (Nat × Nat)) (ls : List SliceLine) : List SliceLine :=
  let count := fun (d : Nat) => (ls.filter fun l => l.cls == d).length
  let fresh : SliceLine := { line := line, cls := c, writer := writer }
  match ls.find? fun l => l.line == line with
  | some l => { l with writer := writer.or l.writer } :: ls.filter fun x => x.line != line
  | none =>
    if classCtl s slice c 12 8 ≤ count c then
      if count c == 0 then ls else fresh :: dropLast c ls
    else if ls.length < 24 then fresh :: ls
    else
      match victimClass (fun d => classCtl s slice d 18 16)
          ((List.range 8).filter fun d => d != c && classCtl s slice d 4 0 < count d) with
      | some d => fresh :: dropLast d ls
      | none => if count c == 0 then ls else fresh :: dropLast c ls

/-- A slice serves an access of a class to a line. -/
def touchSlice (s : State) (pa cls : Nat) (writer : Option (Nat × Nat)) : State :=
  { s with sets := mset [] (setOf pa) (allocate s (sliceOf pa) cls (pa / 128) writer (mget [] (setOf pa) s.sets)) s.sets }

/-! ## Reports (R57) -/

/-- A denied or lost write of a group, on its way to the group (R57, R207). -/
def addReport (s : State) (team group code : Nat) : State :=
  { s with reports := mput s.nextId { team := team, group := group, code := code } s.reports, nextId := s.nextId + 1 }

/-- The same, where the code is not 0. -/
def reportIf (s : State) (team group code : Nat) : State := if code == 0 then s else addReport s team group code

/-! ## The first-level cache of a core (R192) -/

/-- The key of a first-level cache byte. -/
def l1Key (core pa : Nat) : Nat := core * 2 ^ 52 + pa
/-- The core of a first-level cache key. -/
def keyCore (k : Nat) : Nat := k / 2 ^ 52
/-- The physical address of a first-level cache key. -/
def keyPa (k : Nat) : Nat := k % 2 ^ 52

/-- The byte a write-back on its way from the core holds for an address: the latest one. -/
def inFlight (s : State) (core pa : Nat) : Option Byte :=
  (s.requests.reverse.find? fun r => r.2.core == core && !r.2.isRead && r.2.pa == pa / 128 * 128 &&
      (mfind (pa % 128) r.2.bytes).isSome).bind fun r => mfind (pa % 128) r.2.bytes

/-- The byte a core reads: from its first-level cache, else what it has sent on, else from memory. -/
def coreByte (s : State) (core pa : Nat) : Byte :=
  match mfind (l1Key core pa) s.l1 with
  | some c => c.byte
  | none => (inFlight s core pa).getD (physByte s pa)

/-- Does the core's first-level cache hold every byte of a range? -/
def l1Holds (s : State) (core pa n : Nat) : Bool := (range' pa n).all fun a => (mfind (l1Key core a) s.l1).isSome

/-- A store into the first-level cache: the byte becomes dirty and carries its writer and the writing threads (R44,
R192, R203). -/
def l1Store : State → (core cid icn pa : Nat) → Option (Nat × Nat) → List Nat → List Byte → State
  | s, _, _, _, _, _, _, [] => s
  | s, core, cid, icn, pa, w, ts, b :: bs =>
    let seen := match mfind (l1Key core pa) s.l1 with
      | some c => ts.foldl (fun l t => insertNat t l) c.seen
      | none => ts
    l1Store { s with l1 := mput (l1Key core pa) { byte := b, dirty := true, cid := cid, icn := icn, by_ := w, seen := seen } s.l1 }
      core cid icn (pa + 1) w ts bs

/-- A fill of clean bytes: only words that are not there take them (R192). -/
def l1Fill : State → (core cid icn pa : Nat) → List Byte → State
  | s, _, _, _, _, [] => s
  | s, core, cid, icn, pa, b :: bs =>
    let k := l1Key core pa
    let t := if (mfind k s.l1).isSome then s
      else { s with l1 := mput k { byte := b, dirty := false, cid := cid, icn := icn } s.l1 }
    l1Fill t core cid icn (pa + 1) bs

/-- Threads have read bytes of the first-level cache: a release of theirs covers the dirty ones (R201). -/
def l1Seen (s : State) (core pa n : Nat) (ts : List Nat) : State :=
  { s with l1 := s.l1.map fun e =>
      if keyCore e.1 == core && pa ≤ keyPa e.1 && keyPa e.1 < pa + n && e.2.dirty then
        (e.1, { e.2 with seen := ts.foldl (fun l t => insertNat t l) e.2.seen })
      else e }

/-- The cells of a core's first-level cache. -/
def l1Of (s : State) (core : Nat) : Map L1Cell := s.l1.filter fun e => keyCore e.1 == core

/-! ## Write-backs (R44, R48, R192) -/

/-- The writers of dirty bytes, each once. -/
def writersOf (cs : List (Nat × L1Cell)) : List (Nat × Nat × Option (Nat × Nat)) :=
  cs.foldl (fun ws e =>
    let w := (e.2.cid, e.2.icn, e.2.by_)
    if e.2.dirty && !ws.contains w then ws ++ [w] else ws) []

/-- The cache class of the accesses of a writer's team (R317). -/
def classOf (s : State) (w : Option (Nat × Nat)) : Nat :=
  match w.bind fun b => mfind b.1 s.teams with
  | some t => t.cls
  | none => 0

/-- The write-backs of cells of one line, each writer's dirty bytes as a request of its own (R44, R192). -/
def backRequests (s : State) (core line : Nat) (cs : List (Nat × L1Cell)) : List Request :=
  (writersOf cs).map fun w =>
    let mine := cs.filter fun e => e.2.dirty && e.2.cid == w.1 && e.2.icn == w.2.1 && e.2.by_ == w.2.2
    { target := sliceOf (128 * line), core := core, cid := w.1, icn := w.2.1, pa := 128 * line
      bytes := mine.map fun e => (e.1 % 128, e.2.byte), isRead := false, by_ := w.2.2, cls := classOf s w.2.2
      seen := mine.foldl (fun l e => e.2.seen.foldl (fun l t => insertNat t l) l) [] }

/-- A write-back at its targets: dropped where its incarnation is stale (R46, R48), denied by the access tables and
reported to its writer (R57), or performed. -/
def performBack (s : State) (r : Request) : State :=
  if dropped s r.target r.cid r.icn || wayDrops s (coreMaster r.core) r.pa r.cid r.icn then s
  else if !lineAllows s (coreMaster r.core) r.cid r.pa .write then
    let t := logDenial s (coreMaster r.core) r.cid r.pa .write
    match r.by_ with
    | some w => addReport t w.1 w.2 3
    | none => t
  else performAt (touchSlice s r.pa (r.cls % 8) (some (r.cid, r.icn))) r.core noTeam r.cid r.icn r.pa r.bytes

/-- The core's write-backs in flight to the lines of a choice are performed. -/
def landRequests (s : State) (core : Nat) (sel : Nat × Request → Bool) : State :=
  let mine := fun (r : Nat × Request) => r.2.core == core && !r.2.isRead && sel r
  let t := (s.requests.filter mine).foldl (fun t r => performBack t r.2) s
  { t with requests := t.requests.filter fun r => !mine r }

/-- Write back the dirty bytes that a choice picks of a core's first-level cache, behind what is in flight to their
lines; they stay there clean where memory took them. -/
def flushCells (s : State) (core : Nat) (sel : Nat × L1Cell → Bool) : State :=
  let cs := (l1Of s core).filter fun e => e.2.dirty && sel e
  let lines := cs.foldl (fun ls e => insertNat (keyPa e.1 / 128) ls) []
  let s1 := landRequests s core fun r => lines.contains (r.2.pa / 128)
  let s2 := lines.foldl (fun t l =>
    (backRequests t core l (cs.filter fun e => keyPa e.1 / 128 == l)).foldl performBack t) s1
  let keys := cs.map Prod.fst
  { s2 with l1 := s2.l1.filterMap fun e =>
      if !keys.contains e.1 then some e
      else if physByte s2 (keyPa e.1) == e.2.byte then some (e.1, { e.2 with dirty := false, seen := [] })
      else none }

/-- Write back everything of a core's first-level cache and what is in flight from it. -/
def flushCore (s : State) (core : Nat) : State := flushCells (landRequests s core fun _ => true) core fun _ => true

/-- Write back one line of a core's first-level cache, behind what is in flight to it: what comes before a write of the
core that goes past the cache (R195). -/
def flushLine (s : State) (core pa : Nat) : State :=
  flushCells (landRequests s core fun r => r.2.pa / 128 == pa / 128) core fun e => keyPa e.1 / 128 == pa / 128

/-- Forget a core's bytes of a range: a write past the cache has replaced them. -/
def l1Forget (s : State) (core pa n : Nat) : State :=
  { s with l1 := s.l1.filter fun e => !(keyCore e.1 == core && pa ≤ keyPa e.1 && keyPa e.1 < pa + n) }

/-- A write of a core that goes past its first-level cache to the slice. -/
def writePast (s : State) (core team cid icn pa : Nat) (bs : List Byte) : State :=
  performBytes (l1Forget (flushLine s core pa) core pa bs.length) core team cid icn pa bs

/-- Copy 1 of a paired team is kept under its SAVE with bit 30 set (R353). -/
def copyOne : Nat := 2 ^ 30
/-- Is the key that of copy 1? -/
def isCopy1 (tid : Nat) : Bool := bitB tid 30
/-- The key of copy 0 of a team. -/
def copy0 (tid : Nat) : Nat := if isCopy1 tid then tid - copyOne else tid
/-- The other copy of a paired team. -/
def twinOf (tid : Nat) : Nat := if isCopy1 tid then tid - copyOne else tid + copyOne

/-- The key of a thread of a team: group 32 is the matrix thread, and lane 32 the copy engine of the group. -/
def threadKey (team group lane : Nat) : Nat := (team * 64 + group) * 64 + lane
/-- The key that stands for every thread of a team. -/
def teamKey (team : Nat) : Nat := threadKey team 63 0

/-- Does a release by some threads of a team cover what threads have seen: one of them has, or it was published to the
whole team (R203)? -/
def covers (team : Nat) (ts seen : List Nat) : Bool := seen.any fun k => ts.contains k || k == teamKey team

/-- Every write of a core that a choice of threads has made or read is performed, eight bytes that one access may have
written at a time (R194). -/
def flushSeen (s : State) (core : Nat) (sel : List Nat → Bool) : State :=
  let words := (l1Of s core).foldl (fun ws e => if e.2.dirty && sel e.2.seen then insertNat (keyPa e.1 / 8) ws else ws) []
  flushCells (landRequests s core fun r => sel r.2.seen) core fun e => words.contains (keyPa e.1 / 8)

/-- A release by threads at core scope or wider (R201, R203, R204). -/
def flushFor (s : State) (core team : Nat) (ts : List Nat) : State := flushSeen s core (covers team ts)

/-- Every write that a team's threads have made or read on a core is performed: what comes before the team leaves it, since
it stays one instance of the scope team (R196). -/
def flushTeam (s : State) (core team : Nat) : State := flushSeen s core fun l => l.any fun k => k / 4096 == team

/-- A release by threads at a scope within the core: a later wider release of any thread of the team covers what they
have seen (R201). -/
def publish (s : State) (core team : Nat) (ts : List Nat) : State :=
  let widen := fun (l : List Nat) => if covers team ts l then insertNat (teamKey team) l else l
  { s with
    l1 := s.l1.map fun e => if keyCore e.1 == core && e.2.dirty then (e.1, { e.2 with seen := widen e.2.seen }) else e
    requests := s.requests.map fun r => if r.2.core == core then (r.1, { r.2 with seen := widen r.2.seen }) else r }

/-- Drop the clean bytes of a core's first-level cache and the fills on their way to it: what an acquire may not read
stale (R195, R204). -/
def dropClean (s : State) (core : Nat) : State :=
  { s with
    l1 := s.l1.filter fun e => !(keyCore e.1 == core && !e.2.dirty)
    responses := s.responses.filter fun r => r.2.core != core }

/-! ## Structures of the hardware (R387) -/

/-- A write of a structure of R387 on a context's behalf: carried as CID 0 and checked as the master that makes it;
denied, it is not performed. -/
def hwWrite (s : State) (m : Master) (pa : Nat) (bs : List Byte) : State × Bool :=
  if inHbm pa && lineAllows s m 0 pa .write then (performBytes s noCore noTeam 0 0 pa bs, true)
  else (logDenial s m 0 pa .write, false)

/-- May a master read a structure of R387? -/
def hwReads (s : State) (m : Master) (pa : Nat) : Bool := inHbm pa && lineAllows s m 0 pa .read

/-- A read of a structure of R387. -/
def hwRead (s : State) (m : Master) (pa n : Nat) : Option Nat := if hwReads s m pa then some (physNat s pa n) else none

/-- The denial of a read of a structure of R387 is logged (R57). -/
def hwDenied (s : State) (m : Master) (pa : Nat) : State :=
  if hwReads s m pa then s else logDenial s m 0 pa .read

end Sys2Proof.Machine
end

