-- ==== Sys2Proof/Machine/Translate.lean ====
section
/-!
DEFINITION. Address translation (12_translation.md R214 to R224): page-table entries, the walk, the translations a
core holds, the fault queues, and the surface table and tiles that pages of type surface reach (16_surfaces.md
R273 to R281).
-/

namespace Sys2Proof.Machine

open Sys2Proof

/-! ## Page-table entries (Table 12.2) -/

/-- V of an entry. -/
def pteV (e : Nat) : Bool := bitB e 0
/-- LEAF of an entry. -/
def pteLeaf (e : Nat) : Bool := bitB e 1
/-- R of an entry. -/
def pteR (e : Nat) : Bool := bitB e 3
/-- W of an entry. -/
def pteW (e : Nat) : Bool := bitB e 4
/-- X of an entry. -/
def pteX (e : Nat) : Bool := bitB e 5
/-- TYPE of an entry: 0 normal, 1 device, 2 surface, 3 remote. -/
def pteType (e : Nat) : Nat := bits e 7 6
/-- DEV of an entry. -/
def pteDev (e : Nat) : Nat := bits e 61 52
/-- The physical address an entry names. -/
def ptePa (e : Nat) : Nat := bits e 51 14 * 2 ^ 14

/-- Is a valid entry at a level malformed (R215)? -/
def pteMalformed (e l : Nat) : Bool :=
  bits e 63 62 != 0 || bits e 13 9 != 0 || bitB e 2 ||
  (pteLeaf e && l == 3) || (!pteLeaf e && l == 0) ||
  (pteLeaf e && l == 1 && bits e 24 14 != 0) || (pteLeaf e && l == 2 && bits e 35 14 != 0) ||
  (!pteLeaf e && (pteDev e != 0 || bitB e 8 || pteType e != 0 || pteX e || pteW e || pteR e)) ||
  (pteDev e != 0 && pteType e != 3) || (bitB e 8 && pteType e != 0)

/-- The index of a level (Table 12.1). -/
def vaIndex (va l : Nat) : Nat :=
  if l = 3 then bits va 55 47 else if l = 2 then bits va 46 36 else if l = 1 then bits va 35 25 else bits va 24 14

/-- The bits of the page offset of a leaf at a level. -/
def pageBits (l : Nat) : Nat := if l = 2 then 36 else if l = 1 then 25 else 14

/-- What a walk returns (R216): a leaf and its level, or a failure with its fault code and level. -/
inductive Walked
  | page (pte level : Nat)
  | fail (code : Nat) (mal : Bool) (level : Nat)
deriving DecidableEq, Repr

/-- The part of an address that names an entry at a level and above. -/
def vaPrefix (va l : Nat) : Nat := va / 2 ^ (if l = 3 then 47 else if l = 2 then 36 else if l = 1 then 25 else 14)

/-- The unit of a die's last-level TLB and walk unit. -/
def dieUnit (core : Nat) : Nat := 320 + core / 128

/-- The units on a core's path, nearest first: L1 TLB, cluster TLB, last-level TLB (R217); none for a master that is no
core. -/
def tlbUnits (core : Nat) : List Nat := if Config.cores ≤ core then [] else [core, 256 + core / 4, dieUnit core]

/-- Entries that a unit has room for (Table 12.3). -/
def unitRoom (unit : Nat) : Nat := if unit < 256 then 64 else if unit < 320 then 2048 else 32768

/-- The non-leaf entries of a level that a walk unit holds for an address. -/
def nonLeafFind (s : State) (unit cid va l : Nat) : List Nat :=
  (s.nonLeaf.filter fun e => e.unit == unit && e.cid == cid && e.level == l && e.page == vaPrefix va l).map Tlb.pte

/-- One of the entries that R220 lets an access use: those held and the one in memory. -/
def chooseEntry (tick salt : Nat) (now : Nat) (held : List Nat) : Nat :=
  match held.filter (· != now) with
  | [] => now
  | old => (now :: old).getD (Config.freeNat tick salt % (old.length + 1)) now

/-- The entry a walk reads at a level: the one in memory or, after software changed it, one that the walk unit still
holds, whichever (R220). -/
def entryAt (s : State) (unit : Option Nat) (cid va l pa : Nat) : Nat :=
  chooseEntry s.tick (2 ^ 61 + pa) (physNat s pa 8) (match unit with
    | some u => nonLeafFind s u cid va l
    | none => [])

/-- The walk of R216 from the level above `n` down; each read is checked as the requester's. With a walk
unit, its non-leaf entries may be used. -/
def walkFrom (s : State) (unit : Option Nat) (m : Master) (cid va : Nat) : Nat → Nat → Walked
  | 0, _ => .fail 1 true 0
  | n + 1, t =>
    let pa := t + 8 * vaIndex va n
    if !inHbm pa then .fail 3 false n
    else if !lineAllows s m cid pa .read then .fail 3 false n
    else if isMarked s pa then .fail 5 false n
    else
      let e := entryAt s unit cid va n pa
      if !pteV e then .fail 1 false n
      else if pteMalformed e n then .fail 1 true n
      else if pteLeaf e then .page e n
      else walkFrom s unit m cid va n (ptePa e)

/-- The walk of a context's tables from its root (R214, R216), by the memory alone. -/
def walk (s : State) (m : Master) (cid va : Nat) : Walked := walkFrom s none m cid va 4 (ctxOf s cid).ptroot

/-- The physical address, within the HBM, of the walk read that the access tables deny (R56, R216). -/
def walkDenied (s : State) (unit : Option Nat) (m : Master) (cid va : Nat) : Nat → Nat → Option Nat
  | 0, _ => none
  | n + 1, t =>
    let pa := t + 8 * vaIndex va n
    if !inHbm pa then none
    else if !lineAllows s m cid pa .read then some pa
    else
      let e := entryAt s unit cid va n pa
      if pteV e && !pteMalformed e n && !pteLeaf e && !isMarked s pa then walkDenied s unit m cid va n (ptePa e) else none

/-- A denied walk read is logged at its target (R57). -/
def logWalk (s : State) (unit : Option Nat) (m : Master) (cid va : Nat) : State :=
  match walkDenied s unit m cid va 4 (ctxOf s cid).ptroot with
  | some pa => logDenial s m cid pa .read
  | none => s

/-- The non-leaf entries a successful walk passes (R217). -/
def walkPath (s : State) (unit cid va : Nat) : Nat → Nat → List Tlb
  | 0, _ => []
  | n + 1, t =>
    let e := entryAt s (some unit) cid va n (t + 8 * vaIndex va n)
    if pteV e && !pteLeaf e then
      { unit := unit, cid := cid, level := n, page := vaPrefix va n, pte := e } :: walkPath s unit cid va n (ptePa e)
    else []

/-- The physical address of a byte under a leaf. -/
def leafPa (pte level va : Nat) : Nat := ptePa pte + va % 2 ^ pageBits level

/-! ## Translations held (R217 to R220) -/

/-- Does an entry translate an address of a context? -/
def Tlb.hits (e : Tlb) (cid va : Nat) : Bool := e.cid == cid && e.page == va / 2 ^ pageBits e.level

/-- The translations that the units on a core's path hold for an address. -/
def tlbHits (s : State) (core cid va : Nat) : List Tlb :=
  s.tlb.filter fun e => (tlbUnits core).contains e.unit && e.hits cid va

/-- A translation that the units on a core's path hold for an address. -/
def tlbFind (s : State) (core cid va : Nat) : Option Tlb := (tlbHits s core cid va).head?

/-- What translation gives for an address: the walk, or a translation still held after software changed the tables,
whichever, access by access (R217, R220). -/
def lookup (s : State) (core : Nat) (m : Master) (cid va : Nat) : Walked :=
  let w := walkFrom s (some (dieUnit core)) m cid va 4 (ctxOf s cid).ptroot
  match ((tlbHits s core cid va).map fun e => Walked.page e.pte e.level).filter (· != w) with
  | [] => w
  | old => (w :: old).getD (Config.freeNat s.tick (2 ^ 60 + va) % (old.length + 1)) w

/-- Hold an entry in a list of a unit's entries; a full unit loses one of them first (R217, Table 12.3). -/
def holdEntry (tick room : Nat) (l : List Tlb) (e : Tlb) : List Tlb :=
  if l.contains e then l
  else
    let mine := l.filter fun x => x.unit == e.unit
    if mine.length < room then e :: l
    else
      match mine[Config.freeNat tick (2 ^ 56 + e.page) % mine.length]? with
      | some v => e :: l.erase v
      | none => e :: l

/-- Hold a leaf in the units on a core's path (R217): a hit fills the units nearer than the one it was found in; a walk
fills all of them, and the walk unit with the non-leaf entries it read. -/
def tlbFill (s : State) (core cid va pte level : Nat) : State :=
  let entry := fun (u : Nat) => ({ unit := u, cid := cid, level := level, page := va / 2 ^ pageBits level, pte := pte } : Tlb)
  let nearer := (tlbUnits core).takeWhile fun u => !s.tlb.contains (entry u)
  let s1 := { s with tlb := nearer.foldl (fun (l : List Tlb) (u : Nat) => holdEntry s.tick (unitRoom u) l (entry u)) s.tlb }
  if nearer.length < 3 then s1
  else
    { s1 with nonLeaf := (walkPath s (dieUnit core) cid va 4 (ctxOf s cid).ptroot).foldl (holdEntry s.tick 1024) s1.nonLeaf }

/-- Translate for a requester on a core; a successful walk fills the TLBs (R217). -/
def translate (s : State) (core : Nat) (m : Master) (cid va : Nat) : State × Walked :=
  match lookup s core m cid va with
  | .page pte l => (tlbFill s core cid va pte l, .page pte l)
  | w => (s, w)

/-- A permission or type fault removes the entry that gave it from every unit on the core's path (R219). -/
def tlbDrop (s : State) (core : Nat) (m : Master) (cid va : Nat) : State :=
  match lookup s core m cid va with
  | .page pte l => { s with tlb := s.tlb.filter fun e =>
      !((tlbUnits core).contains e.unit && e.hits cid va && e.pte == pte && e.level == l) }
  | _ => s

/-! ## Fault queues (R222) -/

/-- The 16 KiB granule of an address. -/
def granuleOf (va : Nat) : Nat := va / 2 ^ 14

/-- The open fault-queue entry of a core for a context and granule. -/
def faultEntry (s : State) (core cid va : Nat) : Option FaultEnt :=
  s.faultq.find? fun e => e.core == core && e.cid == cid && e.granule == granuleOf va

/-- A free fault-queue entry: 64 per core, four of them for CID 0 alone (R222). -/
def freeFaultIdx (s : State) (core cid : Nat) : Option Nat :=
  let used := (s.faultq.filter fun e => e.core == core).map FaultEnt.idx
  (List.range 64).find? fun i => !used.contains i && (cid == 0 || 4 ≤ i)

/-- Can a failed translation join or open an entry? Otherwise its requester stalls (R222). -/
def faultRoom (s : State) (core cid va : Nat) : Bool :=
  (faultEntry s core cid va).isSome || (freeFaultIdx s core cid).isSome

/-- Open a fault-queue entry, with one notice, or join the one that is open (R222). `kind` is KIND of Table 12.4. -/
def openFault (s : State) (core cid icn va code kind lvl : Nat) (mal wb teamend : Bool) : State :=
  match faultEntry s core cid va with
  | some _ => s
  | none =>
    match freeFaultIdx s core cid with
    | none => s
    | some i =>
      { s with
        faultq := s.faultq ++ [{ core := core, idx := i, cid := cid, granule := granuleOf va, code := code }]
        notices := mput s.nextId
          { core := core, entry := i, teamend := teamend, wb := wb, mal := mal, lvl := lvl, kind := kind
            code := code, icn := icn, cid := cid, va := va } s.notices
        nextId := s.nextId + 1 }

/-- A walk on its way for a requester and a granule (R218). -/
def walkUnderWay (s : State) (core cid va : Nat) : Bool :=
  s.walks.any fun w => w.2.core == core && w.2.cid == cid && granuleOf w.2.va == granuleOf va

/-! ## The surface table and tiles -/

/-- The physical address of a surface table entry (R273). -/
def sfEntry (s : State) (cid sid : Nat) : Nat := s.ctl.sfbase + cid * 0x10000 + 64 * sid

/-- A number in a surface table entry. -/
def sfField (s : State) (cid sid off n : Nat) : Nat := physNat s (sfEntry s cid sid + off) n

/-- Is the surface LIVE (Table 16.1)? -/
def sfLive (s : State) (cid sid : Nat) : Bool := sfField s cid sid 0x28 1 == 1

/-- Bytes per sample of a format (Table 16.2), 0 for a reserved code. -/
def formatBytes (f : Nat) : Nat := ([4, 4, 2, 4, 8, 4, 16, 8, 4, 4, 1] : List Nat).getD f 0

/-- Bytes of a tile (R276). -/
def tileBytes (s : State) (cid sid : Nat) : Nat :=
  4096 * formatBytes (sfField s cid sid 0x0F 1) * sfField s cid sid 0x0E 1

/-- The key of a surface byte. -/
def surfKey (cid sid off : Nat) : Nat := (cid * 1024 + sid) * 2 ^ 44 + off
/-- The key of a tile. -/
def tileKey (cid sid tile : Nat) : Nat := (cid * 1024 + sid) * 2 ^ 32 + tile

/-- The state of a tile. -/
def tileOf (s : State) (cid sid tile : Nat) : TileSt := mget {} (tileKey cid sid tile) s.tiles
/-- Change the state of a tile. -/
def setTile (s : State) (cid sid tile : Nat) (t : TileSt) : State :=
  { s with tiles := mset {} (tileKey cid sid tile) t s.tiles }

/-- Tiles across a surface. -/
def tilesAcross (s : State) (cid sid : Nat) : Nat := ceilDiv (sfField s cid sid 0x08 2) 64
/-- Tiles down a surface. -/
def tilesDown (s : State) (cid sid : Nat) : Nat := ceilDiv (sfField s cid sid 0x0A 2) 64

/-- A byte of a surface; a tile that was never written reads zero (R280). -/
def surfByte (s : State) (cid sid off : Nat) : Byte := mget 0 (surfKey cid sid off) s.surf

/-- Write bytes of a surface from an offset; written bytes carry no poison. -/
def setSurfBytes : State → (cid sid off : Nat) → List Byte → State
  | s, _, _, _, [] => s
  | s, cid, sid, off, b :: bs =>
    let k := surfKey cid sid off
    setSurfBytes { s with surf := mset 0 k b s.surf, surfBad := s.surfBad.filter (· != k) } cid sid (off + 1) bs

/-- Write bytes of a surface for an incarnation, noting what they held before (R53). -/
def writeSurf (s : State) (cid icn sid off : Nat) (bs : List Byte) : State :=
  let note := fun (m : Map Past) (i : Nat) =>
    let k := surfKey cid sid (off + i)
    mput k (Past.before (mfind k m) cid icn (mget 0 k s.surf)) m
  let t := setSurfBytes s cid sid off bs
  if cid == 0 then t else { t with surfPast := (List.range bs.length).foldl note t.surfPast }

/-- What the kill of an incarnation leaves in a byte of a surface (R53). -/
def revertSurf (s : State) (k : Nat) (p : Past) : State :=
  let t := { s with surfPast := merase k s.surfPast }
  match p.vals[Config.freeNat s.tick (2 ^ 58 + k) % (p.vals.length + 1)]? with
  | some b => { t with surf := mset 0 k b t.surf }
  | none => t

/-- Is any of `n` surface bytes poisoned (R280)? -/
def surfPoisoned (s : State) (cid sid off n : Nat) : Bool :=
  s.surfBad.any fun k => surfKey cid sid off ≤ k && k < surfKey cid sid (off + n)

end Sys2Proof.Machine
end

