-- ==== Sys2Proof/Machine/Surf.lean ====
section
/-!
DEFINITION. Placement and residency of surface tiles (16_surfaces.md R276 to R281): which bank a tile lives in, the
room of a bank, and touching a tile.
-/

namespace Sys2Proof.Machine

open Sys2Proof

/-- Is the vertical bus of a core's die frozen (R323)? -/
def busFrozen (s : State) (core : Nat) : Bool := (dieOf s (core / 128)).vbusFrozen

/-- The stack of a tile (R278). -/
def stackOfTile (s : State) (cid sid tile : Nat) : Nat :=
  let tw := tilesAcross s cid sid
  let th := tilesDown s cid sid
  (tile % tw + tile / tw % th) % 2

/-- The number of a tile among those of its stack, in offset order (R278). -/
def tileOrdinal (s : State) (cid sid tile : Nat) : Nat :=
  ((List.range tile).filter fun j => stackOfTile s cid sid j == stackOfTile s cid sid tile).length

/-- The live banks of a surface's bank set on a stack, in increasing number (R278). -/
def liveBanks (s : State) (cid sid stack : Nat) : List Nat :=
  (range' (8 * sfField s cid sid 0x10 2) (8 * sfField s cid sid 0x12 2)).filter fun b =>
    !(dieOf s stack).deadBanks.contains b

/-- The stack and bank of a tile, none when its list of banks is empty (R278, R279). -/
def bankOf (s : State) (cid sid tile : Nat) : Option (Nat × Nat) :=
  let st := stackOfTile s cid sid tile
  let l := liveBanks s cid sid st
  if l.isEmpty then none else some (st, l.getD (tileOrdinal s cid sid tile % l.length) 0)

/-- Context, surface and tile of a tile key. -/
def tileKeyCid (k : Nat) : Nat := k / 2 ^ 32 / 1024
/-- Surface number of a tile key. -/
def tileKeySid (k : Nat) : Nat := k / 2 ^ 32 % 1024
/-- Tile number of a tile key. -/
def tileKeyTile (k : Nat) : Nat := k % 2 ^ 32

/-- The resident tiles of a bank. -/
def residentIn (s : State) (bank : Nat × Nat) : List (Nat × TileSt) :=
  s.tiles.filter fun e =>
    e.2.resident && bankOf s (tileKeyCid e.1) (tileKeySid e.1) (tileKeyTile e.1) == some bank

/-- Units of 4 KiB that a surface's tile occupies (R280). -/
def tileUnits (s : State) (cid sid : Nat) : Nat := tileBytes s cid sid / 4096

/-- Units in use in a bank. -/
def unitsUsed (s : State) (bank : Nat × Nat) : Nat :=
  (residentIn s bank).foldl (fun n e => n + tileUnits s (tileKeyCid e.1) (tileKeySid e.1)) 0

/-- Is the surface pinned (Table 16.1)? -/
def sfPinned (s : State) (cid sid : Nat) : Bool := bitB (sfField s cid sid 0x29 1) 0

/-- Tiles of a bank that the skimmer may spill: unpinned and not stuck (R280). An operation is in progress on a tile only
within its own step. -/
def spillable (s : State) (bank : Nat × Nat) : List (Nat × TileSt) :=
  (residentIn s bank).filter fun e =>
    !sfPinned s (tileKeyCid e.1) (tileKeySid e.1) && !e.2.stuck

/-- The least recently touched tile of a list (R280). -/
def leastTouched : List (Nat × TileSt) → Option Nat
  | [] => none
  | e :: l => some ((l.foldl (fun a b => if b.2.touched < a.2.touched then b else a) e).1)

/-! ## The surface table and the backing as memory (R273, R280, R387) -/

/-- The code of a surface table read by a master: a denial, memory poison, or 0 (R387). -/
def sfReadCode (s : State) (m : Master) (cid sid : Nat) : Nat :=
  if !hwReads s m (sfEntry s cid sid) then 3 else if isMarked s (sfEntry s cid sid) then 5 else 0

/-- The skimmer of a stack as a requester (Table 2.8). -/
def skimmer (stack : Nat) : Master := { cls := 5, idx := stack }

/-- The backing address of a tile. -/
def backVa (s : State) (cid sid tile : Nat) : Nat :=
  (sfField s cid sid 0x18 8 % 2 ^ 56 + tile * tileBytes s cid sid) % 2 ^ 56

/-- The physical pieces of `n` granules of 4 KiB of backing from an address; or the code of the first that fails, with the
address where the access tables deny it. -/
def backPieces (s : State) (m : Master) (cid : Nat) (k : Access) : Nat → Nat → Except (Nat × Option Nat) (List Nat)
  | 0, _ => .ok []
  | n + 1, va =>
    match walk s m cid va with
    | .fail c _ _ => .error (c, none)
    | .page pte l =>
      let need := match k with
        | .read => pteR pte
        | _ => pteW pte
      if !need || pteType pte != 0 then .error (2, none)
      else if !inHbm (leafPa pte l va) || !lineAllows s m cid (leafPa pte l va) k then .error (3, some (leafPa pte l va))
      else (backPieces s m cid k n (va + 4096)).map fun l2 => leafPa pte l va :: l2

/-- The pieces of a tile's backing, as the skimmer of its stack reaches them. -/
def tilePieces (s : State) (cid sid tile : Nat) (k : Access) : Except (Nat × Option Nat) (List Nat) :=
  backPieces s (skimmer (stackOfTile s cid sid tile)) cid k (tileUnits s cid sid) (backVa s cid sid tile)

/-- Do targets drop what the skimmer asks for a tile: its requests carry the context's ICN, and the context is not LIVE
(R44, R46)? -/
def skimDrops (s : State) (cid sid tile : Nat) (k : Access) : Bool :=
  match tilePieces s cid sid tile k with
  | .ok ps => ps.any fun pa => wayDrops s (skimmer (stackOfTile s cid sid tile)) pa cid (ctxOf s cid).icn
  | .error _ => false

/-- A denied access of the skimmer to a tile's backing is logged (R57). -/
def noteSkim (s : State) (cid sid tile : Nat) (k : Access) (e : Nat × Option Nat) : State :=
  match e.2 with
  | some pa => logDenial s (skimmer (stackOfTile s cid sid tile)) cid pa k
  | none => s

/-- What a touch of a tile needs (R280). -/
inductive Touch
  /-- the tile is resident -/
  | ready
  /-- a tile must be spilled first -/
  | spill (cid sid tile : Nat)
  /-- there is room: the tile must be brought in -/
  | bring
  /-- no room can be had, or no bank is live: Fault(0x0B) -/
  | fail
  /-- the skimmer's requests are dropped until their context is LIVE again (R46) -/
  | stall
deriving DecidableEq, Repr

/-- Touch a tile of a LIVE surface (R279, R280). -/
def touchTile (s : State) (cid sid tile : Nat) : Touch :=
  match bankOf s cid sid tile with
  | none => .fail
  | some bank =>
    if (tileOf s cid sid tile).resident then .ready
    else if unitsUsed s bank + tileUnits s cid sid ≤ 64 then
      if (tileOf s cid sid tile).spilled.isSome && skimDrops s cid sid tile .read then .stall else .bring
    else
      match leastTouched (spillable s bank) with
      | some k =>
        if (tileOf s (tileKeyCid k) (tileKeySid k) (tileKeyTile k)).written && skimDrops s (tileKeyCid k) (tileKeySid k) (tileKeyTile k) .write
        then .stall
        else .spill (tileKeyCid k) (tileKeySid k) (tileKeyTile k)
      | none => .fail

/-- Note that a resident tile has been touched, and written if so. -/
def noteTouch (s : State) (cid sid tile : Nat) (wrote : Bool) : State :=
  let t := tileOf s cid sid tile
  setTile s cid sid tile { t with touched := s.tick, written := t.written || wrote }

/-- The tile of a surface byte. -/
def tileAt (s : State) (cid sid off : Nat) : Nat := off / tileBytes s cid sid

/-- The surface table entry's tile geometry gives the offset of sample `smp` of pixel (x, y) in layer m (R276). -/
def surfOffset (s : State) (cid sid x y m smp : Nat) : Nat :=
  let f := formatBytes (sfField s cid sid 0x0F 1)
  let samples := sfField s cid sid 0x0E 1
  ((m * tilesDown s cid sid + y / 64) * tilesAcross s cid sid + x / 64) * tileBytes s cid sid +
    ((y % 64 * 64 + x % 64) * samples + smp) * f

/-! ## Error triage (R375) -/

/-- Add a record to the error log and announce it: to the firmware, or to the host that owns triage (R375). -/
def logError (s : State) (e : ElogRec) : State :=
  let c := s.ctl
  if (c.elogTail + 2 ^ 64 - c.elogHead) % 2 ^ 64 == 1024 then
    { s with ctl := { c with elogDrop := min (2 ^ 64 - 1) (c.elogDrop + 1) } }
  else
    let s1 := { s with
      elog := mput (c.elogTail % 1024) { e with seq := c.elogTail } s.elog
      ctl := { c with elogTail := (c.elogTail + 1) % 2 ^ 64 } }
    if bitB c.hmode 2 && bitB c.elogVec 15 then { s1 with irqs := s1.irqs ++ [bits c.elogVec 10 0] }
    else { s1 with fwNotes := s1.fwNotes ++ [e.kind] }

/-! ## Spills and returns (R280) -/

/-- What the skimmer's private format leaves in backing byte i of a spill (R280). -/
def curdByte (tick tile i : Nat) : Byte := Config.freeByte tick (2 ^ 30 + tile * 2 ^ 20 + i)

/-- Write the pieces of a spill for an incarnation. -/
def writePieces (s : State) (tick cid icn tile : Nat) (ps : List Nat) : State :=
  (ps.mapIdx fun j pa => (j, pa)).reverse.foldl (fun t jp =>
    performBytes t noCore noTeam cid icn jp.2 ((List.range 4096).map fun i => curdByte tick tile (4096 * jp.1 + i))) s

/-- Spill a tile (R280): a written tile to its backing; a failed write leaves it resident and stuck. -/
def spillTile (s : State) (cid sid tile : Nat) : State :=
  let t := tileOf s cid sid tile
  if !t.written then setTile s cid sid tile { t with resident := false }
  else
    match tilePieces s cid sid tile .write with
    | .error c =>
      let s1 := setTile (noteSkim s cid sid tile .write c) cid sid tile { t with stuck := true }
      let s2 := (hwWrite s1 (skimmer (stackOfTile s cid sid tile)) (sfEntry s1 cid sid + 0x2C) (toBytes 4 (sfField s1 cid sid 0x2C 4 + 1))).1
      logError s2 { kind := 2, code := c.1, cid := some cid, icn := (ctxOf s cid).icn, unit := sid, addr := backVa s cid sid tile }
    | .ok ps =>
      setTile (writePieces s s.tick cid (ctxOf s cid).icn tile ps) cid sid tile
        { t with resident := false, stuck := false, spilled := some s.tick }

/-- Does the backing still hold what the spill wrote? -/
def backIntact (s : State) (tick tile : Nat) (ps : List Nat) : Bool :=
  (ps.mapIdx fun j pa => (j, pa)).all fun jp =>
    (List.range 4096).all fun i => physByte s (jp.2 + i) == curdByte tick tile (4096 * jp.1 + i)

/-- Bring a tile in (R280): one that was never backed reads zero; one whose backing software wrote reads any bytes; a
backing that meets memory poison leaves its bytes poisoned. The number is 0, or the code of a failed read. -/
def returnTile (s : State) (cid sid tile : Nat) : State × Nat :=
  let t := tileOf s cid sid tile
  let here := { t with resident := true, touched := s.tick }
  match t.spilled with
  | none => (setTile s cid sid tile here, 0)
  | some k =>
    match tilePieces s cid sid tile .read with
    | .error c => (noteSkim s cid sid tile .read c, c.1)
    | .ok ps =>
      let off := tile * tileBytes s cid sid
      let n := tileBytes s cid sid
      if (ps.any fun pa => (range' 0 32).any fun i => isMarked s (pa + 128 * i)) then
        let s1 := { s with surfBad := (range' (surfKey cid sid off) n).foldl (fun b x => insertNat x b) s.surfBad }
        (setTile s1 cid sid tile { here with spilled := none }, 0)
      else if backIntact s k tile ps then (setTile s cid sid tile { here with spilled := none }, 0)
      else
        let s1 := setSurfBytes s cid sid off ((List.range n).map fun i => Config.freeByte s.tick (2 ^ 40 + i))
        (setTile s1 cid sid tile { here with spilled := none }, 0)

/-- Beside the fault codes: the skimmer's requests are dropped for now. -/
def stalled : Nat := 0x100

/-- Make a tile resident for a touch, spilling as often as its bank needs (R280); the number is 0, a fault code, or that of
a stall. -/
def bringTile (s : State) (cid sid tile : Nat) : Nat → State × Nat
  | 0 => (s, 0xB)
  | n + 1 =>
    match touchTile s cid sid tile with
    | .ready => (s, 0)
    | .fail => (s, 0xB)
    | .stall => (s, stalled)
    | .bring => returnTile s cid sid tile
    | .spill c d t => bringTile (spillTile s c d t) cid sid tile n

end Sys2Proof.Machine
end

