-- ==== Sys2Proof/Machine/Access.lean ====
section
/-!
DEFINITION. Where an access of a team goes and what it does there: the local window (10_local.md R176 to R179),
stash windows (R183 to R187), and the four memory types (11_memory.md R193, R207), with the checks of R207 in their
order and the reports of the targets.
-/

namespace Sys2Proof.Machine

open Sys2Proof

/-! ## Teams -/

/-- A team that does not exist: what a lookup without a team gives. -/
def Team.absent : Team := { bind := {}, hdr := {} }

/-- The team of a key. -/
def teamOf (s : State) (tid : Nat) : Team := (mfind tid s.teams).getD Team.absent
/-- Replace a team. -/
def setTeam (s : State) (tid : Nat) (t : Team) : State := { s with teams := mput tid t s.teams }
/-- Change a team that exists. -/
def modTeam (s : State) (tid : Nat) (f : Team → Team) : State := { s with teams := mmod tid f s.teams }
/-- A group that does not exist. -/
def Group.absent : Group := { num := 0, role := .vector }
/-- The group of a number. -/
def Team.group (t : Team) (g : Nat) : Group := (mfind g t.groups).getD Group.absent
/-- Change a group of a team. -/
def modGroup (s : State) (tid g : Nat) (f : Group → Group) : State :=
  modTeam s tid fun t => { t with groups := mmod g f t.groups }

/-- Per-core state. -/
def coreOf (s : State) (c : Nat) : CoreSt := mget {} c s.cores
/-- Change per-core state. -/
def modCore (s : State) (c : Nat) (f : CoreSt → CoreSt) : State := { s with cores := mset {} c (f (coreOf s c)) s.cores }

/-! ## Requesters and places -/

/-- Who makes an access: a team, or an engine acting for it. -/
structure Who where
  team : Nat
  core : Nat
  cid : Nat
  icn : Nat
  master : Master
  /-- the group whose access it is, where its own surface operations come before it (R283) -/
  group : Option Nat := none
  /-- the threads that make it, by their keys (R197, R203) -/
  threads : List Nat := []
deriving DecidableEq, Repr

/-- A team's groups as requesters: master class 0 (Table 2.8). -/
def whoCore (s : State) (tid : Nat) : Who :=
  let t := teamOf s tid
  { team := tid, core := t.core, cid := t.bind.cid, icn := t.bind.icn, master := { cls := 0, idx := t.core } }

/-- An engine of the team's core as requester, by its master class. -/
def whoEngine (s : State) (tid cls : Nat) : Who := { whoCore s tid with master := { cls := cls, idx := (teamOf s tid).core } }

/-- The kinds of access that checks tell apart. -/
inductive Kind
  | read | write | atomic | fetch
deriving DecidableEq, Repr

/-- KIND of a fault notice (Table 12.4). -/
def Kind.code : Kind → Nat
  | .read => 1 | .write => 2 | .fetch => 4 | .atomic => 8

/-- The access-table kind of a request (R56). -/
def Kind.access : Kind → Access
  | .read => .read | .fetch => .read | .write => .write | .atomic => .atomic

/-- The failure of a translation, as a notice carries it: malformed, and the level. -/
structure TrFail where
  mal : Bool
  lvl : Nat
deriving DecidableEq, Repr

/-- The outcome of the checks of R207. -/
inductive Check
  | ok (p : Place)
  /-- a failed check: its code, and the translation failure when it is one (R222) -/
  | bad (code : Nat) (tr : Option TrFail)
  /-- the access waits -/
  | wait (w : Wait)
deriving DecidableEq, Repr

/-! ## The local window -/

/-- Does an address lie in the local window (R176)? -/
def isLocal (va : Nat) : Bool := bits va 55 52 == 0xF

/-- The team a local address names: its own, or the one whose SAVE it carries (R177). -/
def localTeam (s : State) (tid va : Nat) : Option Nat :=
  let t := bits va 49 20
  if t = 0 then some tid else if (mfind t s.teams).isSome then some t else none

/-- The checks of R179 on a local-window access, then alignment. -/
def checkLocal (s : State) (tid cid icn va w : Nat) (align : Bool) : Check :=
  if bits va 51 50 != 0 then .bad 0xA none
  else
    match localTeam s tid va with
    | none => .bad 0xA none
    | some k =>
      let t := teamOf s k
      if bits va 49 20 != 0 && (t.bind.cid != cid || t.bind.icn != icn || t.loc == .unbound || t.loc == .ended || t.paired)
      then .bad 0xA none
      else if t.hdr.scratchBytes < bits va 19 0 + w then .bad 0xA none
      else if align && va % w != 0 then .bad 4 none
      else if bits va 49 20 != 0 && (t.loc == .saving || t.loc == .restoring) then .wait (.locator k)
      else .ok (.scratch k (bits va 19 0))

/-- Bytes of a save area with its spawn memory (Table 19.6). -/
def Hdr.saveBytes (h : Hdr) : Nat := 0x400000 + h.records * (12 + 4 * h.live)

/-- The base of a team's save area; copy 1's lies behind copy 0's (R353). -/
def saveBase (b : Bind) (h : Hdr) (copy1 : Bool) : Nat :=
  b.save * 2 ^ 22 + (if copy1 then roundUp h.saveBytes 0x400000 else 0)

/-- Where a byte of a saved team's scratch stands in its save area (Table 19.6). -/
def Team.scratchPa (t : Team) (off : Nat) : Nat := saveBase t.bind t.hdr t.copy1 + 0x190000 + off

/-- The number of a scratch line among those that may hold an error (R182). -/
def scratchLine (k off : Nat) : Nat := k * 8192 + off / 128
/-- The number of a line of a core's caches among those that may hold an error (R28). -/
def cacheLine (core pa : Nat) : Nat := 2 ^ 60 + core * 2 ^ 45 + pa / 128

/-- Does a scratch access meet an uncorrectable error? -/
def scratchFlawed (s : State) (k off w : Nat) : Bool :=
  s.flaws.any fun n => scratchLine k off ≤ n && n ≤ scratchLine k (off + w - 1)

/-- `n` scratch bytes of a team. -/
def scratchBytes (s : State) (k off n : Nat) : List Byte := (range' off n).map fun o => mget 0 o (teamOf s k).scratch

/-- Bytes written into a byte map from an offset on. -/
def putBytes : Map Byte → Nat → List Byte → Map Byte
  | m, _, [] => m
  | m, off, b :: bs => putBytes (mset 0 off b m) (off + 1) bs

/-- Write scratch bytes of a team. -/
def setScratch (s : State) (k off : Nat) (bs : List Byte) : State :=
  modTeam s k fun t => { t with scratch := putBytes t.scratch off bs }

/-! ## Stash windows -/

/-- The live window of a team that holds an address. -/
def Team.windowAt (t : Team) (va : Nat) : Option Window :=
  (t.windows.find? fun e => e.2.base ≤ va && va < e.2.base + e.2.len).map Prod.snd

/-- Are the stash words that the bytes touch valid? -/
def Team.stashValid (t : Team) (off n : Nat) : Bool := (range' off n).all fun o => t.valid.contains (o / 4)

/-- `n` stash bytes of a team. -/
def Team.stashBytesAt (t : Team) (off n : Nat) : List Byte := (range' off n).map fun o => mget 0 o t.stash

/-- A write-back store: its bytes become dirty, and a word whose four bytes are dirty or filled is valid (R184). -/
def Team.stashStore (t : Team) (off : Nat) (bs : List Byte) : Team :=
  let dirty := (range' off bs.length).foldl (fun d o => insertNat o d) t.dirty
  let words := (range' off bs.length).map (· / 4)
  let valid := words.foldl (fun v w =>
    if t.valid.contains w || (range' (4 * w) 4).all dirty.contains then insertNat w v else v) t.valid
  { t with stash := putBytes t.stash off bs, dirty := dirty, valid := valid }

/-- A merging fill of the 128-byte line at `off`: invalid words take the line's bytes, but not over dirty bytes, and
the stash shares the physical line that a fill from normal memory comes from (R184, R185). -/
def Team.stashFillLine (t : Team) (off : Nat) (from_ : Option StashLine) (line : List Byte) : Team :=
  let base := off / 128 * 128
  let stash := (List.range 128).foldl (fun m i =>
    let o := base + i
    if t.valid.contains (o / 4) || t.dirty.contains o then m else mset 0 o (line.getD i 0) m) t.stash
  { t with
    stash := stash
    valid := (range' (base / 4) 32).foldl (fun v w => insertNat w v) t.valid
    stashPa := match from_ with
      | some l => mput (base / 128) l t.stashPa
      | none => merase (base / 128) t.stashPa }

/-! ## The checks of R207 -/

/-- Does a leaf give the permission an access needs (R216)? -/
def permits (pte : Nat) : Kind → Bool
  | .read => pteR pte
  | .write => pteW pte
  | .atomic => pteR pte && pteW pte
  | .fetch => pteX pte

/-- Does a leaf name a page in registration mode (Table 12.2)? -/
def pteCoh (pte : Nat) : Bool := bitB pte 8

/-- The state of the route to a device (R366): 0 no Active or Recovery port, 1 an Active one, 2 Recovery only. -/
def routeState (s : State) (dev : Nat) : Nat :=
  let ps := (List.range 18).filter fun p => bitB (mget 0 dev s.ctl.route) p
  if ps.any fun p => (mget {} p s.ports).st == 1 then 1
  else if ps.any fun p => (mget {} p s.ports).st == 2 then 2 else 0

/-- Has the requester's group a surface operation on its way to any of the bytes (R283)? -/
def surfPending (s : State) (who : Who) (sid off w : Nat) : Bool :=
  match who.group with
  | none => false
  | some g =>
    s.sfops.any fun o => o.2.team == who.team && o.2.group == g && o.2.lanes.any fun l =>
      let a := surfOffset s who.cid l.sid l.x l.y l.layer l.smp
      l.sid == sid && !l.done && decide (a < off + w && off < a + formatBytes (sfField s who.cid sid 0x0F 1))

/-- The master of a requester's surface table reads: its core, else itself (R387). -/
def Who.table (who : Who) : Master := if who.core < Config.cores then coreMaster who.core else who.master

/-- The place a leaf of TYPE surface names (R277); a touch for which no room can be had fails (R280). -/
def surfacePlace (s : State) (who : Who) (pte level va w : Nat) : Check :=
  let cid := who.cid
  let pa := leafPa pte level va
  let sid := bits pa 51 42
  let off := bits pa 41 0
  match sfReadCode s who.table cid sid with
  | 0 =>
    if !sfLive s cid sid || sfField s cid sid 0x20 8 < off + w then .bad 0xB none
    else if touchTile s cid sid (tileAt s cid sid off) == .fail then .bad 0xB none
    else .ok (.surface sid off)
  | c => .bad c none

/-- The ports that a device's traffic may take now (R366). -/
def livePorts (s : State) (dev : Nat) : List Nat :=
  (List.range 18).filter fun p => bitB (mget 0 dev s.ctl.route) p && (mget {} p s.ports).st == 1

/-- What keeps an access from its place: targets that drop it (R46), a tile whose skimmer is turned away, a frozen bus
(R323), its group's own operations before it (R283), or a link in Recovery (R368). -/
def placeWait (s : State) (who : Who) (w : Nat) : Place → Option Wait
  | .normal pa => if wayDrops s who.master pa who.cid who.icn then some (.quiet who.cid) else none
  | .surface sid off =>
    let tile := tileAt s who.cid sid off
    match bankOf s who.cid sid tile with
    | none => none
    | some b =>
      if turnedAway s (2048 + 1024 * b.1 + b.2 / 8) who.cid who.icn then some (.quiet who.cid)
      else if busFrozen s who.core || (dieOf s b.1).vbusFrozen || (bringTile s who.cid sid tile 65).2 == stalled then some .room
      else if surfPending s who sid off w then some .footing else none
  | .scratch k _ =>
    if k != who.team && ((teamOf s k).loc == .saving || (teamOf s k).loc == .restoring) then some (.locator k) else none
  | .remote dev _ =>
    if routeState s dev == 2 then some .room
    else if (livePorts s dev).any fun p => turnedAway s (96 + p) who.cid who.icn then some (.quiet who.cid) else none
  | _ => none

/-- Steps 3 to 5 of R207: translation, permission and memory type, giving the place or the failure. -/
def globalPlace (s : State) (who : Who) (va w : Nat) (k : Kind) : Check :=
  match lookup s who.core who.master who.cid va with
  | .fail c mal l => .bad c (some { mal := mal, lvl := l })
  | .page pte level =>
    if !permits pte k then .bad 2 (some { mal := false, lvl := 0 })
    else
      match pteType pte with
      | 0 => .ok (.normal (leafPa pte level va))
      | 1 => if k == .atomic then .bad 2 (some { mal := false, lvl := 0 }) else .ok (.device (leafPa pte level va))
      | 2 =>
        if k == .atomic || k == .fetch then .bad 2 (some { mal := false, lvl := 0 })
        else surfacePlace s who pte level va w
      | _ =>
        if pteDev pte == s.ctl.devno then .bad 2 none
        else if routeState s (pteDev pte) == 0 then .bad 0x13 none
        else .ok (.remote (pteDev pte) (leafPa pte level va))

/-- The same, where the access may have to wait for its place. -/
def checkGlobal (s : State) (who : Who) (va w : Nat) (k : Kind) : Check :=
  match globalPlace s who va w k with
  | .ok p =>
    match placeWait s who w p with
    | some q => .wait q
    | none => .ok p
  | c => c

/-- Is the page of an address in registration mode (R195)? -/
def cohAt (s : State) (who : Who) (va : Nat) : Bool :=
  match lookup s who.core who.master who.cid va with
  | .page pte _ => pteCoh pte
  | _ => false

/-- The place of a check put into another. -/
def Check.within (c : Check) (f : Place → Place) : Check :=
  match c with
  | .ok p => .ok (f p)
  | _ => c

/-- An access through a live stash window (R184); a fill fetches the whole line. -/
def checkWindow (s : State) (who : Who) (t : Team) (win : Window) (va w : Nat) (k : Kind) : Check :=
  let off := win.soff + (va - win.base)
  match k with
  | .write =>
    if win.mode == 0 then .bad 2 none
    else if win.mode == 2 then .ok (.stash off)
    else (checkGlobal s who va w .write).within (.stashThrough off)
  | .atomic => (checkGlobal s who va w .atomic).within (.stashAtomic off va)
  | _ =>
    if t.stashValid off w then .ok (.stash off)
    else (checkGlobal s who (va / 128 * 128) 128 .read).within fun p => .stashFill off p (cohAt s who va)

/-- The checks of R207 on an access of a team, or of an engine acting for it, in their order. -/
def checkAccess (s : State) (who : Who) (va w : Nat) (k : Kind) : Check :=
  if isLocal va then checkLocal s who.team who.cid who.icn va w true
  else if va % w != 0 then .bad 4 none
  else
    match (teamOf s who.team).windowAt va with
    | some win => checkWindow s who (teamOf s who.team) win va w k
    | none => checkGlobal s who va w k

/-- A walk read or a surface table read that the access tables deny is logged at its target (R57, R216, R387). -/
def noteDenial (s : State) (who : Who) (va : Nat) (c : Check) : State :=
  match c with
  | .bad 3 (some _) => logWalk s (some (dieUnit who.core)) who.master who.cid va
  | .bad 3 none =>
    (match lookup s who.core who.master who.cid va with
      | .page pte l =>
        if pteType pte == 2 then hwDenied s who.table (sfEntry s who.cid (bits (leafPa pte l va) 51 42)) else s
      | .fail .. => logWalk s (some (dieUnit who.core)) who.master who.cid va)
  | _ => s

/-- A translation that an access used is held (R217); a permission or type failure drops the one it used (R219); a
denied walk is logged. -/
def noteTranslation (s : State) (who : Who) (va : Nat) (c : Check) : State :=
  if isLocal va then s
  else
    match c with
    | .ok (.scratch ..) => s
    | .ok (.stash ..) => s
    | .ok _ => (translate s who.core who.master who.cid va).1
    | .bad 2 (some _) => tlbDrop s who.core who.master who.cid va
    | c => noteDenial s who va c

/-! ## Performing -/

/-- What a read returns: its bytes, or the code that a target reports (R207). -/
inductive Got
  | bytes (bs : List Byte)
  | report (code : Nat)
deriving DecidableEq, Repr

/-- A request of a core to normal memory, allowed or denied; a denial is logged (R57). An address that no home agent
serves is denied (log 7). -/
def askTargets (s : State) (who : Who) (pa : Nat) (k : Access) : State × Bool :=
  if inHbm pa && lineAllows s who.master who.cid pa k then (s, true) else (logDenial s who.master who.cid pa k, false)

/-- The brick unit that a byte of a surface lies behind, by its number of Table 20.16: the first one while no bank of its set is
live. -/
def brickOf (s : State) (cid sid off : Nat) : Nat :=
  match bankOf s cid sid (tileAt s cid sid off) with
  | some b => 2048 + 1024 * b.1 + b.2 / 8
  | none => 2048

/-- The targets that a request to a surface or to a peer meets on this device, and the physical address they check: the
brick unit, with the address in the surface's pages (R277), or the port that the request takes (R56). -/
def placeTargets (s : State) (who : Who) : Place → List Nat × Nat
  | .surface sid off => ([brickOf s who.cid sid off], sid * 2 ^ 42 + off)
  | .remote dev pa => ((livePorts s dev).map (96 + ·), pa)
  | _ => ([], 0)

/-- Such a request, allowed or denied; a denial is logged at a target that denied it (R56, R57). -/
def askPlace (s : State) (who : Who) (p : Place) (k : Access) : State × Bool :=
  let ts := placeTargets s who p
  let ok := fun (t : Nat) => targetAllows s t who.master who.cid ts.2 k
  if decided s.tick (2 ^ 54 + ts.2) (ts.1.map ok) then (s, true)
  else (logDenialAt s ((ts.1.find? fun t => !ok t).getD 0) who.master who.cid ts.2 k, false)

/-- What a fill of a line comes behind: the snoops on their way to the core for it, and the core's own write-backs to
it (R194, R195). -/
def settleLine (s : State) (core pa : Nat) : State :=
  landRequests (takeSnoops s fun n => !n.stash && n.who == core && n.pa == pa / 128 * 128) core fun r => r.2.pa / 128 == pa / 128

/-- Read `w` bytes of normal memory, within a line, as a core sees them. Bytes that the core's first-level cache holds
are a hit, which asks no target; otherwise the line's invalid words are filled from memory, but with .nl1 the line is
only read (R192, R207). -/
def readNormal (s : State) (who : Who) (pa w : Nat) (hint : Hint) : State × Got :=
  let bytes := fun (t : State) => (l1Seen t who.core pa w who.threads, Got.bytes ((range' pa w).map (coreByte t who.core)))
  if l1Holds s who.core pa w then bytes s
  else
    match askTargets s who pa .read with
    | (t, false) => (t, .report 3)
    | (t, true) =>
      if isMarked t pa then (t, .report 5)
      else
        let u := settleLine (touchSlice t pa ((mfind who.team t.teams).map Team.cls |>.getD 0) none) who.core pa
        if hint == .nl1 || who.core == noCore then bytes u
        else bytes (l1Fill u who.core who.cid who.icn (pa / 128 * 128) (physBytes u (pa / 128 * 128) 128))

/-- Read `w` bytes of a device page: performed once, with a value the spec does not give (log 8). -/
def readDevice (s : State) (pa w : Nat) : State × Got :=
  let bs := (List.range w).map fun i => Config.freeByte s.tick (16 * s.devLog.length + i)
  ({ s with devLog := s.devLog ++ [(pa, w, 0)] }, .bytes bs)

/-- The key of a byte of a peer device's memory. -/
def remoteKey (dev pa : Nat) : Nat := dev * 2 ^ 52 + pa

/-- Lines of a peer that hold a mark of this device (R229). -/
def peerMarked (s : State) (dev pa w : Nat) : Bool :=
  (range' pa w).any fun a => s.peerMarks.contains (dev * 2 ^ 45 + a / 128)

/-- The code with which a peer answers an access, 0 where it performs it (R207, log 3). -/
def peerCode (s : State) (dev pa w : Nat) (read : Bool) : Nat :=
  let c := Config.peerAnswer s.tick (remoteKey dev pa)
  if c == 3 then 3 else if read && (c == 5 || peerMarked s dev pa w) then 5 else 0

/-- Bytes of a peer's memory. -/
def peerBytes (s : State) (dev pa w : Nat) : List Byte := (range' pa w).map fun a => mget 0 (remoteKey dev a) s.remote

/-- The key under which a word of a peer's memory keeps its earlier values (R29). -/
def peerWord (dev pa : Nat) : Nat := remoteKey dev pa / 4 + 2 ^ 60

/-- Write bytes of a peer's memory; a whole line clears its mark. -/
def setPeer (s : State) (dev pa : Nat) (bs : List Byte) : State :=
  let s := (range' (pa / 4) ((pa + bs.length - 1) / 4 - pa / 4 + 1)).foldl
    (fun t w => keepWord t (peerWord dev (4 * w)) (BitVec.ofNat 32 (ofBytes (peerBytes s dev (4 * w) 4)))) s
  { s with
    remote := putBytes s.remote (remoteKey dev pa) bs
    peerMarks := if pa % 128 == 0 && bs.length == 128 then s.peerMarks.filter (· != dev * 2 ^ 45 + pa / 128) else s.peerMarks }

/-- The scratch of a team as an access meets it: of a saved team, the image in its save area, asked of memory as the
core's own request (R178, R387). -/
def readScratch (s : State) (who : Who) (k off w : Nat) : State × Got :=
  let t := teamOf s k
  if (mfind k s.teams).isNone then (s, .report 0xA)
  else if t.loc == .saved then
    match hwRead s who.master (t.scratchPa off) w with
    | some x => (s, if isMarked s (t.scratchPa off) then .report 5 else .bytes (toBytes w x))
    | none => (hwDenied s who.master (t.scratchPa off), .report 3)
  else (s, if scratchFlawed s k off w then .report 5 else .bytes (scratchBytes s k off w))

/-- Read at a checked place. -/
def readPlace (s : State) (who : Who) (p : Place) (w : Nat) (hint : Hint := .normal) : State × Got :=
  match p with
  | .scratch k off => readScratch s who k off w
  | .stash off => (s, .bytes ((teamOf s who.team).stashBytesAt off w))
  | .stashFill off p coh =>
    -- the line passes the first-level cache by: the stash is a sharer of its own (R185)
    match readPlace s who p 128 .nl1 with
    | (t, .report c) => (t, .report c)
    | (t, .bytes line) =>
      let from_ := match p with
        | .normal pa => some { pa := pa / 128 * 128, coh := coh }
        | _ => none
      let u := modTeam t who.team fun x => x.stashFillLine off from_ line
      (u, .bytes ((teamOf u who.team).stashBytesAt off w))
  | .stashThrough _ p => readPlace s who p w hint
  | .stashAtomic _ _ p => readPlace s who p w hint
  | .normal pa => readNormal s who pa w hint
  | .device pa => readDevice s pa w
  | .surface sid off =>
    let q := askPlace s who p .read
    if !q.2 then (q.1, .report 3)
    else
    match bringTile s who.cid sid (tileAt s who.cid sid off) 65 with
    | (t, 0) =>
      if surfPoisoned t who.cid sid off w then (t, .report 5)
      else (noteTouch t who.cid sid (tileAt t who.cid sid off) false,
        .bytes ((range' off w).map (surfByte t who.cid sid)))
    | (t, c) => (t, .report c)
  | .remote dev pa =>
    let q := askPlace s who p .read
    if !q.2 then (q.1, .report 3)
    else
    match peerCode s dev pa w true with
    | 0 => (s, .bytes (peerBytes s dev pa w))
    | c => (s, .report c)

/-- Store bytes in normal memory: into the core's first-level cache, dirty, or past it with .nl1 (R192). -/
def storeNormal (s : State) (who : Who) (pa : Nat) (bs : List Byte) (hint : Hint) : State :=
  if hint == .nl1 || who.core == noCore then writePast s who.core noTeam who.cid who.icn pa bs
  else l1Store s who.core who.cid who.icn pa (who.group.map fun g => (who.team, g)) who.threads bs

/-- Write scratch of a team as an access meets it; a saved team's image in memory too (R178). -/
def writeScratch (s : State) (who : Who) (k off : Nat) (bs : List Byte) : State × Nat :=
  let t := teamOf s k
  if (mfind k s.teams).isNone then (s, 0xA)
  else if t.loc == .saved then
    match hwWrite s who.master (t.scratchPa off) bs with
    | (u, true) => (setScratch u k off bs, 0)
    | (u, false) => (u, 3)
  else (setScratch s k off bs, 0)

/-- Write at a checked place. The number is the code that a target reports, 0 for none (R57, R207). -/
def writePlace (s : State) (who : Who) (p : Place) (bs : List Byte) (hint : Hint) : State × Nat :=
  match p with
  | .scratch k off => writeScratch s who k off bs
  | .stash off => (modTeam s who.team fun t => t.stashStore off bs, 0)
  | .stashFill _ p _ => writePlace s who p bs hint
  | .stashAtomic _ _ p => writePlace s who p bs hint
  | .stashThrough off p =>
    match writePlace s who p bs hint with
    | (t, 0) => (modTeam t who.team fun x => { x with stash := putBytes x.stash off bs }, 0)
    | r => r
  | .normal pa =>
    match askTargets s who pa .write with
    | (t, false) => (t, 3)
    | (t, true) => (storeNormal t who pa bs hint, 0)
  | .device pa => ({ s with devLog := s.devLog ++ [(pa, bs.length, 1 + 2 * ofBytes bs)] }, 0)
  | .surface sid off =>
    let q := askPlace s who p .write
    if !q.2 then (q.1, 3)
    else
    match bringTile s who.cid sid (tileAt s who.cid sid off) 65 with
    | (t, 0) => (noteTouch (writeSurf t who.cid who.icn sid off bs) who.cid sid (tileAt t who.cid sid off) true, 0)
    | r => r
  | .remote dev pa =>
    let q := askPlace s who p .write
    if !q.2 then (q.1, 3)
    else
    match peerCode s dev pa bs.length false with
    | 0 =>
      let s1 := match who.group with
        | some g => { s with peerWrites :=
            s.peerWrites ++ [{ team := who.team, group := g, dev := dev, pa := pa, old := peerBytes s dev pa bs.length }] }
        | none => s
      (setPeer s1 dev pa bs, 0)
    | c => (s, c)

/-! ## Stash write-back (R186, R187) -/

/-- The dirty lines of a team's write-back windows in increasing address, as address and stash line. -/
def Team.dirtyLines (t : Team) (pick : Nat → Bool) : List (Nat × Nat) :=
  let ls := t.windows.flatMap fun e =>
    if pick e.1 && e.2.mode == 2 then
      (List.range (e.2.len / 128)).filterMap fun i =>
        let l := e.2.soff / 128 + i
        if t.dirty.any fun o => o / 128 == l then some (e.2.base + 128 * i, l) else none
    else []
  sortByKey ls

/-- A failed write-back: code, address, and the translation failure; or what it waits for. -/
structure WbFail where
  code : Nat
  va : Nat
  tr : Option TrFail
  wait : Option Wait := none
deriving DecidableEq, Repr

/-- The offsets of the dirty bytes of a stash line, within the team's stash. -/
def Team.dirtyAt (t : Team) (line : Nat) : List Nat := t.dirty.filter fun o => o / 128 == line

/-- The place a byte of a line lies at, from the line's. -/
def Place.shift (p : Place) (n : Nat) : Place :=
  match p with
  | .scratch k off => .scratch k (off + n)
  | .stash off => .stash (off + n)
  | .stashFill off line coh => .stashFill (off + n) line coh
  | .stashThrough off q => .stashThrough (off + n) (q.shift n)
  | .stashAtomic off va q => .stashAtomic (off + n) va (q.shift n)
  | .normal pa => .normal (pa + n)
  | .device pa => .device (pa + n)
  | .surface sid off => .surface sid (off + n)
  | .remote dev pa => .remote dev (pa + n)

/-- What tells the bytes at places apart, whatever addresses name them. -/
def Place.byteKey : Place → Nat × Nat × Nat
  | .scratch k off => (0, k, off)
  | .stash off => (1, 0, off)
  | .stashFill off _ _ => (1, 0, off)
  | .stashThrough _ q => q.byteKey
  | .stashAtomic _ _ q => q.byteKey
  | .normal pa => (2, 0, pa)
  | .device pa => (3, 0, pa)
  | .surface sid off => (4, sid, off)
  | .remote dev pa => (5, dev, pa)

/-- Write the dirty bytes of a stash line where the line lies: in normal memory as one access behind what the core's
first-level cache holds of the line (R195), elsewhere byte by byte. The number is the code that a target reports. -/
def putLine (s : State) (who : Who) (p : Place) (bs : List (Nat × Byte)) : State × Nat :=
  match p with
  | .normal pa =>
    match askTargets s who pa .write with
    | (t, false) => (t, 3)
    | (t, true) =>
      let base := pa / 128 * 128
      let u := bs.foldl (fun u b => l1Forget u who.core (base + b.1) 1) (flushLine t who.core base)
      (performAt (touchSlice u pa ((mfind who.team t.teams).map Team.cls |>.getD 0) (some (who.cid, who.icn)))
        who.core who.team who.cid who.icn base bs, 0)
  | _ => bs.foldl (fun acc b =>
      match writePlace acc.1 who (p.shift b.1) [b.2] .nl1 with
      | (t, c) => (t, if acc.2 == 0 then c else acc.2)) (s, 0)

/-- Write back one dirty line: translate with write permission, write only the dirty bytes, clear their dirty bits. From
then on the stash shares the line (R185, R186). -/
def writeBackLine (s : State) (who : Who) (va line : Nat) : State × Option WbFail :=
  let t := teamOf s who.team
  let offs := t.dirtyAt line
  let low := va + offs.foldl (fun m o => min m (o % 128)) 127
  let c := checkGlobal s who va 128 .write
  let s1 := noteTranslation s who va c
  match c with
  | .ok p =>
    match putLine s1 who p (offs.map fun o => (o % 128, mget 0 o t.stash)) with
    | (u, 0) =>
      (modTeam u who.team fun x =>
        { x with
          dirty := x.dirty.filter fun o => o / 128 != line
          stashPa := match p with
            | .normal pa => if (mfind line x.stashPa).isSome then x.stashPa
              else mput line { pa := pa / 128 * 128, coh := cohAt s who va } x.stashPa
            | _ => x.stashPa }, none)
    | (u, code) => (u, some { code := code, va := low, tr := none })
  | .bad code tr => (s1, some { code := code, va := low, tr := tr })
  | .wait w => (s, some { code := 0, va := low, tr := none, wait := some w })

/-- Does the write-back of a line fail its translation or permission, or wait (R187)? -/
def lineFails (s : State) (who : Who) (va : Nat) : Bool :=
  match checkGlobal s who va 128 .write with
  | .ok (.normal pa) => !(inHbm pa && lineAllows s who.master who.cid pa .write)
  | .ok _ => false
  | _ => true

/-- Some of a list, which the spec leaves open, and all of it where that would be none. -/
def someOf (tick salt : Nat) (l : List Nat) : List Nat :=
  match l with
  | [] => []
  | [x] => [x]
  | _ =>
    let m := l.filter fun i => Config.freeBool tick (salt + i)
    if m.isEmpty then l else m

/-- A list in an order that the spec does not promise. -/
def shuffle (tick : Nat) : Nat → List α → List α
  | 0, l => l
  | n + 1, l =>
    match l with
    | [] => []
    | [x] => [x]
    | _ =>
      let i := Config.freeNat tick (2 ^ 50 + n) % l.length
      match l.drop i with
      | [] => l
      | x :: rest => x :: shuffle tick n (l.take i ++ rest)

/-- Write back dirty lines: where none fails, all of them; else the failing ones stay and each other line is or is not
written back. The failure at the lowest address is named (R187). -/
def writeBackLines (who : Who) (fails : Bool) : State → List (Nat × Nat) → Option WbFail → State × Option WbFail
  | s, [], f => (s, f)
  | s, (va, l) :: ls, f =>
    if fails && !lineFails s who va && Config.freeBool s.tick (2 ^ 62 + va) then writeBackLines who fails s ls f
    else
      match writeBackLine s who va l with
      | (t, none) => writeBackLines who fails t ls f
      | (t, some e) =>
        writeBackLines who fails t ls (match f with
          | none => some e
          | some x => if e.va < x.va then some e else some x)

/-- Write back the dirty bytes of the windows picked. -/
def writeBack (s : State) (who : Who) (pick : Nat → Bool) : State × Option WbFail :=
  let ls := (teamOf s who.team).dirtyLines pick
  writeBackLines who (ls.any fun l => lineFails s who l.1) s (shuffle s.tick ls.length ls) none

/-! ## Orders -/

/-- Is the scope core or wider (R186)? -/
def scopeAtLeastCore : Scope → Bool
  | .grp => false | .team => false | _ => true

/-- Snoops on their way to a core's first-level cache and to a team's stash. -/
def Snoop.to (n : Snoop) (core team : Nat) : Bool := if n.stash then n.who == team else n.who == core

/-- What an acquire does at core scope or wider: the snoops on their way arrive, the clean bytes of the first-level cache
go, and so do the clean words of stash lines in registration mode; nothing stale is left to read (R195, R204). -/
def acquire (s : State) (who : Who) (sc : Scope) : State :=
  if scopeAtLeastCore sc then
    let s1 := takeSnoops s fun n => n.to who.core who.team
    dropClean (modTeam s1 who.team fun t => t.loseLines fun l => l.2.coh) who.core
  else s

/-- What a release does once its stash write-back is done: at core scope or wider every earlier write of its threads is
performed; at a narrower one it is left to a wider release of the team (R201, R203, R204). -/
def release (s : State) (who : Who) (sc : Scope) : State :=
  if scopeAtLeastCore sc then flushFor s who.core who.team who.threads else publish s who.core who.team who.threads

end Sys2Proof.Machine
end

