-- ==== Sys2Proof/Machine/Ops.lean ====
section
/-!
DEFINITION. What every instruction shares: the checks between decoding and the operation (01_encoding.md R16 to R25,
07_launch.md R125), handles (08_issue.md R160, R161), TAKING A FAULT as one operation with its records,
continuations and swap-outs (19_faults.md R333 to R339), the consumption of memory poison (R350 to R357), the start
of a kill (02_contexts.md R52), and the end of an issue.
-/

namespace Sys2Proof.Machine

open Sys2Proof

/-- The outcome of a meaning. -/
abbrev Out := Host.Outcome State Fault Refusal

/-! ## The issuing path -/

/-- The path that issues an instruction, and what it works with. -/
structure Run where
  s : State
  tid : Nat
  gnum : Nat
  path : Nat
  t : Team
  g : Group
  pc : Nat
  len : Nat
  /-- the lanes of the path -/
  lanes : List Nat
  /-- Active(): the lanes that pass the guard too -/
  act : List Nat
deriving DecidableEq, Repr

/-- The path that the step has chosen, if it exists; its group with what the path sees of other paths' registers. -/
def runOf (s : State) : Option Run :=
  match s.at_ with
  | none => none
  | some a =>
    match mfind a.team s.teams with
    | none => none
    | some t =>
      match mfind a.group t.groups with
      | none => none
      | some g =>
        match g.pathLanes a.path with
        | [] => none
        | l :: ls =>
          some { s := s, tid := a.team, gnum := a.group, path := a.path, t := t, g := g.viewFor s.tick (l :: ls)
                 pc := (g.thread l).pc
                 len := a.len, lanes := l :: ls, act := l :: ls }

/-- The requester of the path's own accesses. -/
def Run.who (r : Run) : Who :=
  { team := r.tid, core := r.t.core, cid := r.t.bind.cid, icn := r.t.bind.icn, master := { cls := 0, idx := r.t.core },
    group := some r.gnum, threads := r.act.map (threadKey r.tid r.gnum) }

/-- The requester of the access of one lane (R197). -/
def Run.whoLane (r : Run) (l : Nat) : Who := { r.who with threads := [threadKey r.tid r.gnum l] }

/-- Put the path's group back into a state. -/
def Run.put (r : Run) (s : State) (g : Group) : State := modGroup s r.tid r.gnum fun _ => g

/-- The path's group as a state holds it now. -/
def Run.groupIn (r : Run) (s : State) : Group := (teamOf s r.tid).group r.gnum

/-- The path passes its instruction: the issue is counted, its threads go on (R155), and the hold and merge rule is
applied (R146). -/
def Run.doneIn (r : Run) (s : State) (g : Group) : State :=
  r.put s (((((g.countIssue r.path).setWait r.path .none).pass r.path r.lanes r.pc r.len).settle).notePast (r.groupIn r.s) r.lanes)

/-- The path passes its instruction having changed only its group. -/
def Run.done (r : Run) (g : Group) : State := r.doneIn r.s g

/-- The path passes its instruction having changed the state beside its group. -/
def Run.doneWith (r : Run) (s : State) : State := r.doneIn s (r.groupIn s)

/-- The path sends its threads to addresses (R144, R150 to R152). A thread that takes a transfer leaves the loops that
do not hold its target where `leave` says so (R156). -/
def Run.goTo (r : Run) (s : State) (g : Group) (dest : List (Nat × Nat)) : State :=
  r.put s ((((g.countIssue r.path).setWait r.path .none).send r.path dest).settle.notePast (r.groupIn r.s) r.lanes)

/-- The path stays at its instruction having changed its group. -/
def Run.keep (r : Run) (s : State) (g : Group) : State := r.put s (g.notePast (r.groupIn r.s) r.lanes)

/-- The path waits, and its instruction issues again later. -/
def Run.waitIn (r : Run) (s : State) (w : Wait) : State := r.put s ((r.groupIn s).setWait r.path w)

/-! ## Handles (R160 to R163) -/

/-- A handle value (Table 8.3). -/
def handleVal (kind entry seq : Nat) : Nat := kind * 2 ^ 60 + entry * 2 ^ 32 + seq

/-- Has the operation of an entry completed? -/
def HandleEnt.complete (e : HandleEnt) : Bool := e.status != 0x80

/-- The free entry to take: one never used, the lowest first; else the one completed longest ago (R160). -/
def Team.freeHandle (t : Team) : Option Nat :=
  match (List.range 64).find? fun i => (mfind i t.handles).isNone with
  | some i => some i
  | none =>
    let free := t.handles.filter fun e => e.2.complete && e.2.status != 1
    match free with
    | [] => none
    | e :: l => some ((l.foldl (fun a b => if b.2.doneAt < a.2.doneAt then b else a) e).1)

/-- Take an entry for a new operation: the entry, its sequence number and the team (R160). -/
def Team.takeHandle (t : Team) (kind : Nat) : Option (Nat × Nat × Team) :=
  match t.freeHandle with
  | none => none
  | some i =>
    let q := (t.hseq + 1) % 2 ^ 32
    some (i, q, { t with hseq := q, handles := mput i { kind := kind, seq := q } t.handles })

/-- The operation of an entry completes with a status and code (Table 8.4). -/
def Team.completeHandle (t : Team) (entry seq status code : Nat) : Team :=
  { t with
    hdone := t.hdone + 1
    handles := mmod entry (fun e =>
      if e.seq == seq then { e with status := status, code := code, doneAt := t.hdone + 1 } else e) t.handles }

/-- The entry of a pending s-register whose operation has not completed (R161). -/
def Run.pendingOn (r : Run) (n : Nat) : Option (Nat × Nat) :=
  if r.g.pend.contains n then
    let h := r.g.sVal n
    match mfind (bits h 37 32) r.t.handles with
    | some e => if e.seq == h % 2 ^ 32 && !e.complete then some (bits h 37 32, e.seq) else none
    | none => none
  else none

/-! ## Interrupts and records -/

/-- Send an MSI-X vector (R365). -/
def sendIrq (s : State) (vec : Nat) : State := { s with irqs := s.irqs ++ [vec] }

/-- The bytes of a fault record (Table 19.2). Its HELD bit stands for a fault that is held and not redirected
(DEDUCED, log 21). -/
def FaultRec.bytes (f : FaultRec) : List Byte :=
  toBytes 8 f.seq ++ toBytes 1 f.code ++
  toBytes 1 (b2n f.deferred + 2 * b2n f.cont + 4 * b2n f.held + 8 * b2n f.queued + 16 * b2n f.unrec +
    32 * b2n f.terminal + 64 * b2n f.teamend + 128 * b2n f.copy1) ++
  toBytes 1 f.group ++ toBytes 1 f.trapno ++ toBytes 2 f.cid ++ toBytes 1 f.icn ++ toBytes 1 f.core ++
  toBytes 8 f.pc ++ toBytes 8 f.addr ++ toBytes 4 f.token.toNat ++ toBytes 4 f.recN.toNat ++ toBytes 4 f.mask ++
  toBytes 4 f.save ++ toBytes 8 f.arg.toNat ++ toBytes 8 0

/-- Add a fault record to its context's area and to the RECORDS count of the queue that announces it; a full area
counts it in LOST instead (R334). -/
def addRecord (s : State) (f : FaultRec) : State × Nat :=
  let c := ctxOf s f.cid
  let base := c.faultBase
  let m := coreMaster f.core
  match hwRead s m base 8, hwRead s m (base + 8) 8 with
  | some tail, some head =>
    if (tail + 2 ^ 64 - head) % 2 ^ 64 = 256 then
      ((hwWrite s m (base + 16) (toBytes 8 (((hwRead s m (base + 16) 8).getD 0) + 1))).1, tail)
    else
      let s1 := (hwWrite s m (base + 64 + 64 * (tail % 256)) ({ f with seq := tail }).bytes).1
      let s2 := (hwWrite s1 m base (toBytes 8 (tail + 1))).1
      let d := dieOf s2 (dieOfCore f.core)
      let q := if bitB c.flags 1 then d.hostq else d.pagerq
      let s3 := (hwWrite s2 m (q + 16) (toBytes 8 (((hwRead s2 m (q + 16) 8).getD 0) + 1))).1
      (if bitB c.flags 1 then sendIrq s3 (d.hostqvec % 2 ^ 11) else s3, tail)
  | _, _ => (logDenial s m 0 base .read, 0)

/-! ## Save areas (R178, R337, R347) -/

/-- The STATE codes of Table 10.2. -/
def Loc.code : Loc → Nat
  | .unbound => 0 | .resident => 1 | .saving => 2 | .saved => 3 | .restoring => 4 | .ended => 5

/-- The locator record of a team (Table 10.2). -/
def Team.locator (t : Team) (st : Loc) : Nat :=
  let here := if st == .resident then t.core * 2 ^ 24 + t.bind.scrBase * 2 ^ 16 else 0
  st.code + here + t.bind.cid * 2 ^ 38 + t.bind.icn * 2 ^ 48 + t.bind.ticket * 2 ^ 64 + t.hdr.scratchBytes * 2 ^ 96

/-- Dispatch writes the locator at each change of STATE (R178). -/
def writeLocator (s : State) (t : Team) (st : Loc) : State :=
  (hwWrite s (coreMaster t.core) (saveBase t.bind t.hdr t.copy1 + 0x10) (toBytes 16 (t.locator st))).1

/-- Is a fault under swap-out of the team unresolved: HELD of its save area (R337)? -/
def Team.held (t : Team) : Bool :=
  t.groups.any fun g => match g.2.swapped with
    | some f => f.action.isNone
    | none => false

/-- SFLAGS of a save area: IMAGE, HELD and RESOLVED (Table 19.6). -/
def Team.sflags (t : Team) : Nat :=
  let swapped := t.groups.any fun g => g.2.swapped.isSome
  b2n t.image + 2 * b2n t.held + 4 * b2n (swapped && !t.held)

/-- The fault held at offset 0x40 of a save area, with its resolution (Table 19.6). -/
def Team.heldRecord (t : Team) : Option FaultRec := t.groups.findSome? fun g => g.2.swapped

/-- After a resolution the hardware sets RESOLVED and clears HELD in the save area of a saved team (R337). -/
def refreshFlags (s : State) (t : Team) : State :=
  if !t.image then s
  else
    let base := saveBase t.bind t.hdr t.copy1
    let act := (t.heldRecord.bind FaultRec.action).getD 0
    let s1 := (hwWrite s (coreMaster t.core) (base + 0x7F) (toBytes 1 act)).1
    (hwWrite s1 (coreMaster t.core) (base + 6) (toBytes 2 t.sflags)).1

/-- Does a push wait in its core's vertical queue for NEXT (R296)? -/
def Push.waits (p : Push) (s : State) : Bool :=
  match (mfind p.ticket s.insts).bind Inst.draw with
  | some d => decide (d.next + 1024 ≤ p.ordinal)
  | none => false

/-- The image of a team is discarded: IMAGE and the other flags of its save area are 0 (R349). -/
def dropImage (s : State) (t : Team) : State :=
  if t.image then (hwWrite s (coreMaster t.core) (saveBase t.bind t.hdr t.copy1 + 6) (toBytes 2 0)).1 else s

/-! ## Discarding a team, and the start of a kill -/

/-- The live collective group of a TAG in a context (R324). -/
def colGroupOf (s : State) (cid tag : Nat) : Option (Nat × ColGroup) :=
  s.colGroups.find? fun e => e.2.cid == cid && e.2.tag == tag

/-- Complete the handles of a collective's parts (R328): of each team and, in a paired team, of both copies. -/
def completeParts (s : State) (ps : Map ColPart) (status code : Nat) : State :=
  ps.foldl (fun t p => p.2.handles.foldl (fun u h =>
    modTeam u h.1 fun x => x.completeHandle h.2.1 h.2.2 status code) t) s

/-- A collective ends with a status: the ranks that have issued complete, and the others when they issue. -/
def endColl (s : State) (id : Nat) (c : Coll) (size status code : Nat) : State :=
  let s1 := completeParts s c.parts status code
  if size ≤ c.parts.length then { s1 with colls := merase id s1.colls }
  else { s1 with colls := mput id { c with ended := some (status, code) } s1.colls }

/-- A member leaves its group: every operation that has not completed fails at the other ranks, and the group ends with
its last member (R325). -/
def leaveGroup (s : State) (cg rank : Nat) : State :=
  match mfind cg s.colGroups with
  | none => s
  | some g =>
    let ms := merase rank g.members
    let s1 := (s.colls.filter fun e => e.2.cg == cg && e.2.ended.isNone).foldl (fun t e => endColl t e.1 e.2 g.size 3 0xC) s
    if ms.isEmpty then { s1 with colGroups := merase cg s1.colGroups, colls := s1.colls.filter fun e => e.2.cg != cg }
    else { s1 with colGroups := mput cg { g with members := ms, broken := true } s1.colGroups }

/-- A team leaves every group that its slots are members of. -/
def leaveGroups (s : State) (tid : Nat) : State :=
  s.colGroups.foldl (fun t e =>
    (e.2.members.filter fun m => m.2.1 == tid).foldl (fun u m => leaveGroup u e.1 m.1) t) s

/-- The responses that a discarded team still has on their way: each is discarded where it arrives and counted there, or
its request has been dropped and none comes (R46, R47). They come up through the vertical queue of its core, or over a
link port. -/
def orphanResponses (s : State) (tid core : Nat) : State :=
  let up := (s.texops.filter fun e => e.2.team == tid).length + (s.sfops.filter fun e => e.2.team == tid).length
  let over_ := (s.peerWrites.filter fun w => w.team == tid).flatMap fun w => (livePorts s w.dev).take 1
  let hit := fun (t : State) (p : Nat × Nat) =>
    if Config.freeBool s.tick (2 ^ 55 + 64 * tid + p.1) then countOrphan t p.2 else t
  ((List.replicate up (4096 + core) ++ over_.map (96 + ·)).mapIdx fun i p => (i, p)).foldl hit s

/-- Discard what a team holds in the engines and caches of the package (R52 step 2), its bind record and its image
(R349). -/
def dropTeam (s0 : State) (tid : Nat) : State :=
  let t := teamOf s0 tid
  let s := dropImage (writeLocator (orphanResponses (leaveGroups s0 tid) tid t.core) t .ended) t
  let slots := match t.slot with
    | some k => mset {} k {} s.slots
    | none => s.slots
  { s with
    teams := merase tid s.teams
    slots := slots
    l1 := s.l1.filter fun e => !(e.1 / 2 ^ 52 == t.core && e.2.dirty && e.2.cid == t.bind.cid && e.2.icn == t.bind.icn)
    reports := s.reports.filter fun e => e.2.team != tid
    peerWrites := s.peerWrites.filter fun w => w.team != tid
    copies := s.copies.filter fun e => e.2.team != tid
    mxops := s.mxops.filter fun e => e.2.team != tid
    pushes := s.pushes.filter fun e => e.2.team != tid
    texops := s.texops.filter fun e => e.2.team != tid
    sfops := s.sfops.filter fun e => e.2.team != tid
    evicts := s.evicts.filter fun e => e.2.team != tid
    snoops := s.snoops.filter fun e => !(e.2.stash && e.2.who == tid)
    cores := s.cores.map fun e =>
      (e.1, { e.2 with holder := if e.2.holder == some tid then none else e.2.holder
                       asking := e.2.asking.filter fun a => a.1 != tid }) }

/-- The lease of a team ends: its core's engine has no holder (R255). -/
def endLease (s : State) (tid : Nat) : State :=
  let core := (teamOf s tid).core
  let s1 := modTeam s tid fun t => { t with lease := none }
  modCore s1 core fun c => { c with holder := if c.holder == some tid then none else c.holder }

/-- Once the matrix thread has exited its lease ends (R255). -/
def endHolder (s : State) (tid gnum : Nat) : State :=
  let t := teamOf s tid
  if gnum == 32 && t.lease.isSome && (t.group 32).exited then endLease s tid else s

/-- Broadcast an incarnation of a CID to every target (R42, R52, R60): one message each. -/
def broadcast (s : State) (cid icn : Nat) (live : Bool) : State :=
  let us := allTargets.mapIdx fun i t => (s.nextId + i, ({ target := t, cid := cid, icn := icn, live := live } : Update))
  { s with updates := s.updates ++ us, nextId := s.nextId + allTargets.length }

/-- The operations under way on a CID. -/
def opsOf (s : State) (cid : Nat) : List CtxOp := mget [] cid s.ctxOps
/-- Add an operation on a CID. -/
def addOp (s : State) (cid : Nat) (o : CtxOp) : State := { s with ctxOps := mset [] cid (opsOf s cid ++ [o]) s.ctxOps }

/-- Clear every VALID bit of a context's identifier region, bit 15 of each two-byte state, and its entries in every
identifier cache (R237, R238, R252). -/
def clearIdentifiers (s : State) (cid : Nat) : State :=
  let base := s.ctl.tidbase + cid * 0x20000 + 0x10000
  { s with
    ids := s.ids.filter fun e => e.1 / 1024 % 1024 != cid
    mem := s.mem.filterMap fun e =>
      if base ≤ e.1 && e.1 < base + 2048 && (e.1 - base) % 2 == 1 then
        let b := e.2 &&& 0x7F#8
        if b == 0 then none else some (e.1, b)
      else some e }

/-- The end of a save that a pre-emption register asked for: GO clears and STATUS is set (R345, R349). -/
def endPreempt (s : State) (die : Option Nat) (status : Nat) : State :=
  match die with
  | none => s
  | some d => modDie s d fun x => { x with preempt := setBits (setBits x.preempt 31 31 0) 26 24 status }

/-- What a context holds outside its teams: queued nodes, instances with their sequencers, collectives (R52). -/
def dropContext (s : State) (cid : Nat) : State :=
  let mine := (s.insts.filter fun e => e.2.cid == cid).map Prod.fst
  let groups := (s.colGroups.filter fun e => e.2.cid == cid).map Prod.fst
  { s with
    notifs := s.notifs.filter fun e => e.2.cid != cid
    decs := s.decs.filter fun e => e.2.cid != cid
    queue := s.queue.filter fun e => e.2.cid != cid
    insts := s.insts.filter fun e => e.2.cid != cid
    pushes := s.pushes.filter fun e => !mine.contains e.2.ticket
    raster := s.raster.filter fun e => !mine.contains e.2.ticket
    closed := s.closed.filter fun e => !mine.contains e.2.ticket
    sfops := s.sfops.filter fun e => e.2.cid != cid
    evicts := s.evicts.filter fun e => e.2.cid != cid
    colls := s.colls.filter fun e => !groups.contains e.2.cg
    colGroups := s.colGroups.filter fun e => e.2.cid != cid }

/-- The start of a kill (R52 step 1): the incarnation advances and its broadcast starts; the operation waits for the
acknowledgements. -/
def startKill (s : State) (cid : Nat) (retire : Bool) (op : CtxOp) : State :=
  let c := ctxOf s cid
  let icn := (c.icn + 1) % 256
  addOp (broadcast (setCtx s cid { c with icn := icn, state := if retire then 3 else 2 }) cid icn false) cid { op with kind := 2 }

/-- Steps 2 to 4 of a kill, once every target has acknowledged (R52): issue stops and the teams of the CID are discarded,
with its queued nodes and instances, its translations, fault-queue entries, notices and walks, and the VALID bits of its
identifiers (R252). Nothing of the old incarnation outlives this (R55). -/
def killSteps (s : State) (cid : Nat) : State :=
  let mine := s.teams.filter fun e => e.2.bind.cid == cid
  let s1 := mine.foldl (fun t e => dropTeam (endPreempt t e.2.preempt 3) e.1) s
  let s2 := clearIdentifiers (dropContext s1 cid) cid
  { s2 with
    relaunches := s2.relaunches.filter fun e => e.2.1 != cid
    tlb := s2.tlb.filter fun e => e.cid != cid
    nonLeaf := s2.nonLeaf.filter fun e => e.cid != cid
    faultq := s2.faultq.filter fun e => e.cid != cid
    notices := s2.notices.filter fun e => e.2.cid != cid
    walks := s2.walks.filter fun e => e.2.cid != cid }

/-! ## Taking a fault -/

/-- What an instruction says of the fault it performs. -/
structure FaultIn where
  code : Nat
  addr : Nat := 0
  token : Word := 0
  trapno : Nat := 0
  arg : DWord := 0
  deferred : Bool := false
  /-- the failed translation, when a fault-queue entry is to be opened (R222) -/
  tr : Option TrFail := none
  kind : Kind := .read
  wb : Bool := false
  firstFetch : Bool := false
  /-- the recorded copy code had lost data (R350) -/
  lostData : Bool := false
deriving DecidableEq, Repr

/-- The codes that are UNREC from the start (R339). -/
def unrecFromStart (code : Nat) : Bool := code == 6 || code == 7 || code == 8 || code == 9 || code == 0x13

/-- The number of a role in tables of three. -/
def Role.num : Role → Nat
  | .copy => 0 | .vector => 1 | .matrix => 2

/-- Is the fault the consumption of an uncorrectable error (R350, R351)? -/
def FaultIn.consumes (f : FaultIn) : Bool :=
  (f.code == 5 && (!f.deferred || f.lostData)) || (f.code == 0x12 && tokenCode f.token == 5)

/-- The fault record of a path (Table 19.2). -/
def Run.record (r : Run) (f : FaultIn) (queued : Bool) : FaultRec :=
  { code := f.code, deferred := f.deferred, queued := queued, unrec := unrecFromStart f.code, copy1 := r.t.copy1
    group := r.gnum, trapno := f.trapno, cid := r.t.bind.cid, icn := r.t.bind.icn, core := r.t.core, pc := r.pc
    addr := f.addr, token := if f.code == 0x12 then f.token else 0, recN := r.g.recN, mask := maskOf r.lanes
    save := r.t.bind.save, arg := f.arg, firstFetch := f.firstFetch, len := r.len }

/-- Hold a fault under swap-out: the group keeps it, the path stands, and the team starts to be saved (R337). A fault
under consumption stands without a save (R350). -/
def Run.holdFault (r : Run) (s : State) (f : FaultRec) (swap : Bool) : State :=
  let s1 := if swap && (teamOf s r.tid).loc == .resident then writeLocator s (teamOf s r.tid) .saving else s
  modTeam s1 r.tid fun t =>
    { t with
      groups := mmod r.gnum (fun g =>
        { (g.setWait r.path .fault) with swapped := some { f with held := true } }) t.groups
      loc := if swap && t.loc == .resident then .saving else t.loc }

/-- The coordinates of the team of a bind record: pool, x, y, z (Table 7.6). -/
def Bind.coords (b : Bind) : Bool × Nat × Nat × Nat := (bitB b.tx 31, b.tx % 2 ^ 31, b.ty, b.tz)

/-- How often a team has been relaunched in its incarnation (R55, R357). -/
def relaunchCount (s : State) (b : Bind) : Nat :=
  match mfind b.save s.relaunches with
  | some (cid, icn, n) => if cid == b.cid && icn == b.icn then n else 0
  | none => 0

/-- The relaunch of a paired or contained team: its state is discarded, for both copies, and its record is TERMINAL;
placement may then bind the team again (R357). -/
def relaunch (s : State) (tid : Nat) (f : FaultRec) : State :=
  let t := teamOf s tid
  let s1 := (addRecord s { f with terminal := true }).1
  let s2 := dropTeam (if t.paired then dropTeam s1 (twinOf tid) else s1) tid
  { s2 with
    relaunches := mput t.bind.save (t.bind.cid, t.bind.icn, relaunchCount s t.bind + 1) s2.relaunches
    insts := mmod t.bind.ticket (fun i => { i with bound := i.bound.filter fun c => c != t.bind.coords }) s2.insts }

/-- The consumption of an uncorrectable error (R350): the context is killed, or a paired or contained team relaunched;
where the hardware makes no kill itself, the group takes a held fault marked UNREC, after one that it already holds under
swap-out (log 88). -/
def Run.consume (r : Run) (s : State) (f : FaultIn) (code : Nat) : State :=
  let rec_ := r.record f f.tr.isSome
  let rec1 := { rec_ with code := code }
  let c := ctxOf s r.t.bind.cid
  if (r.t.paired || r.t.contained) && relaunchCount s r.t.bind < 3 then relaunch s r.tid rec1
  else if r.t.bind.cid == 0 || bitB c.flags 2 || c.state != 1 then
    if (r.groupIn s).swapped.isSome then r.waitIn r.s .second
    else
      let held := { rec1 with unrec := true, held := true }
      let (s1, seq) := addRecord s held
      r.holdFault s1 { held with seq := seq } false
  else
    let (s1, _) := addRecord s { rec1 with terminal := true }
    startKill (r.waitIn s1 (.quiet r.t.bind.cid)) r.t.bind.cid false { kind := 2 }

/-- TAKING A FAULT (R333 to R337). The path stops at its instruction, which has written nothing. A failed translation
opens or joins a fault-queue entry, or stalls for one. The record is written; a registered continuation takes the
path if its group holds no other fault, and otherwise the fault is held and the team starts to be saved. A group holds one
fault under swap-out: a path that meets a second one stands not yet issued until the first is resolved (log 88). -/
def Run.faultIn (r : Run) (s : State) (f : FaultIn) : State :=
  if !f.consumes && (r.groupIn s).swapped.isSome then r.waitIn r.s .second
  else if f.tr.isSome && !faultRoom s r.t.core r.t.bind.cid f.addr then r.waitIn s .faultRoom
  else
    let s1 := match f.tr with
      | some e => openFault s r.t.core r.t.bind.cid r.t.bind.icn f.addr f.code f.kind.code e.lvl e.mal f.wb false
      | none => s
    if f.consumes then r.consume s1 f f.code
    else
    let rec0 := r.record f f.tr.isSome
    let g := r.groupIn s1
    match mfind g.role.num (teamOf s1 r.tid).conts with
    | some k =>
      if g.redirected.isNone && g.swapped.isNone then
        let rec1 := { rec0 with cont := true }
        let (s2, seq) := addRecord s1 rec1
        let g1 := { g with redirected := some { rec1 with seq := seq } }
        let g2 := g1.putS k.base (f.code + b2n rec1.queued * 0x100 + rec1.token.toNat * 2 ^ 32)
        let g3 := (g2.putS (k.base + 1) f.addr).putS (k.base + 2) r.pc
        r.put s2 (((g3.setWait r.path .none).send r.path (r.lanes.map fun l => (l, k.pc))).settle.notePast g r.lanes)
      else
        let (s2, seq) := addRecord s1 { rec0 with held := true }
        r.holdFault s2 { rec0 with seq := seq } true
    | none =>
      let (s2, seq) := addRecord s1 { rec0 with held := true }
      r.holdFault s2 { rec0 with seq := seq } true

/-- Fault(code) of R25. -/
def Run.fault (r : Run) (code : Nat) (addr : Nat := 0) : State := r.faultIn r.s { code := code, addr := addr }

/-- Raise(0x12) with the consumed token (R71, R333). -/
def Run.raise (r : Run) (tok : Word) : State := r.faultIn r.s { code := 0x12, token := tok }

/-! ## The checks before the operation -/

/-- Table 7.1: may a role issue an opcode? -/
def roleMay (role : Role) (dom : Bool) (op : Nat) : Bool :=
  if dom then
    if op ≤ 0x2E || (0x50 ≤ op && op ≤ 0x57) || (0x70 ≤ op && op ≤ 0x8A) then true
    else if 0x58 ≤ op && op ≤ 0x5D then role != .matrix
    else if 0x60 ≤ op && op ≤ 0x6A then role == .vector
    else if 0x90 ≤ op && op ≤ 0x99 then role == .matrix
    else if 0x9C ≤ op && op ≤ 0x9E then role != .vector
    else if 0xA0 ≤ op && op ≤ 0xA5 then role == .copy
    else role == .vector
  else
    if op ≤ 0x2F || (0x50 ≤ op && op ≤ 0x58) || 0x70 ≤ op then role != .matrix
    else if 0x59 ≤ op && op ≤ 0x5B then role == .copy
    else role == .vector

/-- The privileged opcodes (R22). -/
def privileged (dom : Bool) (op : Nat) : Bool := dom && 0xB0 ≤ op && op ≤ 0xB4

/-- The v-register budget of a role (R64). -/
def Team.vBudget (t : Team) : Role → Nat
  | .copy => t.hdr.copyRegs
  | .vector => t.hdr.vecRegs
  | .matrix => 0

/-- The s-register budget of a role (R64). -/
def Team.sBudget (t : Team) : Role → Nat
  | .matrix => t.hdr.matRegs
  | _ => 64

/-- Does a word name a register at or beyond the budget (R16, R64)? -/
def Team.beyond (t : Team) (role : Role) (ns : List Named) : Bool :=
  ns.any fun n => (if n.isS then t.sBudget role else t.vBudget role) < n.first + n.count

/-- The s-registers an instruction waits for when they are pending (R161): those B, C and E name. -/
def shapeSReads (h : Shape) (f : Fields) : List Nat :=
  ((h.b.named f.b.toNat ++
    (match h.ce with
      | .sep c e => c.named f.ck.toNat f.c.toNat ++ e.named f.ek.toNat f.e.toNat
      | .number => if f.ck == 1 then [⟨true, f.c.toNat, 1⟩] else [])).filter Named.isS).flatMap
    fun n => range' n.first n.count

/-- The outcome of the guard (R18, R19). -/
inductive Guarded
  | active (lanes : List Nat)
  | fails
  | poison (tok : Word)
deriving DecidableEq, Repr

/-- The guard of an instruction in the issuing path. -/
def Run.guarded (r : Run) (dom : Bool) (g : Option Guard) : Guarded :=
  match g with
  | none => .active r.lanes
  | some u =>
    if dom then
      match r.g.getQ u.idx.toNat with
      | .bad t => .poison t
      | .ok b => if b != u.neg then .active r.lanes else .fails
    else
      match r.lanes.find? fun l => (r.g.getP u.idx.toNat l).poisoned with
      | some l => .poison (((r.g.getP u.idx.toNat l).tok?).getD 0)
      | none => .active (r.lanes.filter fun l => r.g.getP u.idx.toNat l == .ok (!u.neg))

/-- The first pending s-register of a list that is not ready, as an entry and sequence number. -/
def Run.pendingAny (r : Run) (ns : List Nat) : Option (Nat × Nat) := ns.findSome? r.pendingOn

/-- A token to raise at the first read of a completed handle (R269), among the pending registers read. -/
def Run.raiseAny (r : Run) (ns : List Nat) : Option (Nat × Word × Nat) :=
  ns.findSome? fun n =>
    if r.g.pend.contains n then
      let h := r.g.sVal n
      match mfind (bits h 37 32) r.t.handles with
      | some e => if e.seq == h % 2 ^ 32 then e.raise.map fun x => (bits h 37 32, x.1, x.2) else none
      | none => none
    else none

/-- Raise the token of a failed mst at the first read of its handle; only that read raises (R269). -/
def Run.raiseMst (r : Run) (e : Nat × Word × Nat) : State :=
  let s := modTeam r.s r.tid fun t => { t with handles := mmod e.1 (fun h => { h with raise := none }) t.handles }
  r.faultIn s { code := 0x12, token := e.2.1, addr := e.2.2 }

/-- A group that has waited for the operation of a handle-table entry, where its tile writes may race (R263). -/
def Group.hasAwaited (g : Group) (races : List TileRace) (i sq : Nat) : Group :=
  if (races.any fun x => x.entry == i && x.seq == sq) && !g.awaited.contains (i, sq) then { g with awaited := (i, sq) :: g.awaited }
  else g

/-- The group once blocking reads of pending registers have been met (R161, R263). -/
def Run.awaits (r : Run) (ns : List Nat) : Group :=
  ns.foldl (fun g n =>
    let h := (r.g.readS n 64).val
    if bits h 63 60 == 1 then g.hasAwaited r.t.races (bits h 37 32) (h % 2 ^ 32) else g) r.g

/-- The marks of registers clear (R161). -/
def Group.withoutPend (g : Group) (ns : List Nat) : Group := { g with pend := g.pend.filter fun n => !ns.contains n }

/-- From decoding to the operation (R24, R25, R161): an ill-formed word, privilege, role, budget, the guard, pending
registers; then the operation `k` of the path, with Active() in its `act`. A guard that fails in a U-word lets the
path pass. `extra` are further s-registers the instruction reads, `exempt` those it reads without waiting. -/
def gate (i : Instr) (s : State) (k : Run → State) (extra : List Nat := []) (exempt : List Nat := []) : State :=
  match runOf s, i.fields with
  | some r, some f =>
    match rowOf f with
    | none => r.fault 6
    | some row =>
      if !i.wf then r.fault 6
      else if privileged f.dom f.op.toNat && r.t.bind.cid != 0 then r.fault 9
      else if !roleMay r.g.role f.dom f.op.toNat then r.fault 7
      else if r.t.beyond r.g.role ((row.shape f).named f) then r.fault 8
      else
        match r.guarded f.dom f.guard with
        | .poison t => r.raise t
        | .fails => r.done r.g
        | .active act =>
          let reads := ((shapeSReads (row.shape f) f) ++ extra).filter fun n => !exempt.contains n
          match r.pendingAny reads with
          | some e => r.waitIn r.s (.handle e.1 e.2)
          | none =>
            match r.raiseAny reads with
            | some e => r.raiseMst e
            | none =>
              k { r with act := act, g := (r.awaits (reads.filter r.g.pend.contains)).withoutPend reads }
  | _, _ => s

/-- Deliver a late result to the path that waits for it at its instruction of `len` bytes (R63). -/
def asPath (s : State) (team group path len : Nat) (k : Run → State) : State :=
  match runOf { s with at_ := some { team := team, group := group, path := path, len := len } } with
  | none => s
  | some r => { k r with at_ := s.at_ }

end Sys2Proof.Machine
end

