-- ==== Sys2Proof/Machine/Operands.lean ====
section
/-!
DEFINITION. The operand forms: what an instruction computes per lane or once and where it writes it
(03_registers.md R69, R70; 04_integer.md R80, R81), and the values of the special registers (R65 to R67).
-/

namespace Sys2Proof.Machine

open Sys2Proof

/-! ## Results -/

/-- Write `k` registers of every active lane; every source is read before any destination is written (R81). -/
def Run.putLanes (r : Run) (a k : Nat) (f : Nat → PV Nat) : Group := r.act.foldl (fun g l => g.writeV a l k (f l)) r.g

/-- Write a predicate of every active lane. -/
def Run.putPreds (r : Run) (a : Nat) (f : Nat → PV Bool) : Group := r.act.foldl (fun g l => g.setP a l (f l)) r.g

/-- An L-word that writes `k` registers per active lane. -/
def Run.lanesV (r : Run) (a k : Nat) (f : Nat → PV Nat) : State := r.done (r.putLanes a k f)

/-- An L-word that writes a predicate per active lane. -/
def Run.lanesP (r : Run) (a : Nat) (f : Nat → PV Bool) : State := r.done (r.putPreds a f)

/-- An L-word that writes an s-register once, and only if Active() is not empty (R70). -/
def Run.onceS (r : Run) (a : Nat) (x : PV Nat) : State := r.done (if r.act.isEmpty then r.g else r.g.writeS a x)

/-! ## Sources -/

/-- The B source of an L-word in a lane, at the width of the type. -/
def Run.srcB (r : Run) (b : BitVec 8) (ty : NumType) (l : Nat) : PV Nat := r.g.readV b.toNat l ty.regs

/-- A C or E source in a lane, at the width of the type (Table 1.4). -/
def Run.src (r : Run) (x : Src) (w l : Nat) : PV Nat := r.g.operand x w l

/-- The B source of a U-word at the width of the type (R80). -/
def Run.uB (r : Run) (b : BitVec 8) (w : Nat) : PV Nat := r.g.readS b.toNat w

/-- The signed types. -/
def signedTy : NumType → Bool
  | .i32 | .i64 | .i8 | .i16 => true
  | _ => false

/-- Val(x): two's complement for an i-type, unsigned for an n-type (04_integer.md). -/
def valOf (ty : NumType) (x : Nat) : Int := if signedTy ty then toSigned ty.bits x else ((x % 2 ^ ty.bits : Nat) : Int)

/-- A result of a U-word as 64 bits: sign-extended for i32, zero-extended for n32 (R80). -/
def extTy (ty : NumType) (x : Nat) : Nat := if ty == .i32 then signExt 32 64 x else x % 2 ^ ty.bits

/-- The truth of predicates combined in operand order: the first token, or the result. -/
def combineB (ops : List (PV Nat)) (f : List Nat → Bool) : PV Bool :=
  match firstTok ops with
  | some t => .bad t
  | none => .ok (f (ops.map PV.val))

/-- A predicate as an operand value. -/
def predVal (x : PV Bool) : PV Nat := x.map b2n

/-! ## Special registers (Table 3.2) -/

/-- The pixel registers of a lane, zero in a group that is not a pixel group. -/
def Group.pixelLane (g : Group) (l : Nat) : PixelLane :=
  match g.pixel with
  | none => {}
  | some p => p.lanes.getD l {}

/-- %progress (R258): the progress of the thread's last matrix operation; 0 outside the matrix role. -/
def Run.progress (r : Run) : Nat := r.g.progress.toNat

/-- The value of a special register for a lane of the issuing path (Table 3.2). Two points are choices (DESIGN CHOICE,
log 83): %group of the matrix thread reads 32, the number that R333 gives it for faults; and %ngroups of a pixel pool team
counts the slots that have ever held a pixel group, since R303 starts groups one by one. -/
def Run.special (r : Run) (n l : Nat) : Nat :=
  let px := r.g.pixelLane l
  match n with
  | 64 => l
  | 65 => maskOf r.lanes
  | 66 => r.gnum
  | 67 => (r.t.groups.filter fun e => !e.2.satellite && e.1 < 32).length
  | 68 => r.t.bind.tx % 2 ^ 31
  | 69 => r.t.bind.ty
  | 70 => r.t.bind.tz
  | 71 => r.t.gx
  | 72 => r.t.gy
  | 73 => r.t.gz
  | 74 => r.g.role.num
  | 75 => r.t.bind.cid
  | 76 => r.t.bind.icn
  | 77 => r.t.core
  | 78 => r.t.core / 4
  | 79 => r.t.core / 128
  | 80 => r.g.recN.toNat
  | 81 => r.g.fflags.toNat
  | 82 => r.g.gstat.toNat
  | 83 => (coreOf r.s r.t.core).clock
  | 84 => px.x.toNat
  | 85 => px.y.toNat
  | 86 => px.sample.toNat
  | 87 => px.cover.toNat
  | 88 => px.u.toNat
  | 89 => px.v.toNat
  | 90 => px.prim.toNat
  | 91 => r.progress
  | _ => 0

/-- A read of %clock is at least one clock after the last (R66); how many have passed is free (log 3). -/
def Run.tickClock (r : Run) (n : Nat) : Run :=
  if n == 83 then
    { r with s := modCore r.s r.t.core fun c =>
        { c with clock := (c.clock + 1 + Config.freeNat r.s.tick 83) % 2 ^ 64 } }
  else r

/-- swr: the RW fields of Table 3.3 and 3.4 take the value, the others keep theirs (R67). -/
def Group.writeSpecial (g : Group) (n x : Nat) : Group :=
  if n == 81 then { g with fflags := BitVec.ofNat 5 x }
  else if n == 82 then { g with gstat := BitVec.ofNat 32 (bits x 9 8 * 256 + bits x 1 0) }
  else g

end Sys2Proof.Machine
end

