-- ==== Sys2Proof/Machine/Flags.lean ====
section
/-!
DEFINITION. Floating-point formats, exact values, the one rounding, and the sticky flags
(05_formats.md R90 to R103, R107).
-/

namespace Sys2Proof.Machine

open Sys2Proof

/-! ## Flags -/

/-- The sticky flags of an operation (Table 3.4). -/
structure Flags where
  io : Bool := false
  dz : Bool := false
  of_ : Bool := false
  uf : Bool := false
  nx : Bool := false
deriving DecidableEq, Repr

/-- Flags as the bits of %fflags (Table 3.4). -/
def Flags.bits (f : Flags) : BitVec 5 :=
  BitVec.ofBool f.io ++ BitVec.ofBool f.dz ++ BitVec.ofBool f.of_ ++ BitVec.ofBool f.uf ++ BitVec.ofBool f.nx

/-- The flags of either of two operations. -/
def Flags.or (a b : Flags) : Flags :=
  { io := a.io || b.io, dz := a.dz || b.dz, of_ := a.of_ || b.of_, uf := a.uf || b.uf, nx := a.nx || b.nx }

/-- Accumulate flags in %fflags (R107). -/
def Group.orFlags (g : Group) (f : Flags) : Group := { g with fflags := g.fflags ||| f.bits }

/-- FTZ of %gstat (Table 3.3). -/
def Group.ftz (g : Group) : Bool := g.gstat.getLsbD 0
/-- UNIFEN of %gstat. -/
def Group.unifen (g : Group) : Bool := g.gstat.getLsbD 1

/-! ## Formats (Table 5.1) -/

/-- A floating-point format: exponent bits, fraction bits and the largest finite magnitude. -/
structure Fmt where
  ebits : Nat
  fbits : Nat
  maxBits : Nat
  /-- infinities are encoded (every format but e4m3) -/
  hasInf : Bool := true
deriving DecidableEq, Repr

/-- f64. -/
def fmt64 : Fmt := { ebits := 11, fbits := 52, maxBits := 0x7FEFFFFFFFFFFFFF }
/-- f32. -/
def fmt32 : Fmt := { ebits := 8, fbits := 23, maxBits := 0x7F7FFFFF }
/-- f16. -/
def fmt16 : Fmt := { ebits := 5, fbits := 10, maxBits := 0x7BFF }
/-- bf16. -/
def fmtB16 : Fmt := { ebits := 8, fbits := 7, maxBits := 0x7F7F }
/-- e4m3. -/
def fmtE4 : Fmt := { ebits := 4, fbits := 3, maxBits := 0x7E, hasInf := false }
/-- e5m2. -/
def fmtE5 : Fmt := { ebits := 5, fbits := 2, maxBits := 0x7B }

/-- The format of a floating type; l6 and the integers have none. -/
def fmtOf : NumType → Option Fmt
  | .f64 => some fmt64 | .f32 => some fmt32 | .f16 => some fmt16 | .bf16 => some fmtB16
  | .e4m3 => some fmtE4 | .e5m2 => some fmtE5 | _ => none

/-- Bits of a value. -/
def Fmt.width (f : Fmt) : Nat := 1 + f.ebits + f.fbits
/-- The exponent bias. -/
def Fmt.bias (f : Fmt) : Nat := 2 ^ (f.ebits - 1) - 1
/-- The exponent of the smallest normal number. -/
def Fmt.emin (f : Fmt) : Int := 1 - (f.bias : Int)
/-- The exponent of the largest finite number. -/
def Fmt.emax (f : Fmt) : Int := (bits f.maxBits (f.ebits + f.fbits - 1) f.fbits : Int) - (f.bias : Int)
/-- The sign bit's weight. -/
def Fmt.sign (f : Fmt) : Nat := 2 ^ (f.ebits + f.fbits)
/-- The bits of positive infinity. -/
def Fmt.inf (f : Fmt) : Nat := (2 ^ f.ebits - 1) * 2 ^ f.fbits
/-- The default NaN (R93). -/
def Fmt.nan (f : Fmt) : Nat := if f.hasInf then f.inf + 2 ^ (f.fbits - 1) else 0x7F

/-- An exact value: NaN, an infinity, or (-1)^neg * m * 2^e, with signed zeros. -/
inductive FV
  | nan (signalling : Bool)
  | inf (neg : Bool)
  | fin (neg : Bool) (m : Nat) (e : Int)
deriving DecidableEq, Repr

/-- The value of the bits of a format (R90, R93); e4m3 and e5m2 have quiet NaNs only. -/
def Fmt.decode (f : Fmt) (x : Nat) : FV :=
  let neg := bitB x (f.ebits + f.fbits)
  let mag := x % f.sign
  let ex := mag / 2 ^ f.fbits
  let fr := mag % 2 ^ f.fbits
  if f.hasInf && ex == 2 ^ f.ebits - 1 then
    if fr == 0 then .inf neg else .nan (decide (7 ≤ f.fbits) && !bitB fr (f.fbits - 1))
  else if !f.hasInf && mag == 0x7F then .nan false
  else if ex == 0 then .fin neg fr (f.emin - (f.fbits : Int))
  else .fin neg (fr + 2 ^ f.fbits) ((ex : Int) - (f.bias : Int) - (f.fbits : Int))

/-- Do the bits hold a subnormal? -/
def Fmt.subnormal (f : Fmt) (x : Nat) : Bool := (x % f.sign) / 2 ^ f.fbits == 0 && x % 2 ^ f.fbits != 0

/-- A value by its sign. -/
def FV.neg? : FV → Bool
  | .nan _ => false
  | .inf n => n
  | .fin n _ _ => n

/-- Is the value a NaN? -/
def FV.isNaN : FV → Bool
  | .nan _ => true
  | _ => false
/-- Is the value infinite? -/
def FV.isInf : FV → Bool
  | .inf _ => true
  | _ => false
/-- Is the value a zero? -/
def FV.isZero : FV → Bool
  | .fin _ 0 _ => true
  | _ => false
/-- The value with the other sign. -/
def FV.negate : FV → FV
  | .nan s => .nan s
  | .inf n => .inf !n
  | .fin n m e => .fin (!n) m e

/-- Reading a signalling NaN sets IO (R93). -/
def sigFlags (vs : List FV) : Flags := { io := vs.any fun v => v == .nan true }

/-- An operand as a value, a subnormal flushed where FTZ says so (R94). -/
def Fmt.read (f : Fmt) (ftz : Bool) (x : Nat) : FV :=
  match f.decode x with
  | .fin n m e => if ftz && f.subnormal x then .fin n 0 0 else .fin n m e
  | v => v

/-! ## Rounding (R95) -/

/-- num / den * 2^(e - q) as a fraction. -/
def scaled (num den : Nat) (e q : Int) : Nat × Nat :=
  if q ≤ e then (num * 2 ^ (e - q).toNat, den) else (num, den * 2 ^ (q - e).toNat)

/-- floor(log2 (num / den * 2^e)) of a positive value. -/
def floorLog2 (num den : Nat) (e : Int) : Int :=
  let k : Int := (Nat.log2 num : Int) - (Nat.log2 den : Int)
  let f := scaled num den 0 k
  (if f.2 ≤ f.1 then k else k - 1) + e

/-- The integer that a fraction rounds to under a mode. -/
def roundFrac (rnd : Rnd) (neg : Bool) (a b : Nat) : Nat :=
  let n := a / b
  let r := a % b
  let up := match rnd with
    | .rne => decide (b < 2 * r) || (2 * r == b && n % 2 == 1)
    | .rz => false
    | .rm => neg && r != 0
    | .rp => !neg && r != 0
  if up then n + 1 else n

/-- Does the mode round a value of the sign away from zero when it overflows (Table 5.2)? -/
def overflowAway (rnd : Rnd) (neg : Bool) : Bool :=
  match rnd with
  | .rne => true | .rz => false | .rm => neg | .rp => !neg

/-- The result of an overflow (Table 5.2). -/
def Fmt.overflow (f : Fmt) (rnd : Rnd) (sat neg : Bool) : Nat :=
  let s := if neg then f.sign else 0
  if sat || !overflowAway rnd neg then s + f.maxBits else if f.hasInf then s + f.inf else f.nan

/-- Round a positive magnitude num / den * 2^e with a sign (R95): the bits and the flags. Tininess is detected after
rounding. -/
def Fmt.round (f : Fmt) (rnd : Rnd) (sat neg : Bool) (num den : Nat) (e : Int) : Nat × Flags :=
  let k := floorLog2 num den e
  let q := max k f.emin - (f.fbits : Int)
  let fr := scaled num den e q
  let n := roundFrac rnd neg fr.1 fr.2
  let inexact := fr.1 % fr.2 != 0
  let mag := n + ((q + (f.fbits : Int) + (f.bias : Int)) - 1).toNat * 2 ^ f.fbits
  let u := scaled num den e (k - (f.fbits : Int))
  let nu := roundFrac rnd neg u.1 u.2
  let tiny := decide (k < f.emin) && (nu != 2 ^ (f.fbits + 1) || decide (k + 1 < f.emin))
  if f.maxBits < mag then (f.overflow rnd sat neg, { of_ := true, nx := true })
  else ((if neg then f.sign else 0) + mag, { nx := inexact, uf := inexact && tiny })

/-- Encode an exact or rounded value (R93, R95): an infinity stays one, where the format has it. -/
def Fmt.roundFV (f : Fmt) (rnd : Rnd) (sat : Bool) (v : FV) : Nat × Flags :=
  match v with
  | .nan _ => (f.nan, {})
  | .inf n => (if f.hasInf then (if n then f.sign else 0) + f.inf else f.nan, {})
  | .fin n m e => if m == 0 then (if n then f.sign else 0, {}) else f.round rnd sat n m 1 e

/-- A result before it is written: a subnormal is flushed where FTZ says so, with UF and NX (R94). -/
def Fmt.flush (f : Fmt) (ftz : Bool) (r : Nat × Flags) : Nat × Flags :=
  if ftz && f.subnormal r.1 then (r.1 / f.sign % 2 * f.sign, r.2.or { uf := true, nx := true }) else r

/-! ## Exact arithmetic -/

/-- The exact product; an invalid one is a NaN with IO. -/
def FV.mul (a b : FV) : FV × Flags :=
  match a, b with
  | .inf s, y =>
    match y with
    | .nan _ => (.nan false, {})
    | .inf t => (.inf (s != t), {})
    | .fin t m _ => if m == 0 then (.nan false, { io := true }) else (.inf (s != t), {})
  | .nan _, _ => (.nan false, {})
  | .fin s m e, y =>
    match y with
    | .nan _ => (.nan false, {})
    | .inf t => if m == 0 then (.nan false, { io := true }) else (.inf (s != t), {})
    | .fin t n d => (.fin (s != t) (m * n) (e + d), {})

/-- A finite value as a multiple of 2^q, for q at most its exponent. -/
def FV.at (q : Int) : FV → Int
  | .fin s m e =>
    let x : Int := ((m * 2 ^ (e - q).toNat : Nat) : Int)
    if s then -x else x
  | _ => 0

/-- The exponent of a finite value. -/
def FV.exp : FV → Int
  | .fin _ _ e => e
  | _ => 0

/-- The exact sum (R95, R104): infinities of both signs are invalid; an exact zero of addends that are not all of one
sign is +0, and -0 under RM. A NaN addend hides infinities of both signs, whose event then sets no IO: R119 does not say for
fdp2 (DESIGN CHOICE, log 82). -/
def FV.sum (rnd : Rnd) (vs : List FV) : FV × Flags :=
  if vs.any FV.isNaN then (.nan false, {})
  else
    let pos := vs.any fun v => v == .inf false
    let ng := vs.any fun v => v == .inf true
    if pos && ng then (.nan false, { io := true })
    else if pos then (.inf false, {})
    else if ng then (.inf true, {})
    else
      match vs with
      | [] => (.fin false 0 0, {})
      | v0 :: _ =>
        let q := vs.foldl (fun m v => min m v.exp) v0.exp
        let t : Int := vs.foldl (fun a v => a + v.at q) 0
        if t == 0 then
          (.fin (if vs.all FV.neg? then true else if vs.any FV.neg? then rnd == .rm else false) 0 0, {})
        else (.fin (decide (t < 0)) t.natAbs q, {})

/-- Compare two values that are not NaNs: -1, 0 or 1; zeros are equal. -/
def FV.cmp (a b : FV) : Int :=
  let side := fun (v : FV) => match v with
    | .inf n => if n then (-1 : Int) else 1
    | _ => 0
  if side a != side b then (if side a < side b then -1 else 1)
  else if side a != 0 then 0
  else
    let q := min a.exp b.exp
    let x := a.at q
    let y := b.at q
    if x < y then -1 else if x == y then 0 else 1

/-- minimumNumber and maximumNumber of IEEE 754-2019: -0 below +0, one NaN operand gives the other (R113). -/
def FV.pick (wantMax : Bool) (a b : FV) : FV :=
  if a.isNaN && b.isNaN then .nan false
  else if a.isNaN then b
  else if b.isNaN then a
  else
    let c := a.cmp b
    let aLess := decide (c < 0) || (c == 0 && a.neg? && !b.neg?)
    if aLess == wantMax then (if c == 0 && a.neg? == b.neg? then a else b) else a

/-! ## L6 (R100 to R103) -/

/-- Table 5.4. -/
def l6Table (f : Nat) : Nat := ([0x8000, 0x9838, 0xB505, 0xD746] : List Nat).getD f 0

/-- The value T[f] * 2^(i - 15) for a sum of code offsets e. -/
def l6At (neg : Bool) (e : Int) : FV := .fin neg (l6Table (e % 4).toNat) (e / 4 - 15)

/-- The decoded value of an L6 byte (R100, R101); NaR is a NaN. -/
def l6Decode (x : Nat) : FV :=
  let m := x % 32
  if m == 0 then (if bitB x 5 then .nan false else .fin false 0 0) else l6At (bitB x 5) ((m : Int) - 16)

/-- Is the byte NaR? -/
def l6NaR (x : Nat) : Bool := x % 64 == 0x20

/-- The product of two L6 bytes, from the codes (R102), each scaled by a power of two. -/
def l6Product (a b : Nat) (scale : Int) : FV × Flags :=
  if l6NaR a || l6NaR b then (.nan false, { io := true })
  else if a % 32 == 0 || b % 32 == 0 then (.fin false 0 0, {})
  else
    match l6At (bitB a 5 != bitB b 5) ((a % 32 : Nat) - 16 + ((b % 32 : Nat) - 16) : Int) with
    | .fin n m e => (.fin n m (e + scale), {})
    | v => (v, {})

/-- Constants of Table 5.5 as f32 values. -/
def l6Const (n : Nat) : FV := fmt32.decode (([0x3F8C1BF8, 0x3FA69E72, 0x3FC624F8, 0x3FEBA27E] : List Nat).getD n 0)

/-- Conversion of a finite magnitude m * 2^e to a code, sign apart (R103). -/
def l6Encode (neg : Bool) (m : Nat) (e : Int) : Nat × Flags :=
  let a : FV := .fin false m e
  if m == 0 then (0, {})
  else if a.cmp (fmt32.decode 0x3D1837F0) ≤ 0 then (0, { uf := true, nx := true })
  else
    let i := floorLog2 m 1 e
    let s : FV := .fin false m (e - i)
    let fi : Nat × Int :=
      if s.cmp (l6Const 0) ≤ 0 then (0, i)
      else if s.cmp (l6Const 1) < 0 then (1, i)
      else if s.cmp (l6Const 2) ≤ 0 then (2, i)
      else if s.cmp (l6Const 3) < 0 then (3, i)
      else (0, i + 1)
    let c := 4 * (fi.2 + 4) + (fi.1 : Int)
    let c1 := if c < 1 then 1 else c
    let sg := if neg then 0x20 else 0
    if 32 ≤ c1 then (sg + 31, { of_ := true, nx := true })
    else (sg + c1.toNat, { nx := a.cmp (l6Decode c1.toNat) != 0 })

/-- Conversion of a value to L6 (R103). -/
def l6Of (v : FV) : Nat × Flags :=
  match v with
  | .nan s => (0x20, { io := s })
  | .inf _ => (0x20, {})
  | .fin n m e => l6Encode n m e

end Sys2Proof.Machine
end

