-- ==== Sys2Proof/Machine/Buffer.lean ====
section
/-!
DEFINITION. Reads and writes of threads through the checks of R207, the release and acquire that accesses carry
(11_memory.md R198 to R204), atomic operations on values (Table 11.12), and the store buffers of paired and contained
teams (19_faults.md R354): items and signatures.
-/

namespace Sys2Proof.Machine

open Sys2Proof

/-! ## Store buffers (R354) -/

/-- Does the team buffer its outward effects (R352, R354)? -/
def Team.buffers (t : Team) : Bool := t.paired || t.contained

/-- One bit of the CRC-64, from bit `i` of a word. -/
def crcBit (w : Nat) (sig : Nat) (i : Nat) : Nat :=
  let top := bitN sig 63 + bitN w i
  (sig * 2 % 2 ^ 64) ^^^ (if top == 1 then 0x42F0E1EBA9EA3693 else 0)

/-- A signature fed 64-bit words from bit 63 downwards (R354). -/
def crcFeed (sig : Nat) (ws : List Nat) : Nat :=
  ws.foldl (fun s w => (List.range 64).reverse.foldl (crcBit w) s) sig

/-- 64-bit little-endian words of data, zero-padded. -/
def words64 (bs : List Byte) : List Nat :=
  (List.range (ceilDiv bs.length 8)).map fun i => ofBytes ((bs.drop (8 * i)).take 8)

/-- What a written item feeds: KIND 0, its width code, its address and its data. -/
def feedWrite (wid va : Nat) (bs : List Byte) : List Nat := (wid * 2 ^ 56 + va) :: words64 bs

/-- What another item feeds: its KIND, width code and address, the instruction's words and its operands in order. -/
def feedOther (kind wid va : Nat) (i : Instr) (ops : List Nat) : List Nat :=
  (kind * 2 ^ 60 + wid * 2 ^ 56 + va) :: ((encode i).map BitVec.toNat ++ ops)

/-- Bytes of data an effect holds. -/
def Effect.len : Effect → Nat
  | .write _ bs _ _ _ => bs.length
  | .red _ w _ _ _ _ => w
  | .back _ bs => bs.length
  | .copy c => if c.kind == .stamp then 8 else c.size
  | .surface o => 4 * o.regs * o.lanes.length
  | .tid _ ws _ => 8 * ws.length
  | _ => 8

/-- Bytes of the store buffer in use. -/
def Team.bufferUse (t : Team) : Nat := t.items.foldl (fun n i => n + Config.itemBytes i.eff.len) 0

/-- Would further items of these data lengths overflow the buffer of 64 KiB (R356)? -/
def Team.overflows (t : Team) (lens : List Nat) : Bool :=
  t.buffers && decide (65536 < lens.foldl (fun n l => n + Config.itemBytes l) t.bufferUse) && !t.items.isEmpty

/-- Buffer items of threads of the path, and feed their signatures. -/
def Run.buffer (r : Run) (s : State) (g : Group) (es : List (Nat × Effect × List Nat)) : State × Group :=
  (modTeam s r.tid fun t => { t with items := t.items ++ es.map fun e => { group := r.gnum, thread := e.1, eff := e.2.1 } },
    es.foldl (fun g e => g.modThreads [e.1] fun t => { t with sig := BitVec.ofNat 64 (crcFeed t.sig.toNat e.2.2) }) g)

/-- Bytes read at an address, under the buffered writes of some threads of a group to them (R354). -/
def overItems (items : List Item) (group : Nat) (lanes : List Nat) (va : Nat) (bs : List Byte) : List Byte :=
  let put := fun (out : List Byte) (i : Item) =>
    if i.group == group && lanes.contains i.thread then
      match i.eff with
      | .write a d _ _ _ => out.mapIdx fun k b => if a ≤ va + k && va + k < a + d.length then d.getD (va + k - a) b else b
      | .back a d => out.mapIdx fun k b => if a ≤ va + k && va + k < a + 128 then (mfind (va + k - a) d).getD b else b
      | _ => out
    else out
  items.foldl put bs

/-- The bytes that an access of some threads of the group reads: their own buffered writes over what memory holds
(R354); a U-word's access stands in the program order of every thread of its path (R197). -/
def Run.overlay (r : Run) (lanes : List Nat) (va : Nat) (bs : List Byte) : List Byte :=
  if r.t.buffers then overItems r.t.items r.gnum lanes va bs else bs

/-! ## Addresses and checks -/

/-- Bytes of a width (Table 1.6). -/
def widthBytes : Width → Nat
  | .b8 | .s8 => 1 | .b16 | .s16 => 2 | .b32 => 4 | .b64 => 8 | .b128 => 16

/-- An address offset: an s-register, or an immediate scaled by the width (R10, R33). -/
def Run.offset (r : Run) (c : Src) (w : Nat) : PV Nat :=
  match c with
  | .s n => r.g.readS n.toNat 64
  | .imm i => .ok (wrapInt 64 (toSigned 8 i.toNat * (w : Int)))
  | .v _ => .ok 0

/-- The effective address of a lane: its pair plus the offset, modulo 2^56 (R33, R207). -/
def Run.ea (r : Run) (b : BitVec 8) (c : Src) (w l : Nat) : PV Nat :=
  combine [r.g.readV b.toNat l 2, r.offset c w] fun | [x, y] => (x + y) % 2 ^ 56 | _ => 0

/-- The effective address of a U-word. -/
def Run.uea (r : Run) (b : BitVec 8) (c : Src) (w : Nat) : PV Nat :=
  combine [r.g.readS b.toNat 64, r.offset c w] fun | [x, y] => (x + y) % 2 ^ 56 | _ => 0

/-- Lanes with unpoisoned addresses. -/
def goodLanes (as : List (Nat × PV Nat)) : List (Nat × Nat) :=
  as.filterMap fun a => match a.2 with
    | .ok x => some (a.1, x)
    | .bad _ => none

/-- The first lane whose check fails or waits (R207). -/
def firstBad (s : State) (who : Who) (as : List (Nat × Nat)) (w : Nat) (k : Kind) : Option (Nat × Check) :=
  as.findSome? fun a =>
    match checkAccess s who a.2 w k with
    | .ok _ => none
    | c => some (a.2, c)

/-- The path performs the failure of a check, or waits. -/
def Run.failAt (r : Run) (s : State) (va : Nat) (c : Check) (k : Kind) : State :=
  match c with
  | .ok _ => s
  | .wait w => r.waitIn s w
  | .bad code tr => r.faultIn (noteTranslation s r.who va c) { code := code, addr := va, tr := tr, kind := k }

/-- Read at an address that has passed its checks, holding its translation. -/
def readVa (s : State) (who : Who) (va w : Nat) (k : Kind) (hint : Hint := .normal) : State × Got :=
  match checkAccess s who va w k with
  | .ok p =>
    let s1 := noteTranslation s who va (.ok p)
    readPlace s1 who p w hint
  | .bad c _ => (s, .report c)
  | .wait _ => (s, .report 0xA)

/-- Write at an address that has passed its checks. -/
def writeVa (s : State) (who : Who) (va : Nat) (bs : List Byte) (hint : Hint) : State × Nat :=
  match checkAccess s who va bs.length .write with
  | .ok p => writePlace (noteTranslation s who va (.ok p)) who p bs hint
  | .bad c _ => (s, c)
  | .wait _ => (s, 0xA)

/-! ## Release and acquire -/

/-- Does an order release? -/
def MemOrd.releases : MemOrd → Bool
  | .rel | .ar => true
  | _ => false
/-- Does an order acquire? -/
def MemOrd.acquires : MemOrd → Bool
  | .acq | .ar => true
  | _ => false

/-- The dirty bytes of a stash line with their offsets in it. -/
def Team.dirtyBytes (t : Team) (line : Nat) : List (Nat × Byte) :=
  (t.dirtyAt line).map fun o => (o % 128, mget 0 o t.stash)

/-- In a team that buffers its effects the dirty lines of the windows picked become items of the path's lowest thread
(R354), once none of them fails its translation (R187). -/
def Run.backItems (r : Run) (pick : Nat → Bool) : Run × Option WbFail :=
  let ls := r.t.dirtyLines pick
  match ls.find? fun l => lineFails r.s r.who l.1 with
  | some l =>
    let low := l.1 + (r.t.dirtyBytes l.2).foldl (fun m o => min m o.1) 127
    let c := checkGlobal r.s r.who l.1 128 .write
    ({ r with s := noteTranslation r.s r.who l.1 c }, some (match c with
      | .bad code tr => { code := code, va := low, tr := tr }
      | .ok _ => { code := 3, va := low, tr := none }
      | .wait w => { code := 0, va := low, tr := none, wait := some w }))
  | none =>
    let lane := r.lanes.headD 0
    let es := ls.map fun l =>
      let bs := r.t.dirtyBytes l.2
      (lane, Effect.back l.1 bs, feedWrite 15 l.1 (bs.map Prod.snd))
    let b := r.buffer (modTeam r.s r.tid fun t => { t with dirty := t.dirty.filter fun o => !(ls.any fun l => l.2 == o / 128) }) r.g es
    ({ r with s := b.1, g := b.2, t := teamOf b.1 r.tid }, none)

/-- Write back the dirty bytes of the windows picked, performed or buffered (R187, R354). -/
def Run.writeBack (r : Run) (pick : Nat → Bool) : Run × Option WbFail :=
  if r.t.buffers then r.backItems pick
  else
    match Machine.writeBack r.s r.who pick with
    | (s, f) => ({ r with s := s, t := teamOf s r.tid }, f)

/-- The fault of a failed write-back (R187), or the wait for the link or bus that its line is behind. -/
def Run.wbFault (r : Run) (f : WbFail) : State :=
  match f.wait with
  | some w => r.waitIn r.s w
  | none => r.faultIn r.s { code := f.code, addr := f.va, tr := f.tr, kind := .write, wb := true }

/-- A release by the path: at core scope or wider its team's stash is written back first, and a failed write-back is
the instruction's fault (R186, R187); then the operation goes on. -/
def Run.releasing (r : Run) (sc : Scope) (k : Run → State) : State :=
  if !scopeAtLeastCore sc then k { r with s := release r.s r.who sc }
  else
    match r.writeBack fun _ => true with
    | (r1, none) => k { r1 with s := release r1.s r1.who sc }
    | (r1, some f) => r1.wbFault f

/-- The same where the access has an order. -/
def Run.releaseIf (r : Run) (ord : MemOrd) (sc : Scope) (k : Run → State) : State :=
  if MemOrd.releases ord then r.releasing sc k else k r

/-- An acquire before a read (R204). -/
def acquireIf (s : State) (who : Who) (ord : MemOrd) (sc : Scope) : State :=
  if MemOrd.acquires ord then acquire s who sc else s

/-! ## Atomic operations on values (Table 11.12) -/

/-- The new value of an atomic of w bytes, none where it writes nothing, and its flags. -/
def atomicOf (op w old v c : Nat) : Option Nat × Flags :=
  let n := 8 * w
  let sl := fun (a b : Nat) => decide (toSigned n a < toSigned n b)
  match op with
  | 0 => (some ((old + v) % 2 ^ n), {})
  | 1 => (some (if sl v old then v else old), {})
  | 2 => (some (if v < old then v else old), {})
  | 3 => (some (if sl old v then v else old), {})
  | 4 => (some (if old < v then v else old), {})
  | 5 => (some (old &&& v), {})
  | 6 => (some (old ||| v), {})
  | 7 => (some (old ^^^ v), {})
  | 8 => (some v, {})
  | 9 => (if old == c then some v else none, {})
  | _ =>
    let r := faddOp (if w == 4 then fmt32 else fmt64) old v
    (some r.1, r.2)
where
  faddOp (f : Fmt) (a b : Nat) : Nat × Flags :=
    let vs := [f.decode a, f.decode b]
    let t := FV.sum .rne vs
    let r := f.roundFV .rne false t.1
    (r.1, (sigFlags vs).or (t.2.or r.2))

/-- The outcome of one atomic: the old value, or the code a target reports. -/
inductive Atomic
  | old (x : Nat) (flags : Flags)
  | report (code : Nat)
deriving DecidableEq, Repr

/-- An indivisible update of normal memory at the shared cache slice of the line (R193, R195, R210): it reads and writes
the slice's value, behind what the core's first-level cache holds dirty of the line. -/
def atomicNormal (s : State) (who : Who) (pa w op v c : Nat) : State × Atomic :=
  match askTargets s who pa .atomic with
  | (t, false) => (t, .report 3)
  | (t, true) =>
    if isMarked t pa then (t, .report 5)
    else
      let u := l1Forget (flushLine (touchSlice t pa (classOf t (some (who.team, 0))) (some (who.cid, who.icn))) who.core pa) who.core pa w
      let old := physNat u pa w
      let r := atomicOf op w old v c
      match r.1 with
      | none => (u, .old old r.2)
      | some n => (performBytes u who.core noTeam who.cid who.icn pa (toBytes w n), .old old r.2)

/-- The words of the stash line of an offset are invalid (R184). -/
def Team.dropLine (t : Team) (off : Nat) : Team :=
  { t with valid := t.valid.filter fun x => x / 32 != off / 128, stashPa := merase (off / 128) t.stashPa }

/-- An atomic at a checked place (R178, R184, R193). -/
def atomicPlace (s : State) (who : Who) (p : Place) (w op v c : Nat) : State × Atomic :=
  match p with
  | .scratch k off =>
    match readScratch s who k off w with
    | (t, .report code) => (t, .report code)
    | (t, .bytes bs) =>
      let r := atomicOf op w (ofBytes bs) v c
      match r.1 with
      | none => (t, .old (ofBytes bs) r.2)
      | some n =>
        match writeScratch t who k off (toBytes w n) with
        | (u, 0) => (u, .old (ofBytes bs) r.2)
        | (u, code) => (u, .report code)
  | .remote dev pa =>
    let q := askPlace s who p .atomic
    if !q.2 then (q.1, .report 3)
    else
    match peerCode s dev pa w true with
    | 0 =>
      let old := ofBytes (peerBytes s dev pa w)
      let r := atomicOf op w old v c
      (match r.1 with
        | none => s
        | some n => setPeer s dev pa (toBytes w n), .old old r.2)
    | code => (s, .report code)
  | .stashAtomic off _ q => atomicPlace (modTeam s who.team fun t => t.dropLine off) who q w op v c
  | .normal pa => atomicNormal s who pa w op v c
  | _ => (s, .report 2)

/-- Before an atomic in a window: the line's dirty bytes are written back (R184). -/
def atomicWriteBack (s : State) (who : Who) (p : Place) : State × Option WbFail :=
  match p with
  | .stashAtomic off va _ =>
    if (teamOf s who.team).dirty.any fun o => o / 128 == off / 128 then writeBackLine s who (va / 128 * 128) (off / 128)
    else (s, none)
  | _ => (s, none)

/-- An atomic at an address that has passed its checks. -/
def atomicVa (s : State) (who : Who) (va w op v c : Nat) : State × Atomic :=
  match checkAccess s who va w .atomic with
  | .ok p => atomicPlace (noteTranslation s who va (.ok p)) who p w op v c
  | .bad code _ => (s, .report code)
  | .wait _ => (s, .report 0xA)

end Sys2Proof.Machine
end

