-- ==== Sys2Proof/Machine/Memory.lean ====
section
/-!
DEFINITION. The memory instructions (11_memory.md R206 to R213).
-/

namespace Sys2Proof.Machine

open Sys2Proof

/-! ## Loads (R208) -/

/-- The registers of a value of a width. -/
def widthRegs (w : Nat) : Nat := ceilDiv w 4

/-- A loaded value at the width of its destination: b8 and b16 zero-extended, s8 and s16 sign-extended. -/
def extendLoad (wid : Width) (dst x : Nat) : Nat :=
  match wid with
  | .s8 => signExt 8 dst x
  | .s16 => signExt 16 dst x
  | _ => x

/-- What a speculative access that cannot be performed gives: its code; none where it may be performed (R208). -/
def specCode : Check → Option Nat
  | .bad c _ => some c
  | .ok (.device _) => some 2
  | _ => none

/-- Load lanes in order: each writes its result, or under .spec its token, and the lowest report is kept. -/
def Run.loadLanes (r : Run) (x : Mem) (w : Nat) : List (Nat × PV Nat) → State → Group → Option (Nat × Nat) →
    State × Group × Option (Nat × Nat)
  | [], s, g, rep => (s, g, rep)
  | (l, .bad t) :: as, s, g, rep => r.loadLanes x w as s (g.writeV x.a.toNat l (widthRegs w) (.bad t)) rep
  | (l, .ok va) :: as, s, g, rep =>
    let token := fun (c : Nat) => g.writeV x.a.toNat l (widthRegs w) (.bad (mkToken c l false false r.pc))
    match if x.spec then specCode (checkAccess s r.who va w .read) else none with
    | some c => r.loadLanes x w as (noteDenial s r.who va (checkAccess s r.who va w .read)) (token c) rep
    | none =>
      match readVa s (r.whoLane l) va w .read x.hint with
      | (t, .bytes bs) =>
        r.loadLanes x w as t
          (g.writeV x.a.toNat l (widthRegs w) (.ok (extendLoad x.wid 32 (ofBytes (r.overlay [l] va bs))))) rep
      | (t, .report c) =>
        if x.spec then r.loadLanes x w as t (token c) rep
        else r.loadLanes x w as t g (rep.or (some (c, va)))

/-- The first lane that must wait before it is performed. -/
def firstWait (s : State) (who : Who) (as : List (Nat × Nat)) (w : Nat) (k : Kind) : Option Wait :=
  as.findSome? fun a =>
    match checkAccess s who a.2 w k with
    | .wait q => some q
    | _ => none

/-- ld (R208). -/
def execLd (x : Mem) (s : State) : Out := .next <| gate (.ld x) s fun r =>
  let w := widthBytes x.wid
  let as := r.act.map fun l => (l, r.ea x.b x.c w l)
  let stop :=
    if x.spec then (firstWait r.s r.who (goodLanes as) w .read).map fun q => (0, Check.wait q)
    else firstBad r.s r.who (goodLanes as) w .read
  match stop with
  | some (va, c) => r.failAt r.s va c .read
  | none =>
    match r.loadLanes x w as (if r.act.isEmpty then r.s else acquireIf r.s r.who x.ord x.scope) r.g none with
    | (t, g, none) => r.doneIn t g
    | (t, g, some (c, va)) => r.faultIn (r.keep t g) { code := c, addr := va }

/-- sld (R208). -/
def execSld (x : Mem) (s : State) : Out := .next <| gate (.sld x) s fun r =>
  let w := widthBytes x.wid
  let put := fun (p : PV Nat) => r.g.writeS x.a.toNat p
  match r.uea x.b x.c w with
  | .bad t => r.done (put (.bad t))
  | .ok va =>
    let c := checkAccess r.s r.who va w .read
    let token := fun (k : Nat) => put (.bad (mkToken k 0 true false r.pc))
    match if x.spec then specCode c else none with
    | some k => r.doneIn (noteDenial r.s r.who va c) (token k)
    | none =>
      match c with
      | .ok _ =>
        match readVa (acquireIf r.s r.who x.ord x.scope) r.who va w .read x.hint with
        | (t, .bytes bs) =>
          r.doneIn t (put (.ok (extendLoad x.wid 64 (ofBytes (r.overlay r.lanes va bs)))))
        | (t, .report k) => if x.spec then r.doneIn t (token k) else r.faultIn t { code := k, addr := va }
      | _ => r.failAt r.s va c .read

/-! ## Stores (R209) -/

/-- Store lanes in order, each as its requester; a report of a target goes to the group (R57). -/
def Run.storeLanes (r : Run) (who : Nat → Who) (hint : Hint) : List (Nat × Nat × List Byte) → State → State
  | [], s => s
  | (l, va, bs) :: as, s =>
    match writeVa s (who l) va bs hint with
    | (t, c) => r.storeLanes who hint as (reportIf t r.tid r.gnum c)

/-- Would a write leave the core of its requester (R354)? -/
def leavesCore (s : State) (who : Who) (va w : Nat) : Bool :=
  match checkAccess s who va w .write with
  | .ok (.scratch ..) => false
  | .ok (.stash ..) => false
  | _ => true

/-- Is a write an item: would it leave the core of a team that buffers its effects (R354)? -/
def Run.leaves (r : Run) (va w : Nat) : Bool := r.t.buffers && leavesCore r.s r.who va w

/-- Stores of the path's threads after their checks: performed, each as its requester, or buffered (R354). -/
def Run.stores (r : Run) (who : Nat → Who) (x : Mem) (wid : Nat) (ls : List (Nat × Nat × List Byte)) : State :=
  match firstBad r.s r.who (ls.map fun l => (l.1, l.2.1)) (widthBytes x.wid) .write with
  | some (va, c) => r.failAt r.s va c .write
  | none =>
    let out := ls.filter fun l => r.leaves l.2.1 (widthBytes x.wid)
    let here := ls.filter fun l => !r.leaves l.2.1 (widthBytes x.wid)
    if r.t.overflows (out.map fun l => l.2.2.length) then r.waitIn r.s (.twin 0)
    else
      r.releaseIf x.ord x.scope fun r1 =>
        let s2 := r1.storeLanes who x.hint here r1.s
        let b := r1.buffer s2 r1.g (out.map fun l =>
          (l.1, Effect.write l.2.1 l.2.2 x.ord x.scope x.hint, feedWrite wid l.2.1 l.2.2))
        r1.doneIn b.1 b.2

/-- st (R209). -/
def execSt (x : Mem) (s : State) : Out := .next <| gate (.st x) s fun r =>
  let w := widthBytes x.wid
  let k := widthRegs w
  match r.act.findSome? fun l => firstTok [r.ea x.b x.c w l, r.g.readV x.a.toNat l k] with
  | some t => r.raise t
  | none =>
    if r.act.isEmpty then r.done r.g
    else r.stores r.whoLane x x.wid.code.toNat (r.act.map fun l =>
      (l, (r.ea x.b x.c w l).val, toBytes w (r.g.readV x.a.toNat l k).val))

/-- sst (R209): the data is read without waiting (R161). -/
def execSst (x : Mem) (s : State) : Out :=
  .next <| gate (.sst x) s fun r =>
    let w := widthBytes x.wid
    match firstTok [r.uea x.b x.c w, r.g.readS x.a.toNat 64] with
    | some t => r.raise t
    | none => r.stores (fun _ => r.who) x x.wid.code.toNat
        [(r.lanes.headD 0, (r.uea x.b x.c w).val, toBytes w (r.g.readS x.a.toNat 64).val)]

/-! ## Atomics (R210) -/

/-- One access of an atomic instruction: its thread, address, value and compare value. -/
structure AtomArg where
  lane : Nat
  va : Nat
  val : Nat
  cmp : Nat
deriving DecidableEq, Repr

/-- The write-backs of the stash lines that atomics touch come before all of them: where one fails, none is performed
(R184, R187). -/
def Run.atomBacks (r : Run) (w : Nat) : List AtomArg → State → State × Option WbFail
  | [], s => (s, none)
  | a :: as, s =>
    match checkAccess s r.who a.va w .atomic with
    | .ok p =>
      (match atomicWriteBack s r.who p with
        | (t, none) => r.atomBacks w as t
        | f => f)
    | _ => r.atomBacks w as s

/-- Atomic lanes in increasing order; `put` writes a lane's old value, `red` sends reports to the group. -/
def Run.atomLanes (r : Run) (op w : Nat) (red : Bool) (put : Group → Nat → Nat → Flags → Group) :
    List AtomArg → State → Group → Option (Nat × Nat) → State × Group × Option (Nat × Nat)
  | [], s, g, rep => (s, g, rep)
  | a :: as, s, g, rep =>
    match atomicVa s r.who a.va w op a.val a.cmp with
    | (u, .old x f) => r.atomLanes op w red put as u (put g a.lane x f) rep
    | (u, .report c) =>
      if red then r.atomLanes op w red put as (addReport u r.tid r.gnum c) g rep
      else r.atomLanes op w red put as u g (rep.or (some (c, a.va)))

/-- Would every compare of a cas fail, so that it writes nothing (R210)? -/
def Run.casFails (r : Run) (w : Nat) : List AtomArg → State → Bool
  | [], _ => true
  | a :: as, s =>
    match atomicVa s r.who a.va w 9 a.val a.cmp with
    | (t, .old x _) => x != a.cmp && r.casFails w as t
    | (t, .report _) => r.casFails w as t

/-- The release of an atomic: a cas that fails in every lane has none (R210). -/
def Run.releaseAtom (r : Run) (x : Mem) (as : List AtomArg) (k : Run → State) : State :=
  if srcNum x.e == 9 && MemOrd.releases x.ord && r.casFails (widthBytes x.wid) as (r.atomBacks (widthBytes x.wid) as r.s).1 then k r
  else r.releaseIf x.ord x.scope k

/-- The checks, the release, the write-backs, the lanes and the acquire of an atomic instruction. -/
def Run.atomics (r : Run) (x : Mem) (red : Bool) (put : Group → Nat → Nat → Flags → Group) (as : List AtomArg) : State :=
  let w := widthBytes x.wid
  match firstBad r.s r.who (as.map fun a => (a.lane, a.va)) w .atomic with
  | some (va, c) => r.failAt r.s va c .atomic
  | none =>
    r.releaseAtom x as fun r1 =>
      match r1.atomBacks w as (acquireIf r1.s r.who x.ord x.scope) with
      | (t, some f) => { r1 with s := r1.keep t r1.g }.wbFault f
      | (t, none) =>
        match r1.atomLanes (srcNum x.e) w red put as t r1.g none with
        | (t, g, none) => r1.doneIn t g
        | (t, g, some (c, va)) => r1.faultIn (r1.keep t g) { code := c, addr := va }

/-- atom (R206, R210): for cas the compare value stands after the value. -/
def execAtom (x : Mem) (s : State) : Out := .next <| gate (.atom x) s fun r =>
  let w := widthBytes x.wid
  let k := widthRegs w
  let cas := srcNum x.e == 9
  let cmp := fun (l : Nat) => if cas then r.g.readV (x.a.toNat + k) l k else .ok 0
  if r.act.isEmpty then r.done r.g
  else if r.t.paired then r.fault 0x16
  else
    match r.act.findSome? fun l => firstTok [r.ea x.b x.c w l, r.g.readV x.a.toNat l k, cmp l] with
    | some t => r.raise t
    | none =>
      r.atomics x false (fun g l old f => (g.writeV x.a.toNat l k (.ok old)).orFlags f)
        (r.act.map fun l => { lane := l, va := (r.ea x.b x.c w l).val, val := (r.g.readV x.a.toNat l k).val, cmp := (cmp l).val })

/-- satom (R206, R210): s(A + 1) holds the compare value of cas. -/
def execSatom (x : Mem) (s : State) : Out :=
  .next <| gate (.satom x) s (extra := x.a.toNat :: (if srcNum x.e == 9 then [x.a.toNat + 1] else [])) fun r =>
    let w := widthBytes x.wid
    let cmp := if srcNum x.e == 9 then r.g.readS (x.a.toNat + 1) (8 * w) else .ok 0
    if r.t.paired then r.fault 0x16
    else
      match firstTok [r.uea x.b x.c w, r.g.readS x.a.toNat (8 * w), cmp] with
      | some t => r.raise t
      | none =>
        r.atomics x false (fun g _ old f => (g.writeS x.a.toNat (.ok old)).orFlags f)
          [{ lane := 0, va := (r.uea x.b x.c w).val, val := (r.g.readS x.a.toNat (8 * w)).val, cmp := cmp.val }]

/-- red (R210): no register and no flag is written; in a buffering team each lane is an item of KIND 1 (R354). -/
def execRed (x : Mem) (s : State) : Out := .next <| gate (.red x) s fun r =>
  let w := widthBytes x.wid
  let k := widthRegs w
  match r.act.findSome? fun l => firstTok [r.ea x.b x.c w l, r.g.readV x.a.toNat l k] with
  | some t => r.raise t
  | none =>
    let as : List AtomArg := r.act.map fun l =>
      { lane := l, va := (r.ea x.b x.c w l).val, val := (r.g.readV x.a.toNat l k).val, cmp := 0 }
    if r.act.isEmpty then r.done r.g
    else if r.t.buffers then
      match firstBad r.s r.who (as.map fun a => (a.lane, a.va)) w .atomic with
      | some (va, c) => r.failAt r.s va c .atomic
      | none =>
        let out := as.filter fun a => !isLocal a.va
        if r.t.overflows (out.map fun _ => w) then r.waitIn r.s (.twin 0)
        else
          r.releaseIf x.ord x.scope fun r1 =>
            let here := r1.atomLanes (srcNum x.e) w true (fun g _ _ _ => g) (as.filter fun a => isLocal a.va) r1.s r1.g none
            let b := r1.buffer here.1 here.2.1 (out.map fun a => (a.lane, Effect.red a.va w (srcNum x.e) a.val x.ord x.scope,
              feedOther 1 x.wid.code.toNat a.va (.red x) [a.val, a.va]))
            r1.doneIn b.1 b.2
    else r.atomics x true (fun g _ _ _ => g) as

/-! ## Prefetch (R211) -/

/-- Prefetch the line of one address of `w` bytes: a stash window's line is filled at once; a line of normal memory is
requested, by a walk first where no TLB holds its page and none is under way (R211, R218, R221). -/
def prefetchLine (s : State) (who : Who) (va w : Nat) (hint : Hint) : State :=
  match checkAccess s who va w .read with
  | .ok (.stashFill _ (.device _) _) => s
  | .ok (.stashFill off p coh) => (readPlace s who (.stashFill off p coh) 1).1
  | .ok (.stash off) => fillRest off
  | .ok (.normal pa) =>
    if (tlbFind s who.core who.cid va).isNone then
      if walkUnderWay s who.core who.cid va then s
      else
        { s with
          walks := mput s.nextId { core := who.core, cid := who.cid, icn := who.icn, va := va, fill := hint != .nl1 } s.walks
          nextId := s.nextId + 1 }
    else if hint == .nl1 then (readNormal s who (pa / 128 * 128) 128 .nl1).1
    else
      { s with
        requests := mput s.nextId
          { target := sliceOf pa, core := who.core, cid := who.cid, icn := who.icn, pa := pa / 128 * 128, bytes := [], isRead := true
            cls := (teamOf s who.team).cls }
          s.requests
        nextId := s.nextId + 1 }
  | _ => s
where
  /-- The rest of a line whose addressed words are valid: pf fills the line (R184). -/
  fillRest (off : Nat) : State :=
    if (teamOf s who.team).stashValid (off / 128 * 128) 128 then s
    else
      match checkGlobal s who (va / 128 * 128) 128 .read with
      | .ok (.device _) => s
      | .ok p => (readPlace s who (.stashFill off p (cohAt s who va)) 1).1
      | _ => s

/-- pf (R211): it writes no register and never faults. -/
def execPf (x : Mem) (s : State) : Out := .next <| gate (.pf x) s fun r =>
  let w := widthBytes x.wid
  let as := goodLanes (r.act.map fun l => (l, r.ea x.b x.c w l))
  r.doneIn (as.foldl (fun t a => prefetchLine t { r.who with threads := [] } a.2 w x.hint) r.s) r.g

/-! ## Fences (R212) -/

/-- The reports on their way to a group. -/
def reportsOf (s : State) (team group : Nat) : List (Nat × Report) :=
  s.reports.filter fun e => e.2.team == team && e.2.group == group

/-- A report reaches its group: the first code is recorded, before or after the copy code (R57, R212). -/
def Group.noteReport (g : Group) (code : Nat) : Group :=
  if g.reportCode == 0 then { g with reportCode := code, reportFirst := g.copyCode == 0 } else g

/-- Every report of the group arrives: a reporting point waits for the group's earlier writes, and those to peers are
no longer outstanding (R57). -/
def collectReports (s : State) (team group : Nat) : State :=
  let rs := reportsOf s team group
  let s1 := modGroup s team group fun g => rs.foldl (fun g e => g.noteReport e.2.code) g
  { s1 with
    reports := s1.reports.filter fun e => !(e.2.team == team && e.2.group == group)
    peerWrites := s1.peerWrites.filter fun e => !(e.team == team && e.group == group) }

/-- The deferred code a reporting point takes first: 1 the copy code, 2 the report code (R212). -/
def Group.deferredFirst (g : Group) : Option (Bool × Nat) :=
  if g.copyCode == 0 && g.reportCode == 0 then none
  else if g.copyCode == 0 then some (false, g.reportCode)
  else if g.reportCode == 0 then some (true, g.copyCode)
  else if g.reportFirst then some (false, g.reportCode) else some (true, g.copyCode)

/-- Take a deferred code at a reporting point: it is cleared, and the fault is taken with DEFERRED (R212, R333). -/
def Run.takeDeferred (r : Run) (s : State) (copy : Bool) (code : Nat) : State :=
  let lost := copy && (r.groupIn s).copyLost
  let s1 := modGroup s r.tid r.gnum fun g =>
    if copy then { g with copyCode := 0, copyLost := false } else { g with reportCode := 0 }
  r.faultIn s1 { code := code, deferred := true, lostData := lost }

/-- The effect of a fence for the path (R199, R200, R212): the deferred codes, the release, the acquire. -/
def Run.fence (r : Run) (ord : MemOrd) (sc : Scope) : State :=
  let s1 := collectReports r.s r.tid r.gnum
  match (r.groupIn s1).deferredFirst with
  | some (copy, code) => r.takeDeferred s1 copy code
  | none =>
    -- ORD 00 stands for .sc here
    let rel := ord != .acq
    let acq := ord != .rel
    let r1 := { r with s := s1 }
    let k := fun (u : Run) => u.doneIn (if acq then acquire u.s r.who sc else u.s) u.g
    if rel then r1.releasing sc k else k r1

/-- fence (R212). -/
def execFence (x : Mem) (s : State) : Out := .next <| gate (.fence x) s fun r =>
  if r.act.isEmpty then r.done r.g else r.fence x.ord x.scope
/-- fence.u (R212). -/
def execFenceU (x : Mem) (s : State) : Out := .next <| gate (.fenceU x) s fun r => r.fence x.ord x.scope

/-! ## Monitors (R213) -/

/-- mon: an acquire read that arms the group's monitor. -/
def execMon (x : Std) (s : State) : Out := .next <| gate (.mon x) s fun r =>
  match r.uea x.b x.c 8 with
  | .bad t => r.done { (r.g.writeS x.a.toNat (.bad t)) with mon := none }
  | .ok va =>
    let sc := (Scope.ofCode x.f.toNat).getD .sys
    match checkAccess r.s r.who va 8 .read with
    | .ok _ =>
      match readVa (acquire r.s r.who sc) r.who va 8 .read with
      | (t, .bytes bs) =>
        r.doneIn t { (r.g.putS x.a.toNat (ofBytes (r.overlay r.lanes va bs))) with mon := some (va, sc) }
      | (t, .report c) => r.faultIn t { code := c, addr := va }
    | c => r.failAt r.s va c .read

/-- monw: the monitored value once it satisfies the comparison; until then the path waits for a write. -/
def execMonw (x : Std) (s : State) : Out := .next <| gate (.monw x) s fun r =>
  match r.g.mon with
  | none => r.fault 0x0D
  | some (va, sc) =>
    match r.src x.c 64 0 with
    | .bad t => r.done (r.g.writeS x.a.toNat (.bad t))
    | .ok c =>
      match checkAccess r.s r.who va 8 .read with
      | .ok _ =>
        match readVa (acquire r.s r.who sc) r.who va 8 .read with
        | (t, .bytes bs) =>
          let v := ofBytes (r.overlay r.lanes va bs)
          if (x.f == 0 && decide (c ≤ v)) || (x.f != 0 && v != c) then r.doneIn t (r.g.putS x.a.toNat v)
          else r.waitIn t (.monitor v)
        | (t, .report k) => r.faultIn t { code := k, addr := va }
      | k => r.failAt r.s va k .read

end Sys2Proof.Machine
end

