-- ==== Sys2Proof/Machine/Barriers.lean ====
section
/-!
DEFINITION. Named barriers and stage rings (09_barriers.md R164 to R173).
-/

namespace Sys2Proof.Machine

open Sys2Proof

/-! ## Waiters -/

/-- The paths of a team blocked in bwait or barw on barrier n, as group, path and q-register. -/
def Team.waiters (t : Team) (n : Nat) : List (Nat × Nat × Nat) :=
  t.groups.flatMap fun g =>
    g.2.paths.filterMap fun p =>
      match p.2.wait with
      | .barrier m _ _ q => if m == n then some (g.1, p.1, q) else none
      | _ => none

/-- A waiter is released: its path takes the status and passes its instruction, of two words (R167, R170). -/
def Group.releaseWaiter (g : Group) (path q : Nat) (invalidated : Bool) : Group :=
  match g.pathLanes path with
  | [] => g
  | l :: ls =>
    let g1 := g.setQ q (.ok invalidated)
    (((g1.countIssue path).setWait path .none).pass path (l :: ls) (g.thread l).pc 8).settle.notePast g (l :: ls)

/-- The paths of a team blocked in rgwait on a stage of a ring, for the state it now has (R171). -/
def Team.ringWaiters (t : Team) (n stage : Nat) (empty : Bool) : List (Nat × Nat) :=
  t.groups.flatMap fun g =>
    g.2.paths.filterMap fun p => if p.2.wait == .ring n stage empty then some (g.1, p.1) else none

/-- A path blocked in rgwait is released: it passes its instruction, of two words. -/
def Group.releaseRing (g : Group) (path : Nat) : Group :=
  match g.pathLanes path with
  | [] => g
  | l :: ls => (((g.countIssue path).setWait path .none).pass path (l :: ls) (g.thread l).pc 8).settle.notePast g (l :: ls)

/-- Release the paths that wait on a stage (R171): they pass even where it changes again at once. -/
def Team.releaseRing (t : Team) (n stage : Nat) (empty : Bool) : Team :=
  (t.ringWaiters n stage empty).foldl (fun t w => { t with groups := mmod w.1 (fun g => g.releaseRing w.2) t.groups }) t

/-- Release every waiter of a barrier with a status. -/
def Team.releaseWaiters (t : Team) (n : Nat) (invalidated : Bool) : Team :=
  (t.waiters n).foldl (fun t w =>
    { t with groups := mmod w.1 (fun g => g.releaseWaiter w.2.1 w.2.2 invalidated) t.groups }) t

/-! ## Settling -/

/-- The barrier of a number. -/
def Team.barrier (t : Team) (n : Nat) : Barrier := mget {} n t.barriers

/-- Settle(b) of R167: a phase completes, its waiters are released and the urgency counts start again (R142). -/
def Team.settleBarrier (t : Team) (n : Nat) : Team :=
  let b := t.barrier n
  if b.valid && b.pending == 0 && b.tx == 0 then
    let t1 := { t with barriers := mput n { b with phase := (b.phase + 1) % 2 ^ 32, pending := b.count } t.barriers }
    let t2 := t1.releaseWaiters n false
    { t2 with groups := t2.groups.map fun g => (g.1, { g.2 with urgent := 0 }) }
  else t

/-- A copy completion reports bytes to a barrier: dropped where it is not VALID or its EPOCH differs (R168). -/
def barrierReport (s : State) (tid n epoch bytes : Nat) : State :=
  let t := teamOf s tid
  let b := t.barrier n
  if b.valid && b.epoch == epoch then
    modTeam s tid fun t =>
      ({ t with barriers := mput n { b with tx := (b.tx + 2 ^ 32 - bytes % 2 ^ 32) % 2 ^ 32 } t.barriers }).settleBarrier n
  else modCore s t.core fun c => { c with bdrops := min (2 ^ 32 - 1) (c.bdrops + 1) }

/-! ## Operands -/

/-- The barrier number of C and E (R169): static, or in an s-register. -/
def Run.barrierNum (r : Run) (x : Std) : PV Nat :=
  match x.c with
  | .s n => r.g.readS n.toNat 64
  | c => .ok ((srcNum c) + 256 * bits (srcNum x.e) 1 0)

/-- Is the group a satellite or a pixel group (R166)? -/
def Group.satelliteLike (g : Group) : Bool := g.satellite || g.pixel.isSome

/-- The barrier an instruction names, or the fault of a number at or beyond the declared count (R164, R169). The
tokens of S[B] come first. -/
def Run.onBarrier (r : Run) (x : Std) (sb : PV Nat) (k : Nat → Nat → State) : State :=
  match firstTok [sb, r.barrierNum x] with
  | some t => r.raise t
  | none => if r.t.hdr.barriers ≤ (r.barrierNum x).val then r.fault 0xC else k (r.barrierNum x).val sb.val

/-- The token of an arrival (R167). -/
def Barrier.token (b : Barrier) : Nat := b.phase + b.epoch * 2 ^ 32

/-- Blocked(t) of R170. -/
def Barrier.blocked (b : Barrier) (tok : Nat) : Bool := b.valid && b.epoch == bits tok 39 32 && b.phase == bits tok 31 0

/-- The path passes with its team changed. -/
def Run.doneTeam (r : Run) (f : Team → Team) (g : Group) : State :=
  let s1 := r.doneIn r.s g
  modTeam s1 r.tid f

/-- An arrival and an rgadv are a release at team scope for the threads of the path (R172). -/
def Run.teamRelease (r : Run) : Run := { r with s := release r.s r.who .team }

/-! ## Barriers (R170) -/

/-- binit. -/
def execBinit (x : Std) (s : State) : Out := .next <| gate (.binit x) s fun r =>
  r.onBarrier x (r.uB x.b 64) fun n c =>
    let b := r.t.barrier n
    if c == 0 || 4096 ≤ c || r.g.satelliteLike then r.fault 0xC
    else if !(r.t.waiters n).isEmpty && x.f == 0 then r.fault 0xC
    else
      let b1 : Barrier := { phase := 0, epoch := (b.epoch + 1) % 256, valid := true, count := c, pending := c, tx := 0 }
      r.doneTeam (fun t => ({ t with barriers := mput n b1 t.barriers }).releaseWaiters n true) r.g

/-- An arrival (R167, R170): the checks, then the token and the team with the arrival counted and settled. -/
def Run.arrive (r : Run) (x : Std) (n tx : Nat) : Option (Nat × (Team → Team)) :=
  let b := r.t.barrier n
  if r.g.satelliteLike || !b.valid || b.pending == 0 || (x.f == 1 && 2 ^ 32 ≤ tx) then none
  else
    let b1 := { b with tx := if x.f == 1 then (b.tx + tx) % 2 ^ 32 else b.tx, pending := b.pending - 1 }
    some (b.token, fun t => ({ t with barriers := mput n b1 t.barriers }).settleBarrier n)

/-- S[B] where the form reads it. -/
def Run.txBytes (r : Run) (x : Std) : PV Nat := if x.f == 1 then r.uB x.b 64 else .ok 0

/-- barr. -/
def execBarr (x : Std) (s : State) : Out := .next <| gate (.barr x) s fun r =>
  r.onBarrier x (r.txBytes x) fun n tx =>
    match r.arrive x n tx with
    | none => r.fault 0xC
    | some (tok, f) => r.teamRelease.doneTeam f (r.g.putS x.a.toNat tok)

/-- Wait(t) of R170 after the team has changed by `f`: the path blocks, or takes the status of a token that does not
block it. -/
def Run.barrierWait (r : Run) (q n tok : Nat) (f : Team → Team) : State :=
  let b := r.t.barrier n
  if b.blocked tok then
    -- the settling of an arrival that completes the phase releases this path too
    modTeam (r.waitIn r.s (.barrier n (bits tok 31 0) (bits tok 39 32) q)) r.tid f
  else r.doneTeam f (r.g.setQ q (.ok !(b.valid && b.epoch == bits tok 39 32)))

/-- A path that blocks in barw has arrived: after a save it waits on and does not arrive again (R173). -/
def Team.noteArrived (t : Team) (gnum path : Nat) : Team :=
  { t with groups := mmod gnum (fun g =>
      { g with paths := mmod path (fun p => match p.wait with
          | .barrier .. => { p with arrived := true }
          | _ => p) g.paths }) t.groups }

/-- bwait. -/
def execBwait (x : Std) (s : State) : Out := .next <| gate (.bwait x) s fun r =>
  r.onBarrier x (r.uB x.b 64) fun n tok => r.barrierWait x.a.toNat n tok id

/-- barw: it arrives once, and then waits. -/
def execBarw (x : Std) (s : State) : Out := .next <| gate (.barw x) s fun r =>
  r.onBarrier x (r.txBytes x) fun n tx =>
    match r.arrive x n tx with
    | none => r.fault 0xC
    | some (tok, f) => r.teamRelease.barrierWait x.a.toNat n tok (fun t => f (t.noteArrived r.gnum r.path))

/-- binv. -/
def execBinv (x : Std) (s : State) : Out := .next <| gate (.binv x) s fun r =>
  r.onBarrier x (.ok 0) fun n _ =>
    let b := r.t.barrier n
    if r.g.satelliteLike then r.fault 0xC
    else if !b.valid then r.done r.g
    else
      let b1 := { b with epoch := (b.epoch + 1) % 256, valid := false }
      r.doneTeam (fun t => ({ t with barriers := mput n b1 t.barriers }).releaseWaiters n true) r.g

/-- btest. -/
def execBtest (x : Std) (s : State) : Out := .next <| gate (.btest x) s fun r =>
  r.onBarrier x (r.uB x.b 64) fun n tok => r.done (r.g.setQ x.a.toNat (.ok !((r.t.barrier n).blocked tok)))

/-! ## Rings (R171) -/

/-- The ring and stage an instruction names, or the fault of one that does not exist. -/
def Run.onRing (r : Run) (x : Std) (k : Nat → Nat → Bool → State) : State :=
  match r.src x.e 64 0 with
  | .bad t => r.raise t
  | .ok e =>
    let n := srcNum x.c
    let ring := mget {} n r.t.rings
    if r.t.hdr.rings ≤ n || ring.depth ≤ e % 16 then r.fault 0xC
    else k n (e % 16) (bitB ring.full (e % 16))

/-- want of R171: .full wants 1. -/
def ringWant (x : Std) : Bool := bitN x.f.toNat 0 == 0

/-- rgwait. -/
def execRgwait (x : Std) (s : State) : Out := .next <| gate (.rgwait x) s fun r =>
  r.onRing x fun n k full =>
    if full == ringWant x then r.done r.g else r.waitIn r.s (.ring n k !(ringWant x))

/-- rgwait.test. -/
def execRgwaitTest (x : Std) (s : State) : Out := .next <| gate (.rgwaitTest x) s fun r =>
  r.onRing x fun _ _ full => r.done (r.g.setQ x.a.toNat (.ok (full == ringWant x)))

/-- rgadv: the stage changes, and the paths that wait for it are released. -/
def execRgadv (x : Std) (s : State) : Out := .next <| gate (.rgadv x) s fun r =>
  r.onRing x fun n k full =>
    if full == ringWant x then r.fault 0xC
    else
      r.teamRelease.doneTeam (fun t =>
        ({ t with rings := mmod n (fun g => { g with full := if ringWant x then g.full ||| 2 ^ k else g.full &&& (2 ^ 16 - 1 - 2 ^ k) }) t.rings }).releaseRing
          n k !(ringWant x))
        r.g

end Sys2Proof.Machine
end

