-- ==== Sys2Proof/Machine/Copy.lean ====
section
/-!
DEFINITION. The copy engine at issue: cpl, cpz, cpx, cpst and cpw (13_copy.md R226 to R235).
-/

namespace Sys2Proof.Machine

open Sys2Proof

/-! ## The queue (R226) -/

/-- Does an operation still hold its queue entry? -/
def CopyOp.busy (c : CopyOp) : Bool :=
  match c.kind with
  | .stamp => true
  | .cpw => c.ended.isNone
  | _ => c.lanes.any fun l => !l.done

/-- Is a team on its core, so that its operations are in the core's copy engine? -/
def Team.onCore (t : Team) : Bool := t.loc == .resident || t.loc == .saving

/-- The operations that hold entries of a core's copy engine. -/
def engineOps (s : State) (core : Nat) : List (Nat × CopyOp) :=
  s.copies.filter fun c => c.2.busy && (teamOf s c.2.team).core == core && (teamOf s c.2.team).onCore

/-- Are entries free beside some operations: 64 per copy engine, 16 per group (R226)? -/
def entriesFree (ops : List (Nat × CopyOp)) (team group : Nat) : Bool :=
  decide (ops.length < 64) && decide ((ops.filter fun c => c.2.team == team && c.2.group == group).length < 16)

/-- Is a queue entry free for the group (R226)? -/
def Run.copyRoom (r : Run) : Bool := entriesFree (engineOps r.s r.t.core) r.tid r.gnum

/-- A stamp covers earlier copies of its group: where one of them has failed and its code is not yet recorded, the stamp
will not be written (R229). -/
def noteWithheld (s : State) (c : CopyOp) : CopyOp :=
  { c with withheld := c.withheld || (c.kind == .stamp &&
      s.copies.any fun e => e.2.team == c.team && e.2.group == c.group && !e.2.fails.isEmpty) }

/-- Enqueue an operation at its place in the order of its group; lanes of one instruction are one operation. -/
def enqueueCopy (s : State) (c : CopyOp) : State :=
  { s with copies := mput c.seq (match mfind c.seq s.copies with
      | some e => { e with lanes := e.lanes ++ c.lanes }
      | none => noteWithheld s c) s.copies }

/-- The next place in the order of copies is taken. -/
def takeSeq (s : State) : State := { s with nextId := s.nextId + 1 }

/-- The copy engine of the path's core as a requester (Table 2.8). -/
def Run.copier (r : Run) : Who := whoEngine r.s r.tid 2

/-- An operation of the path, without its addresses. -/
def Run.copyOp (r : Run) (kind : CopyKind) (size : Nat) : CopyOp :=
  { team := r.tid, group := r.gnum, core := r.t.core, cid := r.t.bind.cid, icn := r.t.bind.icn, kind := kind, size := size }

/-! ## Per-lane copies (R227, R231, R232) -/

/-- Bytes of a destination, a source and a metadata address (Table 13.2), 0 where the form has none. -/
structure CopyShape where
  dst : Nat
  src : Nat
  meta_ : Nat
deriving DecidableEq, Repr

/-- An address of one lane of a copy with its size and access kind. -/
structure CopyAddr where
  va : PV Nat
  size : Nat
  kind : Kind
deriving DecidableEq, Repr

/-- The addresses of a lane in the order destination, source, metadata. -/
def Run.copyAddrs (r : Run) (kind : CopyKind) (h : CopyShape) (x : Std) (l : Nat) : List CopyAddr :=
  let va := fun (n : Nat) => (r.g.readV n l 2).map (· % 2 ^ 56)
  [{ va := va x.a.toNat, size := h.dst, kind := .write }] ++
  (if h.src == 0 then [] else [{ va := va x.b.toNat, size := h.src, kind := .read }]) ++
  (if h.meta_ == 0 then []
    else [{ va := va (srcNum x.c), size := h.meta_, kind := if kind == .compact then .write else .read }])

/-- Check 3 of R227 on one address; a device page fails. -/
def checkCopy (s : State) (who : Who) (a : CopyAddr) : Check :=
  match checkAccess s who a.va.val a.size a.kind with
  | .ok (.device _) => .bad 2 none
  | c => c

/-- A checked lane. -/
def laneCopy (s : State) (who : Who) (as : List CopyAddr) (l : Nat) : LaneCopy :=
  let at_ := fun (i : Nat) =>
    as[i]?.bind fun a =>
      match checkCopy s who a with
      | .ok p => some (a.va.val, p)
      | _ => none
  { lane := l, dst := (at_ 0).getD (0, .normal 0), src := at_ 1, meta_ := at_ 2 }

/-- The path queues a per-lane copy: room, poison, the barrier, the addresses lane by lane, then the entry (R226, R227).
In a team that buffers its effects each lane is an item (R236, R354). -/
def Run.copyLanes (r : Run) (i : Instr) (kind : CopyKind) (h : CopyShape) (x : Std) (bar : Bool) : State :=
  let addrs := r.copyAddrs kind h x
  let num := if bar then r.barrierNum x else .ok 0
  if r.act.isEmpty then r.done r.g
  else if !r.copyRoom then r.waitIn r.s .room
  else
    match firstTok ((r.act.flatMap fun l => (addrs l).map CopyAddr.va) ++ [num]) with
    | some t => r.raise t
    | none =>
      if bar && r.t.hdr.barriers ≤ num.val then r.fault 0xC
      else
        let bad := r.act.findSome? fun l => (addrs l).findSome? fun a =>
          match checkCopy r.s r.copier a with
          | .ok _ => none
          | c => some (a, c)
        match bad with
        | some (a, c) => r.failAt r.s a.va.val c a.kind
        | none =>
          let lanes := r.act.map fun l => laneCopy r.s r.copier (addrs l) l
          let s1 := (r.act.flatMap addrs).foldl
            (fun s a => noteTranslation s r.copier a.va.val (checkCopy r.s r.copier a)) r.s
          let op := { r.copyOp kind (if kind == .cpl || kind == .cpz then h.dst else 16) with
            seq := s1.nextId, ty := x.ty, bar := if bar then some (num.val, (r.t.barrier num.val).epoch) else none }
          if r.t.buffers then
            if r.t.overflows (r.act.map fun _ => op.size) then r.waitIn r.s (.twin 0)
            else
              let es := lanes.map fun (l : LaneCopy) =>
                (l.lane, Effect.copy { op with lanes := [l] },
                  feedOther 2 15 l.dst.1 i ((addrs l.lane).map fun a => a.va.val))
              let b := r.buffer (takeSeq s1) r.g es
              r.doneIn b.1 b.2
          else r.doneIn (enqueueCopy (takeSeq s1) { op with lanes := lanes }) r.g

/-- Bytes of a width code of cpl and cpz (Table 13.1). -/
def copyWidth (x : Std) : Nat := 4 * 2 ^ (x.f.toNat % 4)

/-- cpl (R231). -/
def execCpl (x : Std) (s : State) : Out := .next <| gate (.cpl x) s fun r =>
  r.copyLanes (.cpl x) .cpl { dst := copyWidth x, src := copyWidth x, meta_ := 0 } x (bitB x.f.toNat 2)

/-- cpz (R231). -/
def execCpz (x : Std) (s : State) : Out := .next <| gate (.cpz x) s fun r =>
  r.copyLanes (.cpz x) .cpz { dst := copyWidth x, src := 0, meta_ := 0 } x (bitB x.f.toNat 2)

/-- Metadata bytes of a lane (Table 13.2). -/
def metaBytes (ty : NumType) : Nat := if ty.bits == 8 then 2 else 1

/-- cpx.expand (R232). -/
def execCpxExpand (x : Std) (s : State) : Out := .next <| gate (.cpxExpand x) s fun r =>
  r.copyLanes (.cpxExpand x) .expand { dst := 16, src := 8, meta_ := metaBytes x.ty } x false

/-- cpx.compact (R232). -/
def execCpxCompact (x : Std) (s : State) : Out := .next <| gate (.cpxCompact x) s fun r =>
  r.copyLanes (.cpxCompact x) .compact { dst := 8, src := 16, meta_ := metaBytes x.ty } x false

/-! ## Stamps (R234) -/

/-- Has the group a copy in the queue that is not yet performed? -/
def groupCopies (s : State) (tid gnum : Nat) : Bool :=
  s.copies.any fun c => c.2.team == tid && c.2.group == gnum && c.2.busy && c.2.kind != .stamp

/-- cpst: it does not block the group; a recorded copy code is taken once the earlier copies are performed (R229). -/
def execCpst (x : Std) (s : State) : Out := .next <| gate (.cpst x) s (extra := [x.a.toNat]) fun r =>
  if !r.copyRoom then r.waitIn r.s .room
  else
    let v := r.g.readS x.a.toNat 64
    match firstTok [v, r.uea x.b x.c 8] with
    | some t => r.raise t
    | none =>
      let va := (r.uea x.b x.c 8).val
      let a : CopyAddr := { va := .ok va, size := 8, kind := .write }
      match checkCopy r.s r.copier a with
      | .ok p =>
        if r.g.copyCode != 0 then
          if groupCopies r.s r.tid r.gnum then r.waitIn r.s .copies else r.takeDeferred r.s true r.g.copyCode
        else
          let sc := (Scope.ofCode x.f.toNat).getD .sys
          let op := { r.copyOp .stamp 8 with
            va := va, val := BitVec.ofNat 64 v.val, scope := sc, lanes := [{ lane := 0, dst := (va, p) }] }
          if r.t.buffers && r.t.overflows [8] then r.waitIn r.s (.twin 0)
          else
            r.releasing sc fun q =>
              let s1 := noteTranslation q.s q.copier va (.ok p)
              let stamp := { op with seq := s1.nextId }
              if r.t.buffers then
                let b := q.buffer (takeSeq s1) q.g
                  [(q.lanes.headD 0, .copy (noteWithheld s1 stamp), feedOther 2 15 va (.cpst x) [v.val, va])]
                q.doneIn b.1 b.2
              else q.doneIn (enqueueCopy (takeSeq s1) stamp) q.g
      | c => r.failAt r.s va c .write

/-! ## Bulk copies (R235) -/

/-- cpw: the checks of its three operands, a handle, and a bulk copy that translates as it goes. -/
def execCpw (x : Std) (s : State) : Out := .next <| gate (.cpw x) s fun r =>
  if !r.copyRoom then r.waitIn r.s .room
  else
    match firstTok [r.uB x.b 64, r.src x.c 64 0, r.src x.e 64 0] with
    | some t => r.raise t
    | none =>
      let d := (r.uB x.b 64).val % 2 ^ 56
      let f := (r.src x.c 64 0).val % 2 ^ 56
      let n := (r.src x.e 64 0).val
      if d % 16 != 0 || f % 16 != 0 || n % 16 != 0 || 2 ^ 40 ≤ n then r.fault 4 (if d % 16 != 0 then d else f)
      else if r.t.buffers && r.t.overflows [8] then r.waitIn r.s (.twin 0)
      else
        match r.t.takeHandle 3 with
        | none => r.waitIn r.s .handleFree
        | some (e, q, t1) =>
          let g1 := r.g.setPending x.a.toNat (handleVal 3 e q)
          let op := { r.copyOp .cpw 128 with
            handles := [(r.tid, e, q)], dst := d, src := f, len := n, seq := r.s.nextId, gaps := [(0, ceilDiv (d % 128 + n) 128)] }
          let s1 := takeSeq (modTeam r.s r.tid fun t => { t with handles := t1.handles, hseq := t1.hseq })
          if n == 0 then r.doneIn (modTeam s1 r.tid fun t => t.completeHandle e q 0 0) g1
          else if r.t.buffers then
            let b := r.buffer s1 g1 [(r.lanes.headD 0, .copy op, feedOther 2 15 d (.cpw x) [d, f, n])]
            r.doneIn b.1 b.2
          else r.doneIn (enqueueCopy s1 op) g1

end Sys2Proof.Machine
end

