-- ==== Sys2Proof/Machine/CopyEv.lean ====
section
/-!
DEFINITION. The copy engine at work: copies performed, failures recorded, stamps written, bulk copies ended
(13_copy.md R228 to R236; 09_barriers.md R168; 19_faults.md R358).
-/

namespace Sys2Proof.Machine

open Sys2Proof

/-! ## Places at the time of the access -/

/-- The place of a queued address now: one that lay in a stash window is looked up again (R191, R228), and the access may
have to wait for it. -/
def placeNow (s : State) (who : Who) (va w : Nat) (k : Kind) (p : Place) : Check :=
  let stay :=
    match placeWait s who w p with
    | some q => Check.wait q
    | none => .ok p
  let again :=
    match checkAccess s who va w k with
    | .bad .. => Check.ok p
    | c => c
  match p with
  | .stash _ => again
  | .stashFill .. => again
  | .stashThrough .. => again
  | _ => stay

/-- Is the place on a peer to which no route is left (R229, R366)? -/
def linkLost (s : State) (p : Place) : Bool :=
  match p with
  | .remote dev _ => routeState s dev == 0
  | _ => false

/-- Does the place lie in scratch or a stash window (R229)? -/
def inCoreStore (p : Place) : Bool :=
  match p with
  | .scratch .. | .stash _ | .stashFill .. | .stashThrough .. | .stashAtomic .. => true
  | _ => false

/-- Does the place lie within the core: only its scratch and its stash hold it (R354)? -/
def withinCore (p : Place) : Bool :=
  match p with
  | .scratch .. | .stash _ => true
  | _ => false

/-- Bytes that no target has answered for: on a peer each keeps its old value or takes the copied one (R229); elsewhere
nothing has been performed (R57). -/
def partWrite (s : State) (p : Place) (bs : List Byte) (salt : Nat) : State :=
  match p with
  | .remote dev pa =>
    let old := peerBytes s dev pa bs.length
    setPeer s dev pa (bs.mapIdx fun i b => if Config.freeBool s.tick (salt + i) then b else old.getD i 0)
  | _ => s

/-- Bytes of unpredictable values (R229). -/
def anyBytes (tick salt w : Nat) : List Byte := (List.range w).map fun i => Config.freeByte tick (salt + i)

/-- Where a destination takes the poison of its source (R229, R358): a marked line in HBM or on a peer, poisoned samples in
a surface, and unpredictable bytes in the core store. -/
def poisonDest (s : State) (who : Who) (p : Place) (w salt : Nat) : State :=
  match p with
  | .normal pa =>
    let lines := (range' pa w).foldl (fun ls a => insertNat (a / 128) ls) []
    { (lines.foldl (fun t l => markLine t (128 * l)) s) with
      l1 := s.l1.filter fun e => e.2.dirty || !lines.contains (keyPa e.1 / 128) }
  | .surface sid off =>
    { s with surfBad := (range' (surfKey who.cid sid off) w).foldl (fun b k => insertNat k b) s.surfBad }
  | .remote dev pa => { s with peerMarks := (range' pa w).foldl (fun ms a => insertNat (dev * 2 ^ 45 + a / 128) ms) s.peerMarks }
  | .device _ => s
  | .scratch k off => setScratch s k off (anyBytes s.tick salt w)
  | .stash off => modTeam s who.team fun t => t.stashStore off (anyBytes s.tick salt w)
  | .stashFill _ q _ => poisonDest s who q w salt
  | .stashAtomic _ _ q => poisonDest s who q w salt
  | .stashThrough off q =>
    modTeam (poisonDest s who q w salt) who.team fun t => { t with stash := putBytes t.stash off (anyBytes s.tick salt w) }

/-! ## The data of a lane (R231, R232) -/

/-- The rank of an element among its group: NaN and NaR highest, then by magnitude, zeros lowest (R232). -/
def rankKey (ty : NumType) (x : Nat) : Nat :=
  match ty with
  | .l6 => if l6NaR x then 2 ^ 32 else x % 32
  | .i8 | .i16 => (toSigned ty.bits x).natAbs
  | .n8 | .n16 => x
  | _ =>
    match fmtOf ty with
    | some f => if (f.decode x).isNaN then 2 ^ 32 else x % f.sign
    | none => x

/-- The index of the highest key among those not excluded, the lower index first. -/
def bestIndex (keys : List Nat) (not : Option Nat) : Nat :=
  ((List.range keys.length).foldl (fun b i =>
    if some i == not then b
    else match b with
      | none => some i
      | some j => if keys.getD j 0 < keys.getD i 0 then some i else some j) none).getD 0

/-- A dense group compacted: the two values, their nibble, and whether a non-zero element was dropped. -/
def compactGroup (ty : NumType) (es : List Nat) : List Nat × Nat × Bool :=
  let keys := es.map (rankKey ty)
  let a := bestIndex keys none
  let b := bestIndex keys (some a)
  let i0 := min a b
  let i1 := max a b
  ([es.getD i0 0, es.getD i1 0], 4 * i1 + i0,
    (List.range 4).any fun i => i != i0 && i != i1 && keys.getD i 0 != 0)

/-- Elements of packed bytes. -/
def elemsOf (size : Nat) (bs : List Byte) : List Nat :=
  (List.range (bs.length / size)).map fun i => ofBytes ((bs.drop (size * i)).take size)

/-- Bytes of elements. -/
def bytesOf (size : Nat) (es : List Nat) : List Byte := es.flatMap (toBytes size)

/-- Groups of a dense run. -/
def groupsOf (ty : NumType) : Nat := if ty.bits == 8 then 4 else 2

/-- cpx.expand: dense bytes, and the groups whose indices do not rise. -/
def expandBytes (ty : NumType) (comp : List Byte) (m : Nat) : List Byte × Nat :=
  let size := ty.bits / 8
  let es := elemsOf size comp
  let one := fun (g : Nat) =>
    let n := m / 16 ^ g % 16
    let z := (List.replicate 4 0).set (n % 4) (es.getD (2 * g) 0)
    z.set (n / 4) (es.getD (2 * g + 1) 0)
  (bytesOf size ((List.range (groupsOf ty)).flatMap one),
    ((List.range (groupsOf ty)).filter fun g => decide (m / 16 ^ g % 16 / 4 ≤ m / 16 ^ g % 4)).length)

/-- cpx.compact: compact bytes, metadata, and the groups that lost a non-zero element. -/
def compactBytes (ty : NumType) (dense : List Byte) : List Byte × List Byte × Nat :=
  let size := ty.bits / 8
  let es := elemsOf size dense
  let gs := (List.range (groupsOf ty)).map fun g => compactGroup ty ((es.drop (4 * g)).take 4)
  let m := gs.foldr (fun g n => g.2.1 + 16 * n) 0
  (bytesOf size (gs.flatMap fun g => g.1), toBytes (metaBytes ty) m, (gs.filter fun g => g.2.2).length)

/-! ## Performing a lane (R228, R229) -/

/-- The engine of an operation as requester; its accesses stand apart from those of the threads (R228). -/
def CopyOp.who (s : State) (c : CopyOp) : Who :=
  { whoEngine s c.team 2 with threads := [threadKey c.team c.group 32] }

/-- Bytes of a lane's destination. -/
def CopyOp.dstSize (c : CopyOp) : Nat := if c.kind == .compact then 8 else c.size
/-- Bytes of a lane's source. -/
def CopyOp.srcSize (c : CopyOp) : Nat := if c.kind == .cpz then 0 else if c.kind == .expand then 8 else c.size
/-- Bytes of metadata that a lane reads. -/
def CopyOp.metaIn (c : CopyOp) : Nat := if c.kind == .expand then metaBytes c.ty else 0
/-- Bytes of metadata that a lane writes. -/
def CopyOp.metaOut (c : CopyOp) : Nat := if c.kind == .compact then metaBytes c.ty else 0

/-- The bytes that a lane reads, and those that it writes; metadata from 256 on. -/
def CopyOp.ins (c : CopyOp) : List Nat := List.range c.srcSize ++ range' 256 c.metaIn
/-- The bytes that a lane writes. -/
def CopyOp.outs (c : CopyOp) : List Nat := List.range c.dstSize ++ range' 256 c.metaOut

/-- The address and the place of a byte that a lane writes. -/
def LaneCopy.outAt (l : LaneCopy) (i : Nat) : Nat × Place :=
  if i < 256 then (l.dst.1 + i, l.dst.2.shift i)
  else
    let m := l.meta_.getD l.dst
    (m.1 + (i - 256), m.2.shift (i - 256))

/-- The bytes of a lane that have not been written. -/
def CopyOp.unwritten (c : CopyOp) (l : LaneCopy) : List Nat := if l.done then [] else c.outs.filter fun i => !l.wrote.contains i

/-- The bytes read of a lane's operand, in order. -/
def LaneCopy.read (l : LaneCopy) (at_ n : Nat) : List Byte := (range' at_ n).map fun i => mget 0 i l.got

/-- The bytes a lane writes from the bytes it has read, and what the check counter adds (R231 to R233). -/
def CopyOp.data (c : CopyOp) (l : LaneCopy) : List Byte × List Byte × Nat × Nat :=
  match c.kind with
  | .cpz => (List.replicate c.size 0, [], 0, 0)
  | .expand =>
    let e := expandBytes c.ty (l.read 0 8) (ofBytes (l.read 256 c.metaIn))
    (e.1, [], 0, e.2)
  | .compact =>
    let e := compactBytes c.ty (l.read 0 16)
    (e.1, e.2.1, e.2.2, 0)
  | _ => (l.read 0 c.size, [], 0, 0)

/-- Does a byte to be written depend only on bytes that have been read? -/
def CopyOp.known (c : CopyOp) (l : LaneCopy) (i : Nat) : Bool :=
  if c.kind == .cpl then (mfind i l.got).isSome else c.ins.all fun j => (mfind j l.got).isSome

/-- Do two bytes coincide? -/
def sameByte (a b : Nat × Place) : Bool := a.1 == b.1 || a.2.byteKey == b.2.byteKey

/-- The operations of an operation's group that were issued before it; those of the other copy too, for a stamp of a paired
team (R234, R236). -/
def earlierOps (s : State) (id : Nat) (c : CopyOp) : List (Nat × CopyOp) :=
  s.copies.filter fun e =>
    e.2.group == c.group &&
    ((e.2.team == c.team && decide (e.1 < id)) ||
      (e.2.team == twinOf c.team && (match c.twinSeq with
        | some q => decide (e.1 < q)
        | none => false)))

/-- Has a line of a bulk copy's destination still to take an address? -/
def CopyOp.owes (c : CopyOp) (va : Nat) : Bool :=
  let n := (c.dst % 128 + (va - c.dst)) / 128
  c.dst ≤ va && va < c.dst + c.len &&
  ((c.gaps.any fun r => r.1 ≤ n && n < r.1 + r.2) ||
    (match c.line with
      | some l => l.num == n && !l.wrote.contains (va % 128)
      | none => false))

/-- Will a bulk copy still write a byte: by its address, or by another address of the same byte? -/
def CopyOp.bulkOwes (s : State) (c : CopyOp) (b : Nat × Place) : Bool :=
  c.kind == .cpw && c.ended.isNone &&
  (c.owes b.1 ||
    (List.range (c.len / 4096 + 2)).any fun i =>
      let va := (c.dst / 4096 + i) * 4096 + b.2.byteKey.2.2 % 4096
      c.owes va && (match checkAccess s (c.who s) va 1 .write with
        | .ok q => q.byteKey == b.2.byteKey
        | _ => false))

/-- Has an earlier copy of the group, or an earlier lane of the instruction, still to write a byte (R228)? -/
def byteBlocked (s : State) (id : Nat) (c : CopyOp) (lane : Nat) (b : Nat × Place) : Bool :=
  ((earlierOps s id { c with twinSeq := none }).any fun e =>
    (e.2.kind != .stamp && e.2.lanes.any fun m => (e.2.unwritten m).any fun i => sameByte b (m.outAt i)) ||
      e.2.bulkOwes s b) ||
  (c.lanes.takeWhile fun m => m.lane != lane).any fun m => (c.unwritten m).any fun i => sameByte b (m.outAt i)

/-- The bytes of a lane that may be written now. -/
def openBytes (s : State) (id : Nat) (c : CopyOp) (l : LaneCopy) : List Nat :=
  (c.unwritten l).filter fun i => c.known l i && !byteBlocked s id c l.lane (l.outAt i)

/-- Read one of a lane's operands where it lies now; bytes, or the code a target reports. -/
def copyRead (s : State) (who : Who) (a : Option (Nat × Place)) (w : Nat) : State × Got :=
  match a with
  | none => (s, .bytes [])
  | some (va, p) =>
    match placeNow s who va w .read p with
    | .ok q => if linkLost s q then (s, .report 0x13) else readPlace s who q w
    | _ => (s, .report 0xA)

/-- A write through a window of a paired team is performed once, and reaches the window of its other copy too (R236). -/
def mirrorThrough (s : State) (tid : Nat) (p : Place) (bs : List Byte) : State :=
  match p with
  | .stashThrough off _ =>
    if (teamOf s tid).paired then modTeam s (twinOf tid) fun t => { t with stash := putBytes t.stash off bs } else s
  | _ => s

/-- Write one byte of a lane where it lies now; the code a target reports. -/
def copyByte (s : State) (who : Who) (a : Nat × Place) (b : Byte) : State × Nat :=
  match placeNow s who a.1 1 .write a.2 with
  | .ok q =>
    if linkLost s q then (partWrite s q [b] (4 * a.1), 0x13)
    else
      match writePlace s who q [b] .nl1 with
      | (t, 0) => (mirrorThrough t who.team q [b], 0)
      | r => r
  | _ => (s, 0xA)

/-- Write bytes of a lane, until a target reports. -/
def copyBytes (who : Who) (l : LaneCopy) (byte : Nat → Byte) : State → List Nat → LaneCopy → State × LaneCopy × Nat
  | s, [], k => (s, k, 0)
  | s, i :: is, k =>
    match copyByte s who (l.outAt i) (byte i) with
    | (t, 0) => copyBytes who l byte t is { k with wrote := i :: k.wrote }
    | (t, c) => (t, k, c)

/-- The bytes of an operand read, where they were to be read in this step. -/
def takeRead (s : State) (who : Who) (a : Option (Nat × Place)) (at_ n : Nat) (now : List Nat) (l : LaneCopy) : State × LaneCopy × Nat :=
  if !(now.any fun i => at_ ≤ i && i < at_ + n) then (s, l, 0)
  else
    match copyRead s who a n with
    | (t, .report k) => (t, l, k)
    | (t, .bytes bs) =>
      (t, { l with got := (now.filter fun i => at_ ≤ i && i < at_ + n).foldl (fun m i => mput i (bs.getD (i - at_) 0) m) l.got }, 0)

/-- A lane ends: it reports its bytes, and with a code its group will record it (R229). Memory poison of a source passes to
the lane's destination. -/
def endLane (s : State) (who : Who) (c : CopyOp) (l : LaneCopy) (code : Nat) (source : Bool) : State × LaneCopy × Option CopyFail :=
  let s1 := if code == 5 && source then
      c.outs.foldl (fun t i =>
        match placeNow t who (l.outAt i).1 1 .write (l.outAt i).2 with
        | .ok q => poisonDest t who q 1 (4 * (l.outAt i).1)
        | _ => t) s
    else s
  (s1, { l with done := true },
    some { code := code, lost := code == 5 && source && (inCoreStore l.dst.2 || (l.meta_.any fun m => c.kind == .compact && inCoreStore m.2))
           own := l.own })

/-- Perform some of a lane of an operation: some of the bytes that it has not read are read, and some of those that may be
written are written, in an order that the spec leaves open (R228 to R232). -/
def performLane (s : State) (id : Nat) (c : CopyOp) (l : LaneCopy) : State × LaneCopy × Option CopyFail :=
  let who := c.who s
  let now := someOf s.tick (2 ^ 54 + 1024 * l.lane) (c.ins.filter fun i => (mfind i l.got).isNone)
  match takeRead s who l.src 0 c.srcSize now l with
  | (t, l1, 0) =>
    (match takeRead t who l.meta_ 256 c.metaIn now l1 with
      | (u, l2, 0) =>
        let d := c.data l2
        let put := someOf s.tick (2 ^ 54 + 1024 * l.lane + 512) (openBytes u id c l2)
        (match copyBytes who l2 (fun i => if i < 256 then d.1.getD i 0 else d.2.1.getD (i - 256) 0) u put l2 with
          | (v, l3, 0) =>
            if (c.unwritten l3).isEmpty then
              (modCore v who.core fun x =>
                { x with loss := min 0xFFFF (x.loss + d.2.2.1), mdbad := min 0xFFFF (x.mdbad + d.2.2.2) }, { l3 with done := true }, none)
            else (v, l3, none)
          | (v, l3, k) => endLane v who c l3 k false)
      | (u, l2, k) => endLane u who c l2 k true)
  | (t, l1, k) => endLane t who c l1 k true

/-- Does an access of a lane have to wait for its place? -/
def laneWaits (s : State) (c : CopyOp) (l : LaneCopy) : Bool :=
  let who := c.who s
  let waits := fun (a : Nat × Place) (w : Nat) (k : Kind) => match placeNow s who a.1 w k a.2 with
    | .wait _ => true
    | _ => false
  waits l.dst c.dstSize .write ||
    (match l.src with
      | some a => waits a c.srcSize .read
      | none => false) ||
    (match l.meta_ with
      | some a => waits a (c.metaIn + c.metaOut) (if c.kind == .compact then .write else .read)
      | none => false)

/-- May a lane go on: has it a byte to read, or one to write now? -/
def laneReady (s : State) (id : Nat) (c : CopyOp) (l : LaneCopy) : Bool :=
  !l.done && !laneWaits s c l &&
  ((c.ins.any fun i => (mfind i l.got).isNone) || !(openBytes s id c l).isEmpty)

/-- Has an operation that is still in the queue a later stamp or copy of its group behind it, which a save waits for
(R236)? -/
def laterOps (s : State) (id : Nat) (c : CopyOp) : Bool :=
  s.copies.any fun e => decide (id < e.1) && e.2.team == c.team && e.2.group == c.group && e.2.kind != .cpw

/-- Does an operation hold one of the entries of its engine: are there fewer than 64, and fewer than 16 of its group, before
it (R226)? -/
def hasEntry (s : State) (id : Nat) (c : CopyOp) : Bool :=
  entriesFree ((engineOps s (teamOf s c.team).core).filter fun e => decide (e.1 < id)) c.team c.group

/-- Does the team of an operation let it move: it is on a core; while it is being saved, a bulk copy moves on to the end of
its line, or past it where something behind it is still to be performed (R236, log 45)? -/
def copyMoves (s : State) (id : Nat) (c : CopyOp) : Bool :=
  hasEntry s id c &&
  (match mfind c.team s.teams with
    | some t => t.loc == .resident || (t.loc == .saving && (c.kind != .cpw || c.line.isSome || laterOps s id c))
    | none => false)

/-- The lanes of an operation that may be performed next. -/
def readyLanes (s : State) (id : Nat) (c : CopyOp) : List LaneCopy :=
  if copyMoves s id c && c.kind != .cpw && c.kind != .stamp then c.lanes.filter (laneReady s id c) else []

/-! ## Bulk copies (R235) -/

/-- The line that a bulk copy goes on with: the one it is at, or any that it has not begun. -/
def CopyOp.bulkLine (c : CopyOp) (tick : Nat) : Option BulkLine :=
  match c.line with
  | some l => some l
  | none =>
    let n := countIn c.gaps
    if n == 0 then none else some { num := nthIn c.gaps (if n ≤ 1 then 0 else Config.freeNat tick (2 ^ 53) % n) }

/-- Destination, source and bytes of a line. -/
def CopyOp.lineAt (c : CopyOp) (num : Nat) : Nat × Nat × Nat :=
  let lo := if num == 0 then 0 else 128 * num - c.dst % 128
  let hi := min c.len (128 * (num + 1) - c.dst % 128)
  ((c.dst + lo) % 2 ^ 56, (c.src + lo) % 2 ^ 56, hi - lo)

/-- The first unit of a line that cannot be reached now. -/
def lineBad (s : State) (c : CopyOp) (a : Nat × Nat × Nat) : Option (Nat × Check × Kind) :=
  let who := c.who s
  let bad := fun (va : Nat) (k : Kind) =>
    match checkAccess s who va 16 k with
    | .ok (.device _) => some (va, Check.bad 2 (some { mal := false, lvl := 0 }), k)
    | .ok _ => none
    | x => some (va, x, k)
  (List.range (a.2.2 / 16)).findSome? fun i => (bad ((a.2.1 + 16 * i) % 2 ^ 56) .read).or (bad ((a.1 + 16 * i) % 2 ^ 56) .write)

/-- Does a bulk copy wait for the release of a fault-queue entry? -/
def cpwBlocked (s : State) (c : CopyOp) : Bool :=
  match c.blocked with
  | some va => (faultEntry s (c.who s).core c.cid va).isSome
  | none => false

/-- Has hcancel asked a bulk copy to stop? -/
def cpwCancelled (s : State) (c : CopyOp) : Bool :=
  c.handles.any fun h =>
    match mfind h.2.1 (teamOf s h.1).handles with
    | some e => e.seq == h.2.2 && e.cancel
    | none => false

/-- The bytes of a line that may be written now: they have been read, and no earlier copy of the group still has to write
them (R228). -/
def lineOpen (s : State) (id : Nat) (c : CopyOp) (a : Nat × Nat × Nat) (l : BulkLine) : List Nat :=
  (List.range a.2.2).filter fun i =>
    (mfind i l.got).isSome && !l.wrote.contains ((a.1 + i) % 128) &&
    (match checkAccess s (c.who s) ((a.1 + i) % 2 ^ 56) 1 .write with
      | .ok p => !byteBlocked s id { c with lanes := [] } 0 ((a.1 + i) % 2 ^ 56, p)
      | _ => false)

/-- May a bulk copy go on: it is not at its end, not stopped, and not waiting? After hcancel it begins no line. -/
def cpwReady (s : State) (id : Nat) (c : CopyOp) : Bool :=
  c.kind == .cpw && c.ended.isNone && copyMoves s id c && !cpwBlocked s c &&
  !(c.line.isNone && cpwCancelled s c) &&
  (match c.bulkLine s.tick with
    | none => false
    | some l =>
      let a := c.lineAt l.num
      match lineBad s c a with
      | some (_, .wait _, _) => false
      | some (va, .bad _ (some _), _) => faultRoom s (c.who s).core c.cid va
      | some _ => true
      | none => ((List.range a.2.2).any fun i => (mfind i l.got).isNone) || !(lineOpen s id c a l).isEmpty)

/-- Read bytes of a line by its 16-byte units, keeping those that are read now. -/
def lineRead (who : Who) (src : Nat) (now : List Nat) : State → List Nat → Map Byte → State × Map Byte × Nat
  | s, [], m => (s, m, 0)
  | s, u :: us, m =>
    let mine := now.filter fun i => i / 16 == u
    if mine.isEmpty then lineRead who src now s us m
    else
      match readVa s who ((src + 16 * u) % 2 ^ 56) 16 .read with
      | (t, .report k) => (t, m, k)
      | (t, .bytes bs) => lineRead who src now t us (mine.foldl (fun m i => mput i (bs.getD (i % 16) 0) m) m)

/-- Write bytes of a line, until a target reports; the line knows them by their offsets in it. -/
def lineWrite (who : Who) (dst : Nat) : State → List Nat → BulkLine → State × BulkLine × Nat
  | s, [], l => (s, l, 0)
  | s, i :: is, l =>
    match writeVa s who ((dst + i) % 2 ^ 56) [mget 0 i l.got] .nl1 with
    | (t, 0) => lineWrite who dst t is { l with wrote := (dst + i) % 128 :: l.wrote }
    | (t, k) => (t, l, k)

/-- A bulk copy has written a whole line: as one access it clears the line's marker (R358). -/
def lineDone (s : State) (who : Who) (a : Nat × Nat × Nat) : State :=
  if a.2.2 != 128 then s
  else
    match checkAccess s who a.1 16 .write with
    | .ok (.normal pa) => clearMark s pa
    | _ => s

/-- Move some of a line of a bulk copy, or meet what ends or blocks it (R228, R235). -/
def cpwStep (s : State) (id : Nat) (c : CopyOp) : State × CopyOp :=
  let who := c.who s
  match c.bulkLine s.tick with
  | none => (s, c)
  | some l =>
    let a := c.lineAt l.num
    let gaps := cutOne l.num c.gaps
    match lineBad s c a with
    | some (va, .bad code (some tr), kind) =>
      (openFault (noteTranslation s who va (.bad code (some tr))) who.core c.cid c.icn va code kind.code tr.lvl tr.mal false false,
        { c with blocked := some va })
    | some (va, .bad code none, _) => (noteDenial s who va (.bad code none), { c with ended := some (3, code) })
    | some _ => (s, c)
    | none =>
      let now := someOf s.tick (2 ^ 54) ((List.range a.2.2).filter fun i => (mfind i l.got).isNone)
      match lineRead who a.2.1 now s (List.range (a.2.2 / 16)) l.got with
      | (t, _, k + 1) => (t, { c with ended := some (3, k + 1) })
      | (t, m, 0) =>
        let l1 := { l with got := m }
        match lineWrite who a.1 t (someOf s.tick (2 ^ 54 + 512) (lineOpen t id c a l1)) l1 with
        | (u, _, k + 1) => (u, { c with ended := some (3, k + 1) })
        | (u, l2, 0) =>
          if a.2.2 ≤ l2.wrote.length then (lineDone u who a, { c with gaps := gaps, line := none, blocked := none })
          else (u, { c with gaps := gaps, line := some l2, blocked := none })

/-! ## The steps -/

/-- Put an operation back, or drop it once nothing of it is left to report. -/
def putCopy (s : State) (id : Nat) (c : CopyOp) : State :=
  if !c.busy && c.owed.isEmpty && c.fails.isEmpty && c.kind != .cpw then { s with copies := merase id s.copies }
  else { s with copies := mput id c s.copies }

/-- Is a stamp of the group issued after an operation? -/
def CopyOp.stampAfter (c : CopyOp) (id : Nat) (d : CopyOp) : Bool :=
  d.kind == .stamp && d.group == c.group &&
  ((d.team == c.team && decide (id < d.seq)) ||
    (d.team == twinOf c.team && (match d.twinSeq with
      | some q => decide (id < q)
      | none => false)))

/-- Stamps of the group issued after an operation that fails are not written, whether they stand in the queue or in the
store buffer (R229). -/
def withholdStamps (s : State) (id : Nat) (c : CopyOp) : State :=
  let mark := fun (d : CopyOp) => if c.stampAfter id d then { d with withheld := true } else d
  let item := fun (i : Item) => match i.eff with
    | .copy d => { i with eff := .copy (mark d) }
    | _ => i
  { s with
    copies := s.copies.map fun (e : Nat × CopyOp) => (e.1, mark e.2)
    teams := mmod c.team (fun t => { t with items := t.items.map item }) s.teams }

/-- COPY_PERFORMED: some of one lane of a queued copy, or of a line of a bulk copy, is performed (R228, R235). -/
def execCopyPerformed (id : Nat) (s : State) : Out := .next <|
  match mfind id s.copies with
  | none => s
  | some c =>
    if c.kind == .cpw then
      if cpwReady s id c then
        let p := cpwStep s id c
        { p.1 with copies := mput id p.2 p.1.copies }
      else s
    else
      let ready := readyLanes s id c
      match shuffle s.tick ready.length ready with
      | [] => s
      | l :: _ =>
        let p := performLane s id c l
        let c1 := { c with
          lanes := c.lanes.map fun m => if m.lane == l.lane then p.2.1 else m
          owed := if c.bar.isSome && p.2.1.done then c.owed ++ [l.own] else c.owed
          fails := match p.2.2 with
            | some f => c.fails ++ [f]
            | none => c.fails }
        let s1 := if p.2.2.isSome then withholdStamps p.1 id c else p.1
        putCopy s1 id c1

/-- A team and, in a paired team, its other copy (R353). -/
def bothCopies (s : State) (tid : Nat) : List Nat :=
  if (teamOf s tid).paired then [copy0 tid, copy0 tid + copyOne] else [tid]

/-- The copies of a paired team that hear of a lane: both, or the one that performed it for itself (R236). -/
def hearers (s : State) (c : CopyOp) (own : Bool) : List Nat := if own then [c.team] else bothCopies s c.team

/-- BARRIER_COPY_COMPLETION: an ended lane reports its bytes to the barrier, in a paired team that of each copy that it
stands for (R168, R231, R236). -/
def execBarrierCopyCompletion (id : Nat) (s : State) : Out := .next <|
  match mfind id s.copies with
  | none => s
  | some c =>
    match c.bar, c.owed with
    | some bar, own :: rest =>
      putCopy ((hearers s c own).foldl (fun t k =>
        let b := if k == c.team then bar else c.twinBar.getD bar
        barrierReport t k b.1 b.2 c.size) s) id { c with owed := rest }
    | _, _ => s

/-- Record the first copy code of a group (R229). -/
def Group.noteCopyCode (g : Group) (f : CopyFail) : Group :=
  if g.copyCode == 0 then { g with copyCode := f.code, copyLost := f.lost, reportFirst := g.reportCode != 0 } else g

/-- COPY_FAILURE_REPORT: the group records the code of an ended lane (R229). -/
def execCopyFailureReport (id : Nat) (s : State) : Out := .next <|
  match mfind id s.copies with
  | none => s
  | some c =>
    match c.fails with
    | [] => s
    | f :: fs =>
      let s1 := (hearers s c f.own).foldl (fun t k => modGroup t k c.group fun g => g.noteCopyCode f) s
      putCopy s1 id { c with fails := fs }

/-- Has the group a copy in a store buffer that was issued before a stamp (R234, R236)? -/
def earlierItems (s : State) (c : CopyOp) : Bool :=
  let before := fun (tid : Nat) (q : Nat) => (teamOf s tid).items.any fun i =>
    i.group == c.group && (match i.eff with
      | .copy d => decide (d.seq < q)
      | _ => false)
  before c.team c.seq || (match c.twinSeq with
    | some q => before (twinOf c.team) q
    | none => false)

/-- Does the write of a stamp have to wait for its place? -/
def stampWaits (s : State) (c : CopyOp) : Bool := c.lanes.any fun l => laneWaits s { c with size := 8 } l

/-- May a stamp be written: every earlier operation of its group has been performed, stamps included (R234)? -/
def stampReady (s : State) (id : Nat) (c : CopyOp) : Bool :=
  c.kind == .stamp && copyMoves s id c && !cpwBlocked s c && !stampWaits s c && !earlierItems s c &&
  (earlierOps s id c).all fun e => !e.2.busy

/-- The write of a stamp at its place (R234). -/
def writeStamp (s : State) (who : Who) (c : CopyOp) : State × Nat :=
  match c.lanes with
  | [] => (s, 0)
  | l :: _ =>
    match placeNow s who c.va 8 .write l.dst.2 with
    | .ok q => if linkLost s q then (partWrite s q (toBytes 8 c.val.toNat) (4 * c.va), 0x13) else writePlace s who q (toBytes 8 c.val.toNat) .nl1
    | _ => (s, 0xA)

/-- The other copy of a paired team holds the lines that copy 0 has written back clean too (R236). -/
def cleanTwin (s : State) (tid : Nat) (before : List Nat) : State :=
  if !(teamOf s tid).paired then s
  else
    let gone := before.filter fun o => !(teamOf s tid).dirty.contains o
    modTeam s (twinOf tid) fun t => { t with dirty := t.dirty.filter fun o => !gone.contains o }

/-- STAMP_WRITE: the stamp is a release at its scope, so that the stash is written back first (R186), and is written unless
a covered copy failed (R229, R234). A write-back that fails its translation opens a fault-queue entry, and the stamp waits
for its release (R222); another failure, or one released with .fail, is recorded as a copy code of the group (log 45). -/
def execStampWrite (id : Nat) (s : State) : Out := .next <|
  match mfind id s.copies with
  | none => s
  | some c =>
    if !stampReady s id c then s
    else
      let s1 := { s with copies := merase id s.copies }
      let who := c.who s1
      let fails := fun (t : State) (code : Nat) =>
        (bothCopies t c.team).foldl (fun u k => modGroup u k c.group fun g => g.noteCopyCode { code := code, lost := false }) t
      if c.withheld then s1
      else
        match c.ended with
        | some e => fails s1 e.2
        | none =>
          match if scopeAtLeastCore c.scope then writeBack s1 who fun _ => true else (s1, none) with
          | (t, none) =>
            (match writeStamp (release (cleanTwin t c.team (teamOf s1 c.team).dirty) who c.scope) who c with
              | (u, code) => (bothCopies s c.team).foldl (fun v k => reportIf v k c.group code) u)
          | (t, some f) =>
            match f.wait, f.tr with
            | some _, _ => { cleanTwin t c.team (teamOf s1 c.team).dirty with copies := s.copies }
            | none, some e =>
              if f.code == 1 then
                if faultRoom t who.core c.cid f.va then
                  { openFault (cleanTwin t c.team (teamOf s1 c.team).dirty) who.core c.cid c.icn f.va f.code Kind.write.code e.lvl e.mal true false with
                    copies := mput id { c with blocked := some f.va } s1.copies }
                else s
              else fails (cleanTwin t c.team (teamOf s1 c.team).dirty) f.code
            | none, none => fails (cleanTwin t c.team (teamOf s1 c.team).dirty) f.code

/-- The status a bulk copy may end with now (R235). -/
def cpwEnd (s : State) (c : CopyOp) : Option (Nat × Nat) :=
  match c.ended with
  | some e => some e
  | none =>
    if c.gaps.isEmpty && c.line.isNone then some (0, 0)
    else if cpwCancelled s c && c.line.isNone then some (2, 0)
    else none

/-- CPW_COMPLETE: the handle takes its status and the queue entry is free (R235). -/
def execCpwComplete (id : Nat) (s : State) : Out := .next <|
  match mfind id s.copies with
  | none => s
  | some c =>
    if c.kind != .cpw then s
    else
      match cpwEnd s c with
      | none => s
      | some e =>
        c.handles.foldl (fun t h => modTeam t h.1 fun x => x.completeHandle h.2.1 h.2.2 e.1 e.2)
          { s with copies := merase id s.copies }

end Sys2Proof.Machine
end

