-- ==== Sys2Proof/Machine/Special.lean ====
section
/-!
DEFINITION. The special functions of the floating-point pipe on values (06_float.md R115, R116; Tables 6.2, 6.3):
what Table 6.3 fixes is computed; elsewhere the result is any value within the bound of Table 6.2, a fixed function of
the input bits and FTZ that nothing can say more about (log 3, log 10). Exact results are taken to 320 fraction bits.
-/

namespace Sys2Proof.Machine

open Sys2Proof

/-! ## Square roots -/

/-- The integer square root of x below (r + 2^n)^2, from bit n - 1 down. -/
def isqrtFrom : Nat → Nat → Nat → Nat
  | 0, r, _ => r
  | n + 1, r, x => if (r + 2 ^ n) * (r + 2 ^ n) ≤ x then isqrtFrom n (r + 2 ^ n) x else isqrtFrom n r x

/-- The integer square root. -/
def isqrt (x : Nat) : Nat := isqrtFrom (Nat.log2 x / 2 + 1) 0 x

/-- m * 2^e with an even exponent. -/
def evenExp (m : Nat) (e : Int) : Nat × Int := if e % 2 == 0 then (m, e) else (2 * m, e - 1)

/-- sqrt (m * 2^e) as num / 2 * 2^q, correct for every rounding of at most 60 bits. -/
def sqrtParts (m : Nat) (e : Int) : Nat × Int :=
  let p := evenExp m e
  let x := p.1 * 2 ^ 128
  let s := isqrt x
  (2 * s + b2n (s * s != x), p.2 / 2 - 64)

/-- 1 / sqrt (m * 2^e) in the same form. -/
def rsqrtParts (m : Nat) (e : Int) : Nat × Int :=
  let p := evenExp m e
  let s := isqrt (2 ^ 256 / p.1)
  (2 * s + b2n (s * s * p.1 != 2 ^ 256), -(p.2 / 2) - 128)

/-! ## Fixed point with 320 fraction bits -/

/-- One in fixed point. -/
def fx1 : Nat := 2 ^ 320

/-- Sum of t * z^(2k) / (2k + 1) over n terms from k on: the inverse hyperbolic tangent. -/
def atanhFrom (z2 : Nat) : Nat → Nat → Nat → Nat
  | 0, _, _ => 0
  | n + 1, k, t => t / (2 * k + 1) + atanhFrom z2 n (k + 1) (t * z2 / fx1)

/-- atanh of a fixed-point number at most 1/3. -/
def atanhFx (z : Nat) : Nat := atanhFrom (z * z / fx1) 104 0 z

/-- The alternating sum: the inverse tangent. -/
def atanFrom (z2 : Nat) : Nat → Nat → Int → Int
  | 0, _, _ => 0
  | n + 1, k, t => t / ((2 * k + 1 : Nat) : Int) + atanFrom z2 n (k + 1) (-(t * (z2 : Int)) / (fx1 : Int))

/-- Pi, by Machin's formula. -/
def piFx : Nat :=
  (16 * atanFrom (fx1 / 25) 72 0 ((fx1 / 5 : Nat) : Int) - 4 * atanFrom (fx1 / 57121) 24 0 ((fx1 / 239 : Nat) : Int)).toNat

/-- log2 of a fixed-point number from 1 to 2. -/
def log2Fx (m : Nat) : Nat := atanhFx ((m - fx1) * fx1 / (m + fx1)) * fx1 / atanhFx (fx1 / 3)

/-- Terms of the exponential series from x^k / k! on. -/
def expFrom (x : Nat) : Nat → Nat → Nat → Nat
  | 0, _, _ => 0
  | n + 1, k, t => t + expFrom x n (k + 1) (t * x / fx1 / (k + 1))

/-- 2^f of a fixed-point fraction. -/
def exp2Fx (f : Nat) : Nat := expFrom (f * (2 * atanhFx (fx1 / 3)) / fx1) 80 0 fx1

/-- Terms of the sine series. -/
def sinFrom (x2 : Nat) : Nat → Nat → Int → Int
  | 0, _, _ => 0
  | n + 1, k, t => t + sinFrom x2 n (k + 1) (-(t * (x2 : Int)) / (fx1 : Int) / (((2 * k + 2) * (2 * k + 3) : Nat) : Int))

/-- sin (2 pi r) of a fixed-point r from 0 to 1/4. -/
def sinTurnFx (r : Nat) : Nat :=
  let x := 2 * piFx * r / fx1
  (sinFrom (x * x / fx1) 48 0 (x : Int)).toNat

/-! ## Choosing within a bound -/

/-- Is a finite candidate within num * 2^bq of v * 2^q? -/
def withinBound (cand : FV) (v : Int) (q : Int) (num : Nat) (bq : Int) : Bool :=
  match cand with
  | .fin s m e =>
    let z := min e (min q bq)
    let c := FV.at z (.fin s m e)
    decide ((c - v * ((2 ^ (q - z).toNat : Nat) : Int)).natAbs ≤ num * 2 ^ (bq - z).toNat)
  | _ => false

/-- The result of an f32 special function with exact result v * 2^q, not representable: any f32 within the bound
(Table 6.2), with the flags of the exact result (R116). Under FTZ a subnormal that is returned is flushed and sets UF, even
where the exact result is not tiny: R94 says so, R116 takes flags from the exact result (DESIGN CHOICE, log 82). -/
def boundedOf (op x : Nat) (ftz : Bool) (v : Int) (q : Int) (num : Nat) (bq : Int) : Nat × Flags :=
  let near := fmt32.round .rne false (decide (v < 0)) v.natAbs 1 q
  let w := (Config.special op x ftz).toNat
  let res := if withinBound (fmt32.decode w) v q num bq then w else near.1
  fmt32.flush ftz (res, { nx := true, uf := near.2.uf })

/-- A correctly faithful result (Table 6.2): exact, or one of the neighbours; an exact result above the largest finite
value is an infinity with OF (R116). -/
def faithfulOf (f : Fmt) (op x : Nat) (ftz neg : Bool) (num den : Nat) (e : Int) : Nat × Flags :=
  let lo := f.round .rz false neg num den e
  let hi := f.round (if neg then .rm else .rp) false neg num den e
  let sg := if neg then f.sign else 0
  let r : Nat × Flags :=
    if lo.2.of_ || (lo.1 == sg + f.maxBits && lo.2.nx) then (sg + f.inf, { of_ := true, nx := true })
    else if !lo.2.nx then (lo.1, {})
    else
      let uf := (f.round .rne false neg num den e).2.uf
      (if Config.faithfulUp op (2 * x + b2n ftz) then hi.1 else lo.1, { nx := true, uf := uf })
  f.flush ftz r

/-! ## The functions (Table 6.3) -/

/-- frcp. -/
def frcpOf (f : Fmt) (ftz : Bool) (x : Nat) : Nat × Flags :=
  match f.read ftz x with
  | .nan s => (f.nan, { io := s })
  | .inf n => (if n then f.sign else 0, {})
  | .fin n m e =>
    if m == 0 then ((if n then f.sign else 0) + f.inf, { dz := true })
    else faithfulOf f 0 x ftz n 1 m (-e)

/-- frsq. -/
def frsqOf (f : Fmt) (ftz : Bool) (x : Nat) : Nat × Flags :=
  match f.read ftz x with
  | .nan s => (f.nan, { io := s })
  | .inf n => if n then (f.nan, { io := true }) else (0, {})
  | .fin n m e =>
    if m == 0 then ((if n then f.sign else 0) + f.inf, { dz := true })
    else if n then (f.nan, { io := true })
    else
      let p := rsqrtParts m e
      faithfulOf f 1 x ftz false p.1 2 p.2

/-- fsqrt: correctly rounded. -/
def fsqrtOf (f : Fmt) (rnd : Rnd) (ftz : Bool) (x : Nat) : Nat × Flags :=
  match f.read ftz x with
  | .nan s => (f.nan, { io := s })
  | .inf n => if n then (f.nan, { io := true }) else (f.inf, {})
  | .fin n m e =>
    if m == 0 then (if n then f.sign else 0, {})
    else if n then (f.nan, { io := true })
    else
      let p := sqrtParts m e
      f.flush ftz (f.round rnd false false p.1 2 p.2)

/-- fexp2 (R115, R116). Where 2^b is subnormal its ulp is taken as the spacing of f32 there, 2^-149, which Table 6.2 does not
say (DESIGN CHOICE, log 82). -/
def fexp2Of (ftz : Bool) (x : Nat) : Nat × Flags :=
  match fmt32.read ftz x with
  | .nan s => (fmt32.nan, { io := s })
  | .inf n => (if n then 0 else fmt32.inf, {})
  | .fin n m e =>
    if m == 0 then (0x3F800000, {})
    else
      -- an exponent beyond every f32 is taken as such
      let big := decide (10 ≤ floorLog2 m 1 e)
      let sg : Int := if n then -1 else 1
      let num : Int := if big then sg * 1024 else sg * ((m * 2 ^ (e + 149).toNat : Nat) : Int)
      let den : Int := if big then 1 else ((2 ^ 149 : Nat) : Int)
      let i := num / den
      let fr := (num % den).toNat
      if 128 ≤ i then (fmt32.inf, { of_ := true, nx := true })
      else
        let v := if fr == 0 then fx1 else exp2Fx (fr * 2 ^ (320 - 149))
        let q := i - 320
        let ulp := max i (-126) - 23
        if fr == 0 && decide (-126 ≤ i) then ((i + 127).toNat * 2 ^ 23, {})
        else if fr == 0 && decide (-149 ≤ i) then
          let r := boundedOf 2 x false (v : Int) q 2 ulp
          fmt32.flush ftz (r.1, {})
        else
          let near := fmt32.round .rz false false v 1 q
          if near.1 == fmt32.maxBits || near.2.of_ then (fmt32.inf, { of_ := true, nx := true })
          else boundedOf 2 x ftz (v : Int) q 2 ulp

/-- flog2. -/
def flog2Of (ftz : Bool) (x : Nat) : Nat × Flags :=
  match fmt32.read ftz x with
  | .nan s => (fmt32.nan, { io := s })
  | .inf n => if n then (fmt32.nan, { io := true }) else (fmt32.inf, {})
  | .fin n m e =>
    if m == 0 then (fmt32.sign + fmt32.inf, { dz := true })
    else if n then (fmt32.nan, { io := true })
    else
      let k := floorLog2 m 1 e
      if m == 2 ^ Nat.log2 m then fmt32.roundFV .rne false (.fin (decide (k < 0)) k.natAbs 0)
      else
        let v : Int := k * (fx1 : Int) + ((log2Fx (m * 2 ^ (320 - Nat.log2 m)) : Nat) : Int)
        -- k is 0 above 1 and -1 below: inside [0.5, 2]
        if k == 0 || k == -1 then boundedOf 3 x ftz v (-320) 1 (-22)
        else boundedOf 3 x ftz v (-320) 2 (floorLog2 v.natAbs 1 (-320) - 23)

/-- sin (2 pi r) of a fixed-point r from 0 to 1, with its sign. -/
def sinAnyFx (r : Nat) : Int :=
  let half := fx1 / 2
  let neg := half < r
  let a := if neg then r - half else r
  let b := if fx1 / 4 < a then half - a else a
  if neg then -((sinTurnFx b : Nat) : Int) else ((sinTurnFx b : Nat) : Int)

/-- fsin and fcos, arguments in turns. -/
def fturnOf (cos : Bool) (ftz : Bool) (x : Nat) : Nat × Flags :=
  match fmt32.read ftz x with
  | .nan s => (fmt32.nan, { io := s })
  | .inf _ => (fmt32.nan, { io := true })
  | .fin n m e =>
    let num : Int := if 0 ≤ e then 0 else (if n then -(m : Int) else (m : Int))
    let k := (-e).toNat
    -- the fraction of a turn, in 320 bits, exactly
    let r := (num % ((2 ^ k : Nat) : Int)).toNat * 2 ^ (320 - k)
    let q := fx1 / 4
    if r == 0 then (if cos then 0x3F800000 else if n then fmt32.sign else 0, {})
    else if r == q then (if cos then 0 else 0x3F800000, {})
    else if r == 2 * q then (if cos then 0xBF800000 else 0, {})
    else if r == 3 * q then (if cos then 0 else 0xBF800000, {})
    else boundedOf (if cos then 5 else 4) x ftz (sinAnyFx (if cos then (r + q) % fx1 else r)) (-320) 1 (-22)

end Sys2Proof.Machine
end

