-- ==== Sys2Proof/Machine/Float.lean ====
section
/-!
DEFINITION. The floating-point instructions (06_float.md R110 to R117, R119, R120).
-/

namespace Sys2Proof.Machine

open Sys2Proof

/-! ## Operands and results -/

/-- An immediate of a floating type: the integer, converted exactly (R10). -/
def immF (f : Fmt) (i : BitVec 8) : Nat :=
  let v := toSigned 8 i.toNat
  (f.roundFV .rne false (.fin (decide (v < 0)) v.natAbs 0)).1

/-- A C or E source of a floating type in a lane (R111). -/
def Run.fsrc (r : Run) (f : Fmt) (x : Src) (l : Nat) : PV Nat :=
  match x with
  | .imm i => .ok (immF f i)
  | _ => r.src x f.width l

/-- The B source of a floating type. -/
def Run.fB (r : Run) (f : Fmt) (b : BitVec 8) (l : Nat) : PV Nat := r.g.readV b.toNat l (f.width / 32)

/-- A source of two packed 16-bit elements; an immediate stands in both (R111). -/
def Run.psrc (r : Run) (f : Fmt) (x : Src) (l : Nat) : PV Nat :=
  match x with
  | .imm i => .ok (immF f i + 2 ^ 16 * immF f i)
  | _ => r.src x 32 l

/-- The format of TYPE, f32 where it is not a floating type. -/
def fmtTy (ty : NumType) : Fmt := (fmtOf ty).getD fmt32

/-- Results with flags per active lane; a poisoned lane sets none (R69, R108). -/
def Run.lanesF (r : Run) (a k : Nat) (f : Nat → PV (Nat × Flags)) : State :=
  r.done (r.act.foldl (fun g l =>
    match f l with
    | .bad t => g.writeV a l k (.bad t)
    | .ok v => (g.writeV a l k (.ok v.1)).orFlags v.2) r.g)

/-- Combine operands in order into a result with flags. -/
def combineF (ops : List (PV Nat)) (f : List Nat → Nat × Flags) : PV (Nat × Flags) :=
  match firstTok ops with
  | some t => .bad t
  | none => .ok (f (ops.map PV.val))

/-- Round an exact result that had flags, after operands that were read (R95, R107). -/
def finish (f : Fmt) (rnd : Rnd) (sat ftz : Bool) (ops : List FV) (v : FV × Flags) : Nat × Flags :=
  let r := f.flush ftz (f.roundFV rnd sat v.1)
  (r.1, (sigFlags ops).or (v.2.or r.2))

/-! ## Arithmetic (R113) -/

/-- fadd. -/
def faddOf (f : Fmt) (rnd : Rnd) (sat ftz : Bool) (b c : Nat) : Nat × Flags :=
  let vs := [f.read ftz b, f.read ftz c]
  finish f rnd sat ftz vs (FV.sum rnd vs)

/-- fsub. -/
def fsubOf (f : Fmt) (rnd : Rnd) (sat ftz : Bool) (b c : Nat) : Nat × Flags :=
  let x := f.read ftz b
  let y := f.read ftz c
  finish f rnd sat ftz [x, y] (FV.sum rnd [x, y.negate])

/-- fmul. -/
def fmulOf (f : Fmt) (rnd : Rnd) (sat ftz : Bool) (b c : Nat) : Nat × Flags :=
  let x := f.read ftz b
  let y := f.read ftz c
  finish f rnd sat ftz [x, y] (x.mul y)

/-- ffma: the product exact, one rounding. -/
def ffmaOf (f : Fmt) (rnd : Rnd) (sat ftz : Bool) (b c e : Nat) : Nat × Flags :=
  let x := f.read ftz b
  let y := f.read ftz c
  let z := f.read ftz e
  let p := x.mul y
  let t := FV.sum rnd [p.1, z]
  finish f rnd sat ftz [x, y, z] (t.1, p.2.or t.2)

/-- fmin and fmax. -/
def fpickOf (f : Fmt) (wantMax ftz : Bool) (b c : Nat) : Nat × Flags :=
  let x := f.read ftz b
  let y := f.read ftz c
  ((f.roundFV .rne false (FV.pick wantMax x y)).1, sigFlags [x, y])

/-- fcmp by F: the truth and the flags. -/
def fcmpOf (f : Fmt) (cond : Nat) (ftz : Bool) (b c : Nat) : Bool × Flags :=
  let x := f.read ftz b
  let y := f.read ftz c
  let u := x.isNaN || y.isNaN
  let k := x.cmp y
  let t := match cond with
    | 0 => !u && k == 0 | 1 => u || k != 0 | 2 => !u && decide (k < 0) | 3 => !u && decide (k ≤ 0)
    | 4 => !u && decide (0 < k) | 5 => !u && decide (0 ≤ k) | 6 => u | _ => !u
  (t, { io := (sigFlags [x, y]).io || (u && decide (2 ≤ cond) && decide (cond ≤ 5)) })

/-- fround: to an integral value; F 1 sets NX. -/
def froundOf (f : Fmt) (rnd : Rnd) (x ftz : Bool) (b : Nat) : Nat × Flags :=
  match f.read ftz b with
  | .nan s => (f.nan, { io := s })
  | .inf n => ((if n then f.sign else 0) + f.inf, {})
  | .fin n m e =>
    if 0 ≤ e then f.roundFV rnd false (.fin n m e)
    else
      let k := roundFrac rnd n m (2 ^ (-e).toNat)
      ((f.roundFV rnd false (.fin n k 0)).1, { nx := x && k * 2 ^ (-e).toNat != m })

/-- fclass of the raw bits. -/
def fclassOf (f : Fmt) (b : Nat) : Nat :=
  match f.decode b with
  | .nan s => if s then 1 else 2
  | .inf n => if n then 4 else 0x200
  | .fin n m _ =>
    if m == 0 then (if n then 0x20 else 0x40)
    else if f.subnormal b then (if n then 0x10 else 0x80)
    else if n then 8 else 0x100

/-- fldexp: a count beyond every exponent acts as one that is. -/
def fldexpOf (f : Fmt) (rnd : Rnd) (sat ftz : Bool) (b n : Nat) : Nat × Flags :=
  let v := f.read ftz b
  let k := max (-8192) (min 8192 (toSigned 32 n))
  match v with
  | .fin s m e => finish f rnd sat ftz [v] (.fin s m (e + k), {})
  | _ => finish f rnd sat ftz [v] (v, {})

/-! ## Division fix-up (R117) -/

/-- IEEE division. -/
def fdivOf (f : Fmt) (rnd : Rnd) (sat ftz : Bool) (x y : FV) : Nat × Flags :=
  let sg := fun (n : Bool) => if n then f.sign else 0
  match x, y with
  | .nan a, z => (f.nan, { io := a || z == .nan true })
  | .inf s, z =>
    match z with
    | .nan b => (f.nan, { io := b })
    | .inf _ => (f.nan, { io := true })
    | .fin t _ _ => (sg (s != t) + f.inf, {})
  | .fin s m e, z =>
    match z with
    | .nan b => (f.nan, { io := b })
    | .inf t => (sg (s != t), {})
    | .fin t n d =>
      if n == 0 then (if m == 0 then (f.nan, { io := true }) else (sg (s != t) + f.inf, { dz := true }))
      else if m == 0 then (sg (s != t), {})
      else f.flush ftz (f.round rnd sat (s != t) m n (e - d))

/-- fdivfix: numerator b, denominator c, candidate e (R117). In the hard case the candidate is not looked at, and a signalling
NaN there sets no IO, where R112 reads every operand (DESIGN CHOICE, log 82). -/
def fdivfixOf (f : Fmt) (rnd : Rnd) (sat ftz : Bool) (b c e : Nat) : Nat × Flags :=
  let x := f.read ftz b
  let y := f.read ftz c
  let sub := fun (w : Nat) => !ftz && f.subnormal w
  match x, y with
  | .fin s m p, .fin t n q =>
    let k := floorLog2 m n (p - q)
    if m == 0 || n == 0 || sub b || sub c || decide (f.emax - 1 ≤ floorLog2 n 1 q) || decide (k < f.emin) ||
        decide (f.emax ≤ k) then fdivOf f rnd sat ftz x y
    else
      match f.read ftz e with
      | .nan sn => (f.nan, { io := sn })
      | .inf i => ((if i then f.sign else 0) + f.inf, {})
      | .fin i me ee =>
        let u := k - (f.fbits : Int)
        let z := min ee (min (p - q) u)
        let cand : Int := FV.at z (.fin i me ee) * (n : Int)
        let quo : Int := FV.at z (.fin (s != t) m (p - q))
        if (cand - quo).natAbs ≤ 4 * 2 ^ (u - z).toNat * n then f.flush ftz (f.round rnd sat (s != t) m n (p - q))
        else ((f.roundFV .rne false (.fin i me ee)).1, {})
  | _, _ => fdivOf f rnd sat ftz x y

/-! ## Packed and dot products (R119) -/

/-- Element j of a packed pair. -/
def half (x j : Nat) : Nat := x / 2 ^ (16 * j) % 2 ^ 16

/-- Two element results, flags of either. -/
def pack2 (a b : Nat × Flags) : Nat × Flags := (a.1 + 2 ^ 16 * b.1, a.2.or b.2)

/-- pkop on element j. -/
def pkopElem (f : Fmt) (op : Nat) (rnd : Rnd) (sat ftz : Bool) (b c : Nat) : Nat × Flags :=
  match op with
  | 0 => faddOf f rnd sat ftz b c
  | 1 => fsubOf f rnd sat ftz b c
  | 2 => fpickOf f false ftz b c
  | _ => fpickOf f true ftz b c

/-- The element of C that pairs with element j: swapped for .swp. -/
def swpElem (swp : Bool) (c j : Nat) : Nat := half c (if swp then 1 - j else j)

/-- fdp2: both products and the addend exact, one rounding to f32. -/
def fdp2Of (f : Fmt) (rnd : Rnd) (sat ftz : Bool) (b c e : Nat) : Nat × Flags :=
  let x := (List.range 2).map fun j => f.read ftz (half b j)
  let y := (List.range 2).map fun j => f.read ftz (half c j)
  let z := fmt32.read ftz e
  let p := x.zipWith FV.mul y
  let t := FV.sum rnd (p.map Prod.fst ++ [z])
  finish fmt32 rnd sat ftz (x ++ y ++ [z]) (t.1, p.foldl (fun a q => a.or q.2) t.2)

/-- idp4: four products of bytes and a 32-bit addend. -/
def idp4Of (ty : NumType) (sat : Bool) (b c e : Nat) : Nat :=
  let sg := signedTy ty
  let el := fun (x j : Nat) => let y := bits x (8 * j + 7) (8 * j); if sg then toSigned 8 y else (y : Int)
  let a : Int := if sg then toSigned 32 e else (e : Int)
  let t := (List.range 4).foldl (fun a j => a + el b j * el c j) a
  let lo : Int := if sg then -2147483648 else 0
  let hi : Int := if sg then 2147483647 else 4294967295
  wrapInt 32 (if sat then max lo (min t hi) else t)

/-- Byte j of a packed register. -/
def byteOf (x j : Nat) : Nat := bits x (8 * j + 7) (8 * j)

/-- lmul.one: the product of element j of both, exact in f32. -/
def lmulOneOf (ftz : Bool) (j b c : Nat) : Nat × Flags :=
  finish fmt32 .rne false ftz [] (l6Product (byteOf b j) (byteOf c j) 0)

/-- lmul.dot: four products and the old A, one rounding. -/
def lmulDotOf (rnd : Rnd) (sat ftz : Bool) (b c a : Nat) : Nat × Flags :=
  let ps := (List.range 4).map fun j => l6Product (byteOf b j) (byteOf c j) 0
  let z := fmt32.read ftz a
  let t := FV.sum rnd (ps.map Prod.fst ++ [z])
  finish fmt32 rnd sat ftz [z] (t.1, ps.foldl (fun x q => x.or q.2) t.2)

/-! ## The forms -/

/-- Sources B, C of a floating type. -/
def Run.f2 (r : Run) (x : Std) (op : Fmt → Bool → Nat → Nat → Nat × Flags) : State :=
  let f := fmtTy x.ty
  r.lanesF x.a.toNat x.ty.regs fun l => combineF [r.fB f x.b l, r.fsrc f x.c l] fun
    | [b, c] => op f r.g.ftz b c | _ => (0, {})
/-- Sources B, C, E of a floating type. -/
def Run.f3 (r : Run) (x : Std) (op : Fmt → Bool → Nat → Nat → Nat → Nat × Flags) : State :=
  let f := fmtTy x.ty
  r.lanesF x.a.toNat x.ty.regs fun l => combineF [r.fB f x.b l, r.fsrc f x.c l, r.fsrc f x.e l] fun
    | [b, c, e] => op f r.g.ftz b c e | _ => (0, {})
/-- Source B of a floating type. -/
def Run.f1 (r : Run) (x : Std) (op : Fmt → Bool → Nat → Nat × Flags) : State :=
  let f := fmtTy x.ty
  r.lanesF x.a.toNat x.ty.regs fun l => combineF [r.fB f x.b l] fun | [b] => op f r.g.ftz b | _ => (0, {})

/-- fadd (R113). -/
def execFadd (x : Std) (s : State) : Out := .next <| gate (.fadd x) s fun r => r.f2 x fun f z => faddOf f x.rnd x.sat z
/-- fsub (R113). -/
def execFsub (x : Std) (s : State) : Out := .next <| gate (.fsub x) s fun r => r.f2 x fun f z => fsubOf f x.rnd x.sat z
/-- fmul (R113). -/
def execFmul (x : Std) (s : State) : Out := .next <| gate (.fmul x) s fun r => r.f2 x fun f z => fmulOf f x.rnd x.sat z
/-- ffma (R113). -/
def execFfma (x : Std) (s : State) : Out := .next <| gate (.ffma x) s fun r => r.f3 x fun f z => ffmaOf f x.rnd x.sat z
/-- fmin (R113). -/
def execFmin (x : Std) (s : State) : Out := .next <| gate (.fmin x) s fun r => r.f2 x fun f z => fpickOf f false z
/-- fmax (R113). -/
def execFmax (x : Std) (s : State) : Out := .next <| gate (.fmax x) s fun r => r.f2 x fun f z => fpickOf f true z

/-- fcmp (R113): a predicate per lane, poisoned by a poisoned operand. -/
def execFcmp (x : Std) (s : State) : Out := .next <| gate (.fcmp x) s fun r =>
  let f := fmtTy x.ty
  r.done (r.act.foldl (fun g l =>
    match firstTok [r.fB f x.b l, r.fsrc f x.c l] with
    | some t => g.setP x.a.toNat l (.bad t)
    | none =>
      let c := fcmpOf f x.f.toNat r.g.ftz (r.fB f x.b l).val (r.fsrc f x.c l).val
      (g.setP x.a.toNat l (.ok c.1)).orFlags c.2) r.g)

/-- fround (R114). -/
def execFround (x : Std) (s : State) : Out := .next <| gate (.fround x) s fun r =>
  r.f1 x fun f z => froundOf f x.rnd (x.f == 1) z

/-- fclass (R114): a single register, FTZ ignored. -/
def execFclass (x : Std) (s : State) : Out := .next <| gate (.fclass x) s fun r =>
  r.lanesV x.a.toNat 1 fun l => (r.fB (fmtTy x.ty) x.b l).map (fclassOf (fmtTy x.ty))

/-- fldexp (R114): the count is read as i32. -/
def execFldexp (x : Std) (s : State) : Out := .next <| gate (.fldexp x) s fun r =>
  let f := fmtTy x.ty
  r.lanesF x.a.toNat x.ty.regs fun l => combineF [r.fB f x.b l, r.src x.c 32 l] fun
    | [b, n] => fldexpOf f x.rnd x.sat r.g.ftz b n | _ => (0, {})

/-- fdivfix (R117). -/
def execFdivfix (x : Std) (s : State) : Out := .next <| gate (.fdivfix x) s fun r =>
  r.f3 x fun f z => fdivfixOf f x.rnd x.sat z

/-- frcp (R115, R116). -/
def execFrcp (x : Std) (s : State) : Out := .next <| gate (.frcp x) s fun r => r.f1 x frcpOf
/-- frsq (R115, R116). -/
def execFrsq (x : Std) (s : State) : Out := .next <| gate (.frsq x) s fun r => r.f1 x frsqOf
/-- fsqrt (R115, R116). -/
def execFsqrt (x : Std) (s : State) : Out := .next <| gate (.fsqrt x) s fun r => r.f1 x fun f z => fsqrtOf f x.rnd z
/-- fexp2 (R115, R116). -/
def execFexp2 (x : Std) (s : State) : Out := .next <| gate (.fexp2 x) s fun r => r.f1 x fun _ z => fexp2Of z
/-- flog2 (R115, R116). -/
def execFlog2 (x : Std) (s : State) : Out := .next <| gate (.flog2 x) s fun r => r.f1 x fun _ z => flog2Of z
/-- fsin (R115, R116). -/
def execFsin (x : Std) (s : State) : Out := .next <| gate (.fsin x) s fun r => r.f1 x fun _ z => fturnOf false z
/-- fcos (R115, R116). -/
def execFcos (x : Std) (s : State) : Out := .next <| gate (.fcos x) s fun r => r.f1 x fun _ z => fturnOf true z

/-- A packed instruction of two sources. -/
def Run.pk2 (r : Run) (x : Std) (op : Fmt → Bool → Nat → Nat → Nat × Flags) : State :=
  let f := fmtTy x.ty
  r.lanesF x.a.toNat 1 fun l => combineF [r.g.readV x.b.toNat l 1, r.psrc f x.c l] fun
    | [b, c] => pack2 (op f r.g.ftz (half b 0) (swpElem (bitB x.f.toNat 2) c 0))
        (op f r.g.ftz (half b 1) (swpElem (bitB x.f.toNat 2) c 1))
    | _ => (0, {})

/-- pkop (R119). -/
def execPkop (x : Std) (s : State) : Out := .next <| gate (.pkop x) s fun r =>
  r.pk2 x fun f z => pkopElem f (x.f.toNat % 4) x.rnd x.sat z
/-- pkmul (R119). -/
def execPkmul (x : Std) (s : State) : Out := .next <| gate (.pkmul x) s fun r =>
  r.pk2 x fun f z => fmulOf f x.rnd x.sat z
/-- pkfma (R119): the addend is never swapped. -/
def execPkfma (x : Std) (s : State) : Out := .next <| gate (.pkfma x) s fun r =>
  let f := fmtTy x.ty
  let op := ffmaOf f x.rnd x.sat r.g.ftz
  r.lanesF x.a.toNat 1 fun l => combineF [r.g.readV x.b.toNat l 1, r.psrc f x.c l, r.psrc f x.e l] fun
    | [b, c, e] => pack2 (op (half b 0) (swpElem (bitB x.f.toNat 2) c 0) (half e 0))
        (op (half b 1) (swpElem (bitB x.f.toNat 2) c 1) (half e 1))
    | _ => (0, {})

/-- fdp2 (R119): packed sources, an f32 addend and result. -/
def execFdp2 (x : Std) (s : State) : Out := .next <| gate (.fdp2 x) s fun r =>
  let f := fmtTy x.ty
  r.lanesF x.a.toNat 1 fun l => combineF [r.g.readV x.b.toNat l 1, r.psrc f x.c l, r.fsrc fmt32 x.e l] fun
    | [b, c, e] => fdp2Of f x.rnd x.sat r.g.ftz b c e | _ => (0, {})

/-- idp4 (R119). -/
def execIdp4 (x : Std) (s : State) : Out := .next <| gate (.idp4 x) s fun r =>
  r.lanesV x.a.toNat 1 fun l => combine [r.g.readV x.b.toNat l 1, r.src x.c 32 l, r.src x.e 32 l] fun
    | [b, c, e] => idp4Of x.ty x.sat b c e | _ => 0

/-- lmul.one and lmul.dot (R102, R119). -/
def execLmul (x : Std) (s : State) : Out := .next <| gate (.lmul x) s fun r =>
  let b := fun (l : Nat) => r.g.readV x.b.toNat l 1
  if x.f == 0 then
    r.lanesF x.a.toNat 1 fun l => combineF [b l, r.src x.c 32 l] fun
      | [p, q] => lmulOneOf r.g.ftz (bits (srcNum x.e) 5 4) p q | _ => (0, {})
  else
    r.lanesF x.a.toNat 1 fun l => combineF [b l, r.src x.c 32 l, r.g.readV x.a.toNat l 1] fun
      | [p, q, a] => lmulDotOf x.rnd x.sat r.g.ftz p q a | _ => (0, {})

/-! ## Group reduction (R105, R120) -/

/-- A value of a reduction tree: its bits, whether an active input lies beneath it, and the flags so far. -/
structure Node where
  val : Nat
  live : Bool
  flags : Flags := {}
deriving DecidableEq, Repr

/-- One node of the tree: its flags count only above an active input (R108). There they count whichever input raises them: a
signalling NaN of an inactive lane beside an active one sets IO, on which R108's first and fourth points differ (DESIGN CHOICE,
log 82). -/
def Node.join (op : Nat → Nat → Nat × Flags) (a b : Node) : Node :=
  let r := op a.val b.val
  let live := a.live || b.live
  { val := r.1, live := live, flags := (a.flags.or b.flags).or (if live then r.2 else {}) }

/-- One level of the tree (R105). -/
def treeLevel (op : Nat → Nat → Nat × Flags) : List Node → List Node
  | a :: b :: l => Node.join op a b :: treeLevel op l
  | l => l

/-- The whole tree, level by level. -/
def treeFold (op : Nat → Nat → Nat × Flags) : Nat → List Node → List Node
  | 0, l => l
  | n + 1, l => treeFold op n (treeLevel op l)

/-- fredux's node (R120). -/
def freduxOp (f : Fmt) (op : Nat) (ftz : Bool) (a b : Nat) : Nat × Flags :=
  match op with
  | 0 => faddOf f .rne false ftz a b
  | 1 => fpickOf f false ftz a b
  | _ => fpickOf f true ftz a b

/-- fredux (R120): all 32 lanes along the tree, written once under R70. -/
def execFredux (x : Std) (s : State) : Out := .next <| gate (.fredux x) s fun r =>
  let f := fmtTy x.ty
  let vs := (List.range 32).map fun j => r.g.acrossV r.s.tick r.lanes x.b.toNat j x.ty.regs
  if r.act.isEmpty then r.done r.g
  else
    match firstTok vs with
    | some t => r.onceS x.a.toNat (.bad t)
    | none =>
      let ns := vs.mapIdx fun j v => ({ val := v.val, live := r.act.contains j } : Node)
      match treeFold (freduxOp f x.f.toNat r.g.ftz) 5 ns with
      | n :: _ => r.done ((r.g.writeS x.a.toNat (.ok n.val)).orFlags n.flags)
      | [] => r.done r.g

end Sys2Proof.Machine
end

