-- ==== Sys2Proof/Machine/Collective.lean ====
section
/-!
DEFINITION. Collective groups and collective operations, and cprio (18_fabric.md R321, R324 to R330).
-/

namespace Sys2Proof.Machine

open Sys2Proof

/-! ## Declarations (R324, R325) -/

/-- Operations of a slot that are outstanding: in the collective unit, or buffered (R327, R354). -/
def Run.slotBusy (r : Run) (k : Nat) (sl : ColSlot) : Nat :=
  let unit := match colGroupOf r.s r.t.bind.cid sl.tag with
    | none => 0
    | some (cg, _) => (r.s.colls.filter fun e => e.2.cg == cg && e.2.ended.isNone && (mfind sl.rank e.2.parts).isSome).length
  unit + (r.t.items.filter fun i => match i.eff with
    | .coll j _ _ _ _ => j == k
    | _ => false).length

/-- A declaration or an undeclaration (size 0) takes effect in the collective units (R324, R325). -/
def performDecl (s : State) (tid slot tag size rank : Nat) : State :=
  let t := teamOf s tid
  let cid := t.bind.cid
  let mine := s.colGroups.filter fun e => e.2.members.any fun m => m.2 == (tid, slot)
  let s1 := mine.foldl (fun u e => (e.2.members.filter fun m => m.2 == (tid, slot)).foldl (fun v m => leaveGroup v e.1 m.1) u) s
  if size == 0 then s1
  else
    match colGroupOf s1 cid tag with
    | some (cg, g) =>
      if g.size == size && (mfind rank g.members).isNone then
        { s1 with colGroups := mput cg { g with members := mput rank (tid, slot) g.members } s1.colGroups }
      else s1
    | none =>
      { s1 with
        colGroups := mput s1.nextId { cid := cid, tag := tag, size := size, die := dieOfCore t.core, members := [(rank, (tid, slot))] } s1.colGroups
        nextId := s1.nextId + 1 }

/-- The status of coldecl past BUSY and the undeclaration (R325); 6 where nothing changes. -/
def Run.declStatus (r : Run) (k d : Nat) : Nat :=
  let tag := bits d 31 0
  let size := bits d 38 32
  let rank := bits d 47 40
  let bound := mfind k r.t.slots
  if bits d 63 48 != 0 || bitB d 39 || 64 < size || size ≤ rank then 2
  else if (bound.map fun b => (b.tag, b.size, b.rank)) == some (tag, size, rank) then 6
  else
    match colGroupOf r.s r.t.bind.cid tag with
    | some (_, g) => if g.size != size then 4 else if (mfind rank g.members).isSome then 3 else 0
    | none =>
      if 256 ≤ (r.s.colGroups.filter fun e => e.2.die == dieOfCore r.t.core).length then 5 else 0

/-- A declaration of the path: performed, or an item of a team that buffers its effects. -/
def Run.declare (r : Run) (x : Std) (k d : Nat) (slots : Map ColSlot) : State :=
  let g := r.g.putS x.a.toNat 0
  let size := bits d 38 32
  if r.t.buffers then
    if r.t.overflows [8] then r.waitIn r.s (.twin 0)
    else
      let s1 := modTeam r.s r.tid fun t => { t with slots := slots }
      let b := r.buffer s1 g [(r.lanes.headD 0, .decl k (bits d 31 0) size (bits d 47 40), feedOther 2 15 0 (.coldecl x) [d])]
      r.doneIn b.1 b.2
  else
    let s1 := performDecl r.s r.tid k (bits d 31 0) size (bits d 47 40)
    r.doneIn (modTeam s1 r.tid fun t => { t with slots := slots }) g

/-- coldecl. -/
def execColdecl (x : Std) (s : State) : Out := .next <| gate (.coldecl x) s fun r =>
  match r.uB x.b 64 with
  | .bad t => r.raise t
  | .ok d =>
    let k := srcNum x.c
    let busy := match mfind k r.t.slots with
      | some sl => r.slotBusy k sl != 0
      | none => false
    if busy then r.done (r.g.putS x.a.toNat 1)
    else if d == 0 then r.declare x k 0 (merase k r.t.slots)
    else
      match r.declStatus k d with
      | 0 => r.declare x k d (mput k { tag := bits d 31 0, size := bits d 38 32, rank := bits d 47 40 } r.t.slots)
      | 6 => r.done (r.g.putS x.a.toNat 0)
      | st => r.done (r.g.putS x.a.toNat st)

/-! ## Operations at issue (R327) -/

/-- An operation reaches the collective unit (R328). -/
def performColl (s : State) (tid slot rank q tag : Nat) (p : ColPart) : State :=
  let fails := completeParts s [(rank, p)] 3 0xC
  match colGroupOf s (teamOf s tid).bind.cid tag with
  | none => fails
  | some (cg, g) =>
    if g.broken || mfind rank g.members != some (tid, slot) then fails
    else
      match s.colls.find? fun e => e.2.cg == cg && e.2.q == q with
      | none => { s with colls := mput s.nextId { cg := cg, q := q, parts := [(rank, p)] } s.colls, nextId := s.nextId + 1 }
      | some (id, c) =>
        let c1 := { c with parts := mput rank p c.parts }
        match c.ended with
        | none => { s with colls := mput id c1 s.colls }
        | some (st, code) =>
          let s1 := completeParts s [(rank, p)] st code
          if g.size ≤ c1.parts.length then { s1 with colls := merase id s1.colls } else { s1 with colls := mput id c1 s1.colls }

/-- The first address of each page that a range touches. -/
def rangePages (va n : Nat) : List Nat :=
  if n == 0 then []
  else va :: (List.range ((va % 2 ^ 14 + n - 1) / 2 ^ 14)).map fun i => va / 2 ^ 14 * 2 ^ 14 + 2 ^ 14 * (i + 1)

/-- Does a range meet the local window or a live stash window (R327)? -/
def Team.meetsWindow (t : Team) (va n : Nat) : Bool :=
  0 < n && (0xF * 2 ^ 52 < va + n || t.windows.any fun e => decide (e.2.base < va + n && va < e.2.base + e.2.len))

/-- The first page of a range that fails its check (R207); the unit reaches no device page. -/
def badPage (s : State) (who : Who) (va n : Nat) (k : Kind) : Option (Nat × Check) :=
  (rangePages va n).findSome? fun a =>
    match checkAccess s who a 16 k with
    | .ok (.device _) => some (a, .bad 2 (some { mal := false, lvl := 0 }))
    | .ok _ => none
    | c => some (a, c)

/-- Bytes of the source and of the destination of an operation (R327). -/
def colSizes (op : ColKind) (n m : Nat) : Nat × Nat :=
  match op with
  | .gather => (m, n * m)
  | .all => (n * m, n * m)
  | .reduce => (n * m, m)
  | .barrier => (0, 0)

/-- The last steps of an issue: a handle, a sequence number, and the operation on its way. -/
def Run.startColl (r : Run) (i : Instr) (x : Std) (k : Nat) (sl : ColSlot) (op : ColKind) (ops : List Nat) : State :=
  match r.t.takeHandle 2 with
  | none => r.waitIn r.s .handleFree
  | some (e, q, t1) =>
    let g1 := r.g.setPending x.a.toNat (handleVal 2 e q)
    let s1 := modTeam r.s r.tid fun t =>
      { t with handles := t1.handles, hseq := t1.hseq, slots := mput k { sl with next := sl.next + 1 } t.slots }
    let p : ColPart := { team := r.tid, group := r.gnum, handles := [(r.tid, e, q)], op := op, ty := x.ty, f := x.f.toNat
                         src := ops.getD 0 0, dst := ops.getD 1 0, m := ops.getD 2 0 }
    if r.t.buffers then
      let b := r.buffer s1 g1 [(r.lanes.headD 0, .coll k sl.next sl.rank sl.tag p, feedOther 2 15 (ops.getD 1 0) i ops)]
      r.doneIn b.1 b.2
    else r.doneIn (performColl s1 r.tid k sl.rank sl.next sl.tag p) g1

/-- colag, colrs, colaa and colbar at issue: the checks in their order, then a release at pkg scope (R327, R329). -/
def Run.collective (r : Run) (i : Instr) (x : Std) (op : ColKind) : State :=
  let k := srcNum x.c
  let regs := if op == .barrier then [] else (List.range 3).map fun j => r.g.readS (x.b.toNat + j) 64
  let full := match mfind k r.t.slots with
    | some sl => decide (4 ≤ r.slotBusy k sl)
    | none => false
  match if full then none else firstTok regs with
  | some t => r.raise t
  | none =>
    if full then r.waitIn r.s .room
    else
    match mfind k r.t.slots with
    | none => r.fault 0xC
    | some sl =>
      let ops := regs.map PV.val
      let src := ops.getD 0 0 % 2 ^ 56
      let dst := ops.getD 1 0 % 2 ^ 56
      let m := ops.getD 2 0
      let n := colSizes op sl.size m
      if 2 ^ 32 ≤ m || 2 ^ 32 ≤ sl.size * m then r.fault 0xC
      else if src % 16 != 0 || dst % 16 != 0 || m % 16 != 0 then
        r.fault 4 (if src % 16 != 0 then src else if dst % 16 != 0 then dst else 0)
      else if r.t.meetsWindow src n.1 || r.t.meetsWindow dst n.2 then r.fault 0xA (if r.t.meetsWindow src n.1 then src else dst)
      else
        match badPage r.s r.who src n.1 .read, badPage r.s r.who dst n.2 .write with
        | some (a, c), _ => r.failAt r.s a c .read
        | none, some (a, c) => r.failAt r.s a c .write
        | none, none =>
          if r.t.buffers && r.t.overflows [8] then r.waitIn r.s (.twin 0)
          else if (r.t.takeHandle 2).isNone then r.waitIn r.s .handleFree
          else r.releasing .pkg fun r1 => r1.startColl i x k sl op (if op == .barrier then [] else [src, dst, m])

/-- colag. -/
def execColag (x : Std) (s : State) : Out := .next <| gate (.colag x) s fun r => r.collective (.colag x) x .gather
/-- colrs. -/
def execColrs (x : Std) (s : State) : Out := .next <| gate (.colrs x) s fun r => r.collective (.colrs x) x .reduce
/-- colaa. -/
def execColaa (x : Std) (s : State) : Out := .next <| gate (.colaa x) s fun r => r.collective (.colaa x) x .all
/-- colbar. -/
def execColbar (x : Std) (s : State) : Out := .next <| gate (.colbar x) s fun r => r.collective (.colbar x) x .barrier

/-! ## cprio (R321) -/

/-- cprio. -/
def execCprio (x : Std) (s : State) : Out := .next <| gate (.cprio x) s fun r =>
  match r.src x.c 64 0 with
  | .bad t => r.raise t
  | .ok k =>
    let old := r.t.cls
    let st := if 7 < k then 2 else if !bitB (ctxOf r.s r.t.bind.cid).classes k then 1 else 0
    let s1 := if st == 0 then modTeam r.s r.tid fun t => { t with cls := k } else r.s
    r.doneIn s1 (r.g.putS x.a.toNat (st + old * 0x100))

/-! ## The data of a collective (R328, R330) -/

/-- The collective unit as requester for a member. -/
def ColPart.who (s : State) (p : ColPart) : Who := whoEngine s p.team 2

/-- Read 16-byte units: a byte is absent where its unit's read was reported; the first code reported, 0 for none. -/
def readUnits (who : Who) : Nat → State → Nat → State × List (Option Byte) × Nat
  | 0, s, _ => (s, [], 0)
  | n + 1, s, va =>
    match readVa s who va 16 .read with
    | (t, .bytes bs) =>
      match readUnits who n t (va + 16) with
      | (u, r, c) => (u, bs.map some ++ r, c)
    | (t, .report k) =>
      match readUnits who n t (va + 16) with
      | (u, r, _) => (u, List.replicate 16 none ++ r, k)

/-- Write 16-byte units. Each byte takes one of its candidates, or keeps its old value where `keep` says it may; a unit
with a byte that has no candidate is not written. -/
def writeUnits (who : Who) (keep : Bool) : Nat → State → Nat → List (List (Option Byte)) → State × Nat
  | 0, s, _, _ => (s, 0)
  | n + 1, s, va, cands =>
    let here := cands.map (List.take 16)
    let rest := cands.map (List.drop 16)
    let old := if keep then (match readVa s who va 16 .read with
      | (_, .bytes bs) => [bs.map some]
      | (_, .report _) => []) else []
    let pick := fun (i : Nat) =>
      let cs := ((here ++ old).filterMap fun l => l.getD i none)
      if cs.length ≤ 1 then cs.head? else cs[Config.freeNat s.tick (2 ^ 46 + va + i) % cs.length]?
    let bs := (List.range 16).filterMap pick
    if bs.length == 16 then
      match writeVa s who va bs .nl1 with
      | (t, c) =>
        match writeUnits who keep n t (va + 16) rest with
        | (u, d) => (u, if c == 0 then d else c)
    else writeUnits who keep n s (va + 16) rest

/-- One element of a reduction along the tree of R105, with its flags; none where a contribution is missing. The one
contribution of a group of size 1 passes up as it is: no node rounds it, so a NaN keeps its bits and a signalling one sets no
IO, which R105 does not say (DESIGN CHOICE, log 82). -/
def reduceElem (ty : NumType) (f : Nat) (xs : List (Option Nat)) : Option (Nat × Flags) :=
  if xs.any Option.isNone then none
  else
    let vs := xs.filterMap id
    let op := match fmtOf ty with
      | some fm => freduxOp fm f false
      | none => fun a b =>
        let lt := decide (toSigned 32 a < toSigned 32 b)
        ((match f with
          | 0 => (a + b) % 2 ^ 32
          | 1 => if lt then a else b
          | _ => if lt then b else a), {})
    match treeFold op 6 (vs.map fun v => ({ val := v, live := true } : Node)) with
    | n :: _ => some (n.val, n.flags)
    | [] => none

/-- Elements of bytes that may be absent. -/
def optElems (size : Nat) (bs : List (Option Byte)) : List (Option Nat) :=
  (List.range (bs.length / size)).map fun i =>
    let es := (bs.drop (size * i)).take size
    if es.any Option.isNone then none else some (ofBytes (es.filterMap id))

/-- Block b of a rank's source. -/
def blockOf (m b : Nat) (src : List (Option Byte)) : List (Option Byte) := (src.drop (m * b)).take m

/-- What rank r's destination receives, with the flags of its own reduction (R328). -/
def colDest (op : ColKind) (ty : NumType) (f m r : Nat) (srcs : List (List (Option Byte))) : List (Option Byte) × Flags :=
  match op with
  | .gather => (srcs.flatten, {})
  | .all => ((srcs.map (blockOf m r)).flatten, {})
  | .barrier => ([], {})
  | .reduce =>
    let size := ty.bits / 8
    let es := srcs.map fun x => optElems size (blockOf m r x)
    let rs := (List.range (m / size)).map fun i => reduceElem ty f (es.map fun l => l.getD i none)
    (rs.flatMap fun e => match e with
      | some v => (toBytes size v.1).map some
      | none => List.replicate size none,
      rs.foldl (fun a e => match e with
        | some v => a.or v.2
        | none => a) {})

/-- The sources of every rank. -/
def colSources (n : Nat) : State → List ColPart → State × List (List (Option Byte)) × Nat
  | s, [] => (s, [], 0)
  | s, p :: ps =>
    match readUnits (p.who s) ((colSizes p.op n p.m).1 / 16) s p.src with
    | (t, bs, c) =>
      match colSources n t ps with
      | (u, rs, d) => (u, bs :: rs, if c == 0 then d else c)

/-- Write every rank's destination from its candidates, ranks from r on. -/
def colWrites (n : Nat) (keep : Bool) (cands : Nat → List (List (Option Byte))) : Nat → State → List ColPart → State × Nat
  | _, s, [] => (s, 0)
  | r, s, p :: ps =>
    match writeUnits (p.who s) keep ((colSizes p.op n p.m).2 / 16) s p.dst (cands r) with
    | (t, c) =>
      match colWrites n keep cands (r + 1) t ps with
      | (u, d) => (u, if c == 0 then d else c)

/-- Does a source of the collective overlap a destination? -/
def colOverlaps (n : Nat) (ps : List ColPart) : Bool :=
  ps.any fun p => ps.any fun q =>
    let a := colSizes p.op n p.m
    let b := colSizes q.op n q.m
    decide (p.src < q.dst + b.2 && q.dst < p.src + a.1)

/-- Move the data: the state, the code met, and each rank's flags. `keep` lets every byte keep its old value. -/
def colMove (s : State) (n : Nat) (ps : List ColPart) (keep : Bool) : State × Nat × List Flags :=
  match ps with
  | [] => (s, 0, [])
  | p0 :: _ =>
    let dest := fun (srcs : List (List (Option Byte))) (r : Nat) => colDest p0.op p0.ty p0.f p0.m r srcs
    match colSources n s ps with
    | (t, srcs, c) =>
      let mixed := keep || colOverlaps n ps
      -- where sources and destinations overlap, some reads come after some writes
      let again := if colOverlaps n ps then
          let u := (colWrites n false (fun r => [(dest srcs r).1]) 0 t ps).1
          [(colSources n u ps).2.1]
        else []
      match colWrites n mixed (fun r => (srcs :: again).map fun x => (dest x r).1) 0 t ps with
      | (u, d) => (u, if c == 0 then d else c, (List.range n).map fun r => (dest srcs r).2)

/-- The units of every rank's destination, none of them moved. -/
def unitsOf (n : Nat) (ps : List ColPart) : List ColUnit :=
  (ps.mapIdx fun r p => (List.range ((colSizes p.op n p.m).2 / 16)).map fun u => ({ rank := r, unit := u } : ColUnit)).flatten

/-- The reads that a unit of rank r's destination takes: the members read for, and the addresses (R328). -/
def unitSources (ps : List ColPart) (r u : Nat) : List (ColPart × Nat) :=
  match ps with
  | [] => []
  | p :: _ =>
    let block := ps[u / (p.m / 16)]?.toList
    match p.op with
    | .gather => block.map fun q => (q, q.src + 16 * (u % (p.m / 16)))
    | .all => block.map fun q => (q, q.src + p.m * r + 16 * (u % (p.m / 16)))
    | .reduce => ps.map fun q => (q, q.src + p.m * r + 16 * u)
    | .barrier => []

/-- Read a unit for each member; the first code reported, 0 for none. -/
def readSources : State → List (ColPart × Nat) → State × List (List (Option Byte)) × Nat
  | s, [] => (s, [], 0)
  | s, (p, va) :: ps =>
    match readUnits (p.who s) 1 s va with
    | (t, b, c) =>
      match readSources t ps with
      | (u, bs, d) => (u, b :: bs, if c == 0 then d else c)

/-- Write bytes at offsets from an address, up to the first code reported. -/
def writeBytes (who : Who) (va : Nat) : State → List (Nat × Byte) → State × Nat
  | s, [] => (s, 0)
  | s, (i, b) :: bs =>
    match writeVa s who (va + i) [b] .nl1 with
    | (t, 0) => writeBytes who va t bs
    | (t, c) => (t, c)

/-- Move some bytes of a unit: the state, the code met, and the flags of its elements. -/
def moveUnit (s : State) (ps : List ColPart) (x : ColUnit) (mask : Nat) : State × Nat × Flags :=
  match ps[x.rank]? with
  | none => (s, 0, {})
  | some p =>
    match readSources s (unitSources ps x.rank x.unit) with
    | (t, srcs, 0) =>
      let v := colDest p.op p.ty p.f 16 0 srcs
      let bs := (v.1.mapIdx fun i b => (i, b)).filterMap fun e => if bitB mask e.1 then e.2.map fun b => (e.1, b) else none
      match writeBytes (p.who t) (p.dst + 16 * x.unit) t bs with
      | (u, c) => (u, c, v.2)
    | (t, _, c) => (t, c, {})

/-- OR flags into those of a rank. -/
def rankFlags (n r : Nat) (f : Flags) (fs : List (BitVec 5)) : List (BitVec 5) :=
  (List.range n).map fun i => fs.getD i 0 ||| (if i == r then f.bits else 0)

/-! ## The end of a collective -/

/-- Has hcancel asked a collective to stop, at any rank (R330)? -/
def collCancelled (s : State) (c : Coll) : Bool :=
  c.parts.any fun p => p.2.handles.any fun h =>
    match mfind h.2.1 (teamOf s h.1).handles with
    | some e => e.seq == h.2.2 && e.cancel
    | none => false

/-- The size of a collective's group. -/
def collSize (s : State) (c : Coll) : Nat := (mget { cid := 0, tag := 0, size := 0, die := 0 } c.cg s.colGroups).size

/-- Does a range of some part wait for a link? -/
def collWaits (s : State) (c : Coll) : Bool :=
  let n := collSize s c
  let waits := fun (p : ColPart) (va len : Nat) (k : Kind) =>
    (rangePages va len).any fun a => match checkAccess s (p.who s) a 16 k with
      | .wait _ => true
      | _ => false
  c.parts.any fun p =>
    let z := colSizes p.2.op n p.2.m
    waits p.2 p.2.src z.1 .read || waits p.2 p.2.dst z.2 .write

/-- May a collective end: every rank has issued and no link is waited for, or it is cancelled? -/
def collReady (s : State) (c : Coll) : Bool :=
  c.ended.isNone && (collCancelled s c || (collSize s c ≤ c.parts.length && !collWaits s c))

/-- Do the ranks agree in kind, m, TYPE and F (R328)? -/
def partsAgree (ps : List ColPart) : Bool :=
  match ps with
  | [] => true
  | p :: qs => qs.all fun q => q.op == p.op && q.m == p.m && q.ty == p.ty && q.f == p.f

/-- OR flags into the groups of a part (R109). -/
def partFlags (s : State) (p : ColPart) (f : BitVec 5) : State :=
  p.handles.foldl (fun t h => modGroup t h.1 p.group fun g => { g with fflags := g.fflags ||| f }) s

/-- The flags gathered for every rank reach its group, however the operation completes, but for a cancelled one (R109). -/
def collFlags (s : State) (ps : List ColPart) (fs : List (BitVec 5)) : State :=
  (ps.mapIdx fun r p => (r, p)).foldl (fun u e => partFlags u e.2 (fs.getD e.1 0)) s

/-- A step of a collective: a unit by free choice, of which some bytes move at its first visit and the rest at its second, so
that its bytes move in any order and a read before the end sees old and moved ones (R328, R329). A code ends it. -/
def collStep (s : State) (id : Nat) (c : Coll) (n : Nat) (x : ColUnit) (rest : List ColUnit) : State :=
  let ps := c.parts.map Prod.snd
  let mask := if x.begun then x.left else x.left &&& Config.freeNat s.tick (2 ^ 48 + id)
  match moveUnit s ps x mask with
  | (t, code, f) =>
    let fs := rankFlags n x.rank f c.flags
    if code != 0 then endColl (collFlags t ps fs) id c n 3 code
    else
      let keep := if mask == x.left then [] else [{ x with left := x.left ^^^ mask, begun := true }]
      { t with colls := mput id { c with left := some (keep ++ rest), flags := fs } t.colls }

/-- Completion with DONE is an acquire at every rank (R329). -/
def collSync (s : State) (ps : List ColPart) : State := ps.foldl (fun u p => acquire u (p.who u) .pkg) s

/-- COLLECTIVE_COMPLETE: bytes move, or every rank's handle completes: DONE once all have moved, FAILED where the ranks
disagree or a move meets a code, CANCELLED where hcancel asked for it (R328 to R330). A collective whose sources overlap its
destinations moves in one step, each byte a free choice. -/
def execCollectiveComplete (id : Nat) (s : State) : Out := .next <|
  match mfind id s.colls with
  | none => s
  | some c =>
    if !collReady s c then s
    else
      let n := collSize s c
      let ps := c.parts.map Prod.snd
      if c.parts.length < n then endColl s id c n 2 0
      else if !partsAgree ps then endColl s id c n 3 0xC
      else if collCancelled s c then endColl (colMove s n ps true).1 id c n 2 0
      else if colOverlaps n ps then
        match colMove s n ps false with
        | (t, 0, fs) => collSync (endColl (collFlags t ps (fs.map Flags.bits)) id c n 0 0) ps
        | (_, code, _) =>
          match colMove s n ps true with
          | (t, _, fs) => endColl (collFlags t ps (fs.map Flags.bits)) id c n 3 code
      else
        let left := c.left.getD (unitsOf n ps)
        let i := Config.pick s.tick left.length % left.length
        match left[i]? with
        | none => collSync (endColl (collFlags s ps c.flags) id c n 0 0) ps
        | some x => collStep s id c n x (left.eraseIdx i)

end Sys2Proof.Machine
end

