-- ==== Sys2Proof/Machine/Tensor.lean ====
section
/-!
DEFINITION. Tensor identifiers: the region, the record and its checks, element addresses, and tidset, tidinv and tidq
(14_tensorids.md R237 to R252, R388).
-/

namespace Sys2Proof.Machine

open Sys2Proof

/-! ## The record (Table 14.1) -/

/-- A field of a 64-byte record held as a number. -/
def recField (rec off n : Nat) : Nat := rec / 2 ^ (8 * off) % 2 ^ (8 * n)

/-- BASE of a record. -/
def tBase (rec : Nat) : Nat := recField rec 0 8 % 2 ^ 56
/-- TYPE code of a record. -/
def tTypeCode (rec : Nat) : Nat := recField rec 8 1 % 16
/-- TYPE of a record. -/
def tType (rec : Nat) : NumType := (NumType.ofCode (BitVec.ofNat 4 (tTypeCode rec))).getD .i32
/-- RANK of a record. -/
def tRank (rec : Nat) : Nat := recField rec 9 1 % 8
/-- LAYOUT of a record. -/
def tLayout (rec : Nat) : Nat := bits (recField rec 10 1) 1 0
/-- KIND of a record: 0 plain, 1 surface view, 2 sparse values, 3 outlier list. -/
def tKind (rec : Nat) : Nat := bits (recField rec 10 1) 3 2
/-- PAD of a record: 0 zero, 1 constant, 2 clamp, 3 none. -/
def tPad (rec : Nat) : Nat := bits (recField rec 10 1) 5 4
/-- SCALED of a record. -/
def tScaled (rec : Nat) : Bool := bitB (recField rec 10 1) 6
/-- SDIM of a record. -/
def tSdim (rec : Nat) : Nat := recField rec 11 1 % 2
/-- PADVAL of a record. -/
def tPadval (rec : Nat) : Nat := recField rec 12 4
/-- DIMk of a record. -/
def tDim (rec k : Nat) : Nat := recField rec (16 + 4 * k) 4
/-- STRIDEk of a record, for k from 1 to 3. -/
def tStride (rec k : Nat) : Nat := recField rec (0x20 + 6 * (k - 1)) 6
/-- SCALE of a record. -/
def tScale (rec : Nat) : Nat := recField rec 0x38 8 % 2 ^ 56

/-- Element size of a type code (R241). -/
def typeSize (c : Nat) : Nat := (((NumType.ofCode (BitVec.ofNat 4 c)).map NumType.bits).getD 8) / 8

/-- The conditions of R242 that a record breaks, as the offsets of Table 14.10. -/
def recBroken (rec : Nat) : List Nat :=
  let tc := tTypeCode rec
  let ty := tType rec
  let s := typeSize tc
  let rank := tRank rec
  let lay := tLayout rec
  let kind := tKind rec
  let base := recField rec 0 8 % 2 ^ 56
  let c := fun (b : Bool) (off : Nat) => if b then [off] else []
  -- reserved bits
  c (recField rec 7 1 != 0) 0 ++ c (bits (recField rec 8 1) 7 4 != 0) 8 ++ c (bits (recField rec 9 1) 7 3 != 0) 9 ++
  c (bitB (recField rec 10 1) 7) 10 ++ c (bits (recField rec 11 1) 7 1 != 0) 11 ++ c (recField rec 0x32 6 != 0) 0x32 ++
  c (recField rec 0x3F 1 != 0) 0x38 ++
  c (tc == 15) 8 ++
  c (rank == 0 || 4 < rank) 9 ++
  -- extents and strides
  ((List.range 4).flatMap fun k =>
    c (if k < rank then tDim rec k == 0 || 0x7FFFFFFF < tDim rec k else tDim rec k != 1) (0x10 + 4 * k)) ++
  ((range' 1 3).flatMap fun k =>
    c ((rank ≤ k && tStride rec k != 0) || tStride rec k % s != 0) (0x20 + 6 * (k - 1))) ++
  c (base % s != 0 || (kind == 3 && base % 8 != 0)) 0 ++
  -- layouts
  c ((lay == 1 || lay == 2) && rank < 2) 10 ++
  c (lay == 2 && tDim rec 0 % 16 != 0) 0x10 ++
  c (lay == 2 && tDim rec 1 % 16 != 0) 0x14 ++
  c (lay == 2 && tStride rec 1 % (256 * s) != 0) 0x20 ++
  c ((lay == 3) != (kind == 1)) 10 ++
  ((range' 1 3).flatMap fun k => c (kind == 1 && tStride rec k != 0) (0x20 + 6 * (k - 1))) ++
  -- scales and padding
  c (tScaled rec && kind != 0) 10 ++
  c (tScaled rec && !(ty == .e4m3 || ty == .e5m2 || ty == .l6)) 8 ++
  c (!tScaled rec && tScale rec != 0) 0x38 ++
  c (rank == 1 && tSdim rec != 0) 11 ++
  c (tPadval rec / 2 ^ (8 * s) != 0 || (ty == .l6 && bits (tPadval rec) 7 6 != 0)) 12 ++
  -- kinds
  c (kind == 2 && (lay != 0 || tPad rec != 0)) 10 ++
  c (kind == 2 && !(ty == .e4m3 || ty == .e5m2 || ty == .l6 || ty == .i8 || ty == .n8 || ty == .f16 || ty == .bf16 ||
      ty == .i16 || ty == .n16)) 8 ++
  c (kind == 2 && tDim rec 0 % 4 != 0) 0x10 ++
  c (kind == 3 && rank != 1) 9 ++
  c (kind == 3 && ty != .bf16) 8 ++
  c (kind == 3 && (lay != 0 || tPad rec != 0 || tScaled rec)) 10

/-- FirstBadOffset of R388: none for a well-formed record. -/
def firstBadOffset (rec : Nat) : Option Nat :=
  match recBroken rec with
  | [] => none
  | o :: os => some (os.foldl min o)

/-! ## The region (R237, R387) -/

/-- The physical address of an identifier's record. -/
def tidRecPa (s : State) (cid n : Nat) : Nat := s.ctl.tidbase + cid * 0x20000 + 64 * n
/-- The physical address of an identifier's state. -/
def tidStatePa (s : State) (cid n : Nat) : Nat := s.ctl.tidbase + cid * 0x20000 + 0x10000 + 2 * n

/-- A read of the region by a master: a number, or the code of a denial or of memory poison (R238). -/
def tidRead (s : State) (m : Master) (pa n : Nat) : Except Nat Nat :=
  match hwRead s m pa n with
  | none => .error 3
  | some x => if isMarked s pa then .error 5 else .ok x

/-- Is the state of an identifier valid for an incarnation (R237)? -/
def tidValid (st icn : Nat) : Bool := bitB st 15 && st % 256 == icn

/-- The record of a valid identifier as the region holds it, none for one that is not valid, or the code of a failed fill
(R238, R239). -/
def tidFill (s : State) (m : Master) (cid n : Nat) : Except Nat (Option Nat) :=
  if 1024 ≤ n then .ok none
  else
    match tidRead s m (tidStatePa s cid n) 2 with
    | .error c => .error c
    | .ok st =>
      if !tidValid st (ctxOf s cid).icn then .ok none
      else
        match tidRead s m (tidRecPa s cid n) 64 with
        | .error c => .error c
        | .ok x => .ok (some x)

/-- The key of an identifier in the cache of a core. -/
def idKey (core cid n : Nat) : Nat := (core * 1024 + cid) * 1024 + n

/-- A record in the identifier cache of a core, with another of its 64 replaced where it is full (R238). -/
def holdId (s : State) (core cid n rec : Nat) : State :=
  let mine := (s.ids.filter fun e => e.1 / 2 ^ 20 == core).map Prod.fst
  let kept := if mine.length < 64 then s.ids else s.ids.filter fun e => e.1 != mine.getD (Config.freeNat s.tick (2 ^ 53) % mine.length) 0
  { s with ids := mput (idKey core cid n) rec kept }

/-- Read an identifier for a core: from its cache, where the entry has not been replaced, else by a fill, which is then held;
a denied fill is logged (R57, R238). -/
def tidLook (s : State) (core : Nat) (m : Master) (cid n : Nat) : State × Except Nat (Option Nat) :=
  match mfind (idKey core cid n) s.ids with
  | some rec => if Config.freeBool s.tick (2 ^ 53 + idKey core cid n) then (s, .ok (some rec)) else fill
  | none => fill
where
  fill :=
    match tidFill s m cid n with
    | .ok (some rec) => (holdId s core cid n rec, .ok (some rec))
    | .error 3 => (hwDenied s m (tidStatePa s cid n), .error 3)
    | o => (s, o)

/-- Drop an identifier from every identifier cache (R250). -/
def dropId (s : State) (cid n : Nat) : State := { s with ids := s.ids.filter fun e => e.1 % 2 ^ 20 != cid * 1024 + n }

/-- Write an identifier: its record and a state with VALID and the ICN, or clear VALID; every cache drops it (R250). -/
def tidWrite (s0 : State) (m : Master) (cid icn n : Nat) (words : List DWord) (valid : Bool) : State :=
  let s := dropId s0 cid n
  let s1 := if valid then (hwWrite s m (tidRecPa s cid n) (words.flatMap fun w => toBytes 8 w.toNat)).1 else s
  (hwWrite s1 m (tidStatePa s1 cid n) (toBytes 2 (if valid then 0x8000 + icn else icn))).1

/-- Does the access table allow the core's write of an identifier (R387)? -/
def tidMayWrite (s : State) (m : Master) (cid n : Nat) : Bool :=
  inHbm (tidStatePa s cid n) && lineAllows s m 0 (tidStatePa s cid n) .write && lineAllows s m 0 (tidRecPa s cid n) .write

/-! ## Element addresses (R241, R276) -/

/-- The address of the element at indices inside the tensor; `sid` is the surface of a surface view (R241). -/
def elemVa (s : State) (cid : Nat) (rec sid i0 i1 i2 i3 : Nat) : Nat :=
  let z := typeSize (tTypeCode rec)
  let b := tBase rec
  let st := tStride rec
  (match tLayout rec with
    | 0 => b + i0 * z + i1 * st 1 + i2 * st 2 + i3 * st 3
    | 1 => b + i1 * z + i0 * st 1 + i2 * st 2 + i3 * st 3
    | 2 => b + (16 * (i1 % 16) + i0 % 16) * z + i0 / 16 * 256 * z + i1 / 16 * st 1 + i2 * st 2 + i3 * st 3
    | _ =>
      let samples := sfField s cid sid 0x0E 1
      b + surfOffset s cid sid i1 i2 (i3 / max 1 samples) (i3 % max 1 samples) + i0 * z) % 2 ^ 56

/-- The address of the block-scale byte of an element (R244). -/
def scaleVa (rec i0 i1 i2 i3 : Nat) : Nat :=
  let b := tSdim rec
  let ib := if b == 0 then i0 else i1
  let io := if b == 0 then i1 else i0
  let nb := ceilDiv (tDim rec b) 32
  (tScale rec + ib / 32 + nb * (io + tDim rec (1 - b) * (i2 + tDim rec 2 * i3))) % 2 ^ 56

/-! ## Windows (R243) -/

/-- Is the position with the signed indices a real one? -/
def realPos (rec : Nat) (is : List Int) : Bool :=
  (List.range 4).all fun k =>
    let i := is.getD k 0
    decide (0 ≤ i) && decide (i < (tDim rec k : Int))

/-- The indices clamped into the tensor (PAD 2). -/
def clampPos (rec : Nat) (is : List Int) : List Nat :=
  (List.range 4).map fun k => (max 0 (min (is.getD k 0) ((tDim rec k : Int) - 1))).toNat

/-- Does a window hold a padding position: it is not empty and leaves the tensor in some dimension? -/
def windowPads (rec : Nat) (o : List Int) (ext : List Nat) : Bool :=
  ext.all (fun n => n != 0) &&
  (List.range 4).any fun k =>
    let i := o.getD k 0
    decide (i < 0) || decide ((tDim rec k : Int) < i + (ext.getD k 1 : Int))

/-! ## Surface views (R248) -/

/-- TYPE and DIM0 of a surface format (Table 14.4). -/
def formatTensor (f : Nat) : Option (NumType × Nat) :=
  match f with
  | 0 => some (.n8, 4) | 2 => some (.f16, 1) | 3 => some (.f16, 2) | 4 => some (.f16, 4) | 5 => some (.f32, 1)
  | 6 => some (.f32, 4) | 7 => some (.bf16, 4) | 8 => some (.e4m3, 4) | 9 => some (.f32, 1) | 10 => some (.n8, 1)
  | _ => none

/-- The surface that a view's BASE lies in, by the page that maps it; none where it is no page of type surface. -/
def viewSurface (s : State) (core : Nat) (m : Master) (cid rec : Nat) : Option Nat :=
  match lookup s core m cid (tBase rec) with
  | .page pte l => if pteType pte == 2 then some (bits (leafPa pte l (tBase rec)) 51 42) else none
  | .fail .. => none

/-- Does a surface view agree with the surface table entry (R248)? -/
def viewMatches (s : State) (cid rec sid : Nat) : Bool :=
  let fld := sfField s cid sid
  sfLive s cid sid && fld 0 8 % 2 ^ 56 == tBase rec &&
  (match formatTensor (fld 0x0F 1) with
    | some (ty, d) => ty == tType rec && d == tDim rec 0
    | none => false) &&
  tDim rec 1 == fld 0x08 2 && tDim rec 2 == fld 0x0A 2 && tDim rec 3 == fld 0x0C 2 * fld 0x0E 1

/-! ## tidset, tidinv, tidq (R249 to R252) -/

/-- The core of the path as a requester of R387. -/
def Run.coreReq (r : Run) : Master := coreMaster r.t.core

/-- The last buffered write of an identifier by the thread to which the path's items belong (R252, R354). -/
def Run.ownTid (r : Run) (n : Nat) : Option (Option Nat) :=
  if !r.t.buffers then none
  else
    (r.t.items.reverse.find? fun i => i.group == r.gnum && i.thread == r.lanes.headD 0 && (match i.eff with
      | .tid k _ _ => k == n
      | _ => false)).map fun i => match i.eff with
        | .tid _ ws true => some (ofBytes (ws.flatMap fun w => toBytes 8 w.toNat))
        | _ => none

/-- The record of an identifier as an instruction of the path reads it: none where it is not valid (R250, R251). -/
def Run.tid_ (r : Run) (m : Master) (n : Nat) : State × Except Nat (Option Nat) :=
  match r.ownTid n with
  | some v => (r.s, .ok v)
  | none => if 1024 ≤ n then (r.s, .ok none) else tidLook r.s r.t.core m r.t.bind.cid n

/-- In a paired team each copy feeds its status into the signature of the thread to which the path's items belong
(R252, log 80). -/
def Run.feedStatus (r : Run) (g : Group) (status : Nat) : Group :=
  if r.t.paired then
    g.modThreads [r.lanes.headD 0] fun t => { t with sig := BitVec.ofNat 64 (crcFeed t.sig.toNat [status]) }
  else g

/-- Write an identifier at once, or as an item of a team that buffers its effects (R252, R354). -/
def Run.setTid (r : Run) (s : State) (i : Instr) (n : Nat) (words : List DWord) (valid : Bool) (ops : List Nat)
    (k : State → Group → State) : State :=
  if !tidMayWrite s r.coreReq r.t.bind.cid n then
    r.faultIn (logDenial s r.coreReq 0 (tidStatePa s r.t.bind.cid n) .write) { code := 3 }
  else if r.t.buffers then
    if r.t.overflows [8 * words.length] then r.waitIn r.s (.twin 0)
    else
      let b := r.buffer s r.g [(r.lanes.headD 0, .tid n words valid, feedOther 2 15 0 i ops)]
      k b.1 b.2
  else k (tidWrite s r.coreReq r.t.bind.cid r.t.bind.icn n words valid) r.g

/-- The eight words of a record at an address: eight acquire reads at pkg scope, each checked (R250). -/
def readRecord (s : State) (who : Who) (va : Nat) : List Nat → State × Except (Nat × Check) (List DWord)
  | [] => (s, .ok [])
  | i :: is =>
    let a := (va + 8 * i) % 2 ^ 56
    match checkAccess s who a 8 .read with
    | .ok p =>
      match readPlace (noteTranslation s who a (.ok p)) who p 8 with
      | (t, .report c) => (t, .error (a, .bad c none))
      | (t, .bytes bs) =>
        match readRecord t who va is with
        | (u, .ok ws) => (u, .ok (BitVec.ofNat 64 (ofBytes bs) :: ws))
        | e => e
    | c => (s, .error (a, c))

/-- Words that the path reads, with its own buffered writes over them (R354). -/
def Run.readOwn (r : Run) (s : State) (va n : Nat) : State × Except (Nat × Check) (List DWord) :=
  match readRecord s r.who va (List.range n) with
  | (t, .ok ws) =>
    let bs := r.overlay r.lanes va (ws.flatMap fun w => toBytes 8 w.toNat)
    (t, .ok ((List.range n).map fun i => BitVec.ofNat 64 (ofBytes ((bs.drop (8 * i)).take 8))))
  | e => e

/-- tidset. -/
def execTidset (x : Std) (s : State) : Out := .next <| gate (.tidset x) s fun r =>
  match firstTok [r.uB x.b 64, r.barrierNum x] with
  | some t => r.raise t
  | none =>
    let n := (r.barrierNum x).val
    let va := (r.uB x.b 64).val % 2 ^ 56
    if 1024 ≤ n then r.done ((r.feedStatus r.g 1).putS x.a.toNat 1)
    else if va % 64 != 0 then r.fault 4 va
    else
      match r.readOwn (acquire r.s r.who .pkg) va 8 with
      | (t, .error (a, c)) => r.failAt t a c .read
      | (t, .ok ws) =>
        match firstBadOffset (ofBytes (ws.flatMap fun w => toBytes 8 w.toNat)) with
        | some o => r.doneIn t ((r.feedStatus r.g (2 + o * 0x100)).putS x.a.toNat (2 + o * 0x100))
        | none =>
          r.setTid t (.tidset x) n ws true ((ws.map BitVec.toNat) ++ [n]) fun u g =>
            r.doneIn u ((r.feedStatus g 0).putS x.a.toNat 0)

/-- tidinv. -/
def execTidinv (x : One) (s : State) : Out := .next <| gate (.tidinv x) s fun r =>
  match r.uB x.b 64 with
  | .bad t => r.raise t
  | .ok n =>
    if 1024 ≤ n then r.done ((r.feedStatus r.g 1).putS x.a.toNat 1)
    else
      match r.tid_ r.coreReq n with
      | (t, .error c) => r.faultIn t { code := c }
      | (t, .ok none) => r.doneIn t ((r.feedStatus r.g 3).putS x.a.toNat 3)
      | (t, .ok (some _)) => r.setTid t (.tidinv x) n [] false [n] fun u g => r.doneIn u ((r.feedStatus g 0).putS x.a.toNat 0)

/-- tidq.wN: a word of the record, 0 where the identifier is not valid. -/
def execTidq (x : Std) (s : State) : Out := .next <| gate (.tidq x) s fun r =>
  match r.barrierNum x with
  | .bad t => r.raise t
  | .ok n =>
    match r.tid_ r.coreReq n with
    | (t, .error c) => r.faultIn t { code := c }
    | (t, .ok none) => r.doneIn t (r.g.putS x.a.toNat 0)
    | (t, .ok (some rec)) => r.doneIn t (r.g.putS x.a.toNat (recField rec (8 * x.f.toNat) 8))

/-- tidq.state: 1 for a valid identifier, 2 for one out of range, 0 otherwise. -/
def execTidqState (x : Std) (s : State) : Out := .next <| gate (.tidqState x) s fun r =>
  match r.barrierNum x with
  | .bad t => r.raise t
  | .ok n =>
    if 1024 ≤ n then r.done (r.g.putS x.a.toNat 2)
    else
      match r.tid_ r.coreReq n with
      | (t, .error c) => r.faultIn t { code := c }
      | (t, .ok v) => r.doneIn t (r.g.putS x.a.toNat (b2n v.isSome))

end Sys2Proof.Machine
end

