-- ==== Sys2Proof/Machine/Surface.lean ====
section
/-!
DEFINITION. Surface operations at issue and the surface management instructions (16_surfaces.md R282 to R291).
-/

namespace Sys2Proof.Machine

open Sys2Proof

/-! ## Batches (R282, R283) -/

/-- The key of a screen tile. -/
def screenTile (tx ty : Nat) : Nat := ty * 256 + tx
/-- Column of a screen tile. -/
def screenTx (tile : Nat) : Nat := tile % 256
/-- Row of a screen tile. -/
def screenTy (tile : Nat) : Nat := tile / 256

/-- Has the pixel group of a batch exited with all its operations applied (R283)? -/
def batchGone (s : State) (ticket tile batch : Nat) : Bool :=
  s.teams.any fun t => t.2.groups.any fun g =>
    match g.2.pixel with
    | some p => p.ticket == ticket && p.tile == tile && p.batch == batch && g.2.exited &&
        !(s.sfops.any fun o => o.2.team == t.1 && o.2.group == g.1)
    | none => false

/-- The unfinished batches of a screen tile of a draw stream, oldest first (R283). -/
def unfinishedBatches (s : State) (ticket tile : Nat) : List Nat :=
  match (mfind ticket s.insts).bind Inst.draw with
  | none => []
  | some d => (mget {} tile d.batches).unfinished.filter fun b => !batchGone s ticket tile b

/-- The order of a pixel group's operations: its draw stream, screen tile and batch (R282). -/
def Group.sequence (g : Group) : Option (Nat × Nat × Nat) := g.pixel.map fun p => (p.ticket, p.tile, p.batch)

/-- Is the group's batch within the reorder window (R283)? -/
def Run.inWindow (r : Run) : Bool :=
  match r.g.sequence with
  | none => true
  | some (t, tile, b) =>
    match unfinishedBatches r.s t tile with
    | o :: _ => decide (b < o + 64)
    | [] => true

/-! ## The checks of R286 -/

/-- What a touch of a tile meets that no spill can mend: its fault code (R279, R280). -/
def tileFail (s : State) (cid sid tile : Nat) : Option Nat :=
  match touchTile s cid sid tile with
  | .fail => some 0xB
  | .bring =>
    if (tileOf s cid sid tile).spilled.isNone then none
    else
      match tilePieces s cid sid tile .read with
      | .error c => some c.1
      | .ok _ => none
  | _ => none

/-- Width code of a sample size (R286). -/
def widthCodeOk (f code : Nat) : Bool := if f ≤ 4 then code == 0 else if f == 8 then code == 1 else code == 2

/-- Does the operation fit the format of the surface (R286 check 5)? -/
def kindFits (k : SurfKind) (f fmt : Nat) : Bool :=
  match k with
  | .blend => fmt != 9 && fmt != 10
  | .depth => fmt == 9
  | _ => widthCodeOk (formatBytes fmt) f

/-- Checks 2 to 5 of R286 on a lane's coordinate and selector: 0, or the code of the first that fails. -/
def Run.surfCode (r : Run) (k : SurfKind) (f coord sel : Nat) : Nat :=
  let cid := r.t.bind.cid
  let sid := sel % 1024
  let x := bits coord 13 0
  let y := bits coord 27 14
  let fld := sfField r.s cid sid
  if bits coord 31 30 != 0 || sel != sid + bits sel 26 16 * 2 ^ 16 then 0xA
  else if sfReadCode r.s (coreMaster r.t.core) cid sid != 0 then sfReadCode r.s (coreMaster r.t.core) cid sid
  else if !sfLive r.s cid sid then 0xB
  else if fld 0x08 2 ≤ x || fld 0x0A 2 ≤ y || fld 0x0C 2 ≤ bits sel 26 16 || fld 0x0E 1 ≤ bits coord 29 28 then 0xA
  else if !kindFits k f (fld 0x0F 1) then 0xB
  else
    match r.g.sequence with
    | some (_, tile, _) => if x / 64 != screenTx tile || y / 64 != screenTy tile then 0xB else 0
    | none => 0

/-- A lane of an operation whose checks have passed. -/
def Run.surfLane (r : Run) (k : SurfKind) (coord sel data l : Nat) : SurfLane :=
  let helper := match r.g.pixel with
    | some _ => (r.g.pixelLane l).cover == 0
    | none => false
  { lane := l, x := bits coord 13 0, y := bits coord 27 14, smp := bits coord 29 28, layer := bits sel 26 16
    sid := sel % 1024, data := data, idle := helper && k != .load
    res := if helper && k == .depth then some (.ok 0) else none }

/-- The tile of a lane. -/
def SurfLane.tile (l : SurfLane) (s : State) (cid : Nat) : Nat :=
  tileAt s cid l.sid (surfOffset s cid l.sid l.x l.y l.layer l.smp)

/-- The data operand of a lane: A for sfblend and sfst, E for sfdepth. -/
def Run.surfData (r : Run) (k : SurfKind) (x : Std) (regs l : Nat) : PV Nat :=
  match k with
  | .load => .ok 0
  | .depth => r.g.operand x.e 32 l
  | _ => r.g.readV x.a.toNat l regs

/-- A lane as issued: its operands checked in the order of R286; a code where a check fails. -/
def Run.surfCheck (r : Run) (k : SurfKind) (x : Std) (regs : Nat) (l : Nat) : SurfLane × Nat :=
  let none_ : SurfLane := { lane := l, x := 0, y := 0, smp := 0, idle := true }
  match firstTok [r.g.readV x.b.toNat l 1, r.src x.c 64 l, r.surfData k x regs l] with
  | some t => ({ none_ with res := some (.bad t) }, 0)
  | none =>
    let coord := (r.g.readV x.b.toNat l 1).val
    let sel := (r.src x.c 64 l).val
    match r.surfCode k x.f.toNat coord sel with
    | 0 =>
      let e := r.surfLane k coord sel (r.surfData k x regs l).val l
      match if e.idle then none else tileFail r.s r.t.bind.cid e.sid (e.tile r.s r.t.bind.cid) with
      | some c => ({ none_ with res := some (.bad (mkToken c l false false r.pc)) }, c)
      | none => (e, 0)
    | c => ({ none_ with res := some (.bad (mkToken c l false false r.pc)) }, c)

/-! ## Issue (R282 to R289) -/

/-- Issue a surface operation: the reorder window, the checks, and the operation on its way to the bricks. sfld and
sfdepth wait for their results (R63); in a team that buffers its effects sfst and sfblend are items (R354). -/
def Run.surface (r : Run) (i : Instr) (k : SurfKind) (x : Std) (regs : Nat) : State :=
  if r.act.isEmpty then r.done r.g
  else if !r.inWindow then r.waitIn r.s .room
  else
    let ls := r.act.map (r.surfCheck k x regs)
    let poison := ls.findSome? fun e => if e.2 == 0 && e.1.idle then e.1.res.bind PV.tok? else none
    match if k == .load then none else poison with
    | some t => r.raise t
    | none =>
      match if x.spec then none else ls.find? fun e => e.2 != 0 with
      | some e => r.fault e.2
      | none =>
        let op : SurfOp := { team := r.tid, group := r.gnum, path := r.path, cid := r.t.bind.cid, icn := r.t.bind.icn
                             kind := k, f := x.f.toNat, a := x.a.toNat, regs := regs, spec := x.spec, ftz := r.g.ftz
                             words := (encode i).map BitVec.toNat
                             order := r.g.sequence, lanes := ls.map Prod.fst }
        if (k == .store || k == .blend) && r.t.buffers then
          if r.t.overflows (ls.map fun _ => 4 * regs) then r.waitIn r.s (.twin 0)
          else
            let b := r.buffer r.s r.g ((op.lanes.filter fun l => !l.idle).map fun l =>
              (l.lane, Effect.surface { op with lanes := [l] },
                feedOther 2 15 0 i [(r.g.readV x.b.toNat l.lane 1).val, (r.src x.c 64 l.lane).val, l.data]))
            r.doneIn b.1 b.2
        else
          let s1 := { r.s with sfops := mput r.s.nextId op r.s.sfops, nextId := r.s.nextId + 1 }
          if k == .store || k == .blend then r.doneIn s1 r.g else r.waitIn s1 (.result r.s.nextId)

/-- sfblend (R288). -/
def execSfblend (x : Std) (s : State) : Out := .next <| gate (.sfblend x) s fun r => r.surface (.sfblend x) .blend x 4
/-- sfdepth (R289). -/
def execSfdepth (x : Std) (s : State) : Out := .next <| gate (.sfdepth x) s fun r => r.surface (.sfdepth x) .depth x 1
/-- Registers of a width code of sfld and sfst. -/
def surfRegs (x : Std) : Nat := 2 ^ (x.f.toNat % 4)
/-- sfld (R287). -/
def execSfld (x : Std) (s : State) : Out := .next <| gate (.sfld x) s fun r => r.surface (.sfld x) .load x (surfRegs x)
/-- sfst (R287). -/
def execSfst (x : Std) (s : State) : Out := .next <| gate (.sfst x) s fun r => r.surface (.sfst x) .store x (surfRegs x)

/-! ## Surface descriptors (Table 16.1) -/

/-- The offsets of the fields of a descriptor that break Table 16.1 or 16.2; `d` holds its 64 bytes. -/
def badFields (d : Nat) : List Nat :=
  let fld := fieldAt d
  let bad := fun (o : Nat) (b : Bool) => if b then [o] else []
  let va := fun (x : Nat) => x % 2 ^ 14 != 0 || 2 ^ 56 ≤ x
  let dim := fun (x m : Nat) => x == 0 || m < x
  let tw := ceilDiv (fld 0x08 2) 64
  let th := ceilDiv (fld 0x0A 2) 64
  bad 0x00 (va (fld 0 8)) ++ bad 0x08 (dim (fld 0x08 2) 16384) ++ bad 0x0A (dim (fld 0x0A 2) 16384) ++
  bad 0x0C (dim (fld 0x0C 2) 2048) ++ bad 0x0E (!(fld 0x0E 1 == 1 || fld 0x0E 1 == 2 || fld 0x0E 1 == 4)) ++
  bad 0x0F (10 < fld 0x0F 1) ++ bad 0x10 (1023 < fld 0x10 2) ++
  bad 0x12 (dim (fld 0x12 2) 1024 || 1024 < fld 0x10 2 + fld 0x12 2) ++ bad 0x14 (fld 0x14 4 != 0) ++
  bad 0x18 (va (fld 0x18 8)) ++
  bad 0x20 (fld 0x20 8 != 0 || 2 ^ 42 ≤ fld 0x0C 2 * th * tw * (4096 * formatBytes (fld 0x0F 1) * fld 0x0E 1)) ++
  bad 0x28 (fld 0x28 1 != 0) ++ bad 0x29 (fld 0x29 1 != 0) ++ bad 0x2A (fld 0x2A 2 != 0) ++ bad 0x2C (fld 0x2C 4 != 0) ++
  bad 0x30 (fld 0x30 16 != 0)

/-- SIZE of a descriptor (R276). -/
def descSize (d : Nat) : Nat :=
  let f := fieldAt d
  f 0x0C 2 * ceilDiv (f 0x0A 2) 64 * ceilDiv (f 0x08 2) 64 * (4096 * formatBytes (f 0x0F 1) * f 0x0E 1)

/-- Has a stack that holds tiles of the surface no live bank in its set (R291)? -/
def noSpace (s : State) (d : Nat) : Bool :=
  let f := fieldAt d
  let live := fun (st : Nat) =>
    (range' (8 * f 0x10 2) (8 * f 0x12 2)).any fun b => !(dieOf s st).deadBanks.contains b
  !live 0 || ((64 < f 0x08 2 || 64 < f 0x0A 2) && !live 1)

/-- Forget the tiles of a surface. -/
def discardTiles (s : State) (cid sid : Nat) : State :=
  let mine := fun (k n : Nat) => k / 2 ^ n == cid * 1024 + sid
  { s with
    tiles := s.tiles.filter fun e => !mine e.1 32
    surf := s.surf.filter fun e => !mine e.1 44
    surfBad := s.surfBad.filter fun k => !mine k 44
    surfPast := s.surfPast.filter fun e => !mine e.1 44 }

/-! ## Management (R291) -/

/-- A write of the surface table by the path's core, and then the rest; a denial is Fault(0x03) (R387). -/
def Run.sfWrite (r : Run) (s : State) (sid off : Nat) (bs : List Byte) (k : State → State) : State :=
  match hwWrite s (coreMaster r.t.core) (sfEntry s r.t.bind.cid sid + off) bs with
  | (t, true) => k t
  | (t, false) => r.faultIn t { code := 3 }

/-- A read of the entry of a surface number: the operand's poison, RANGE, a failed read, NOTLIVE, or the operation. -/
def Run.onSurface (r : Run) (x : Std) (k : Nat → State) : State :=
  match r.barrierNum x with
  | .bad t => r.raise t
  | .ok n =>
    if 1024 ≤ n then r.done (r.g.putS x.a.toNat 6)
    else
      match sfReadCode r.s (coreMaster r.t.core) r.t.bind.cid n with
      | 0 =>
        if !sfLive r.s r.t.bind.cid n && !(r.g.waitOf r.path == .freeing n) then r.done (r.g.putS x.a.toNat 4) else k n
      | c => r.fault c

/-- sfalloc. -/
def execSfalloc (x : Std) (s : State) : Out := .next <| gate (.sfalloc x) s fun r =>
  match r.uB x.b 64 with
  | .bad t => r.raise t
  | .ok v =>
    let va := v % 2 ^ 56
    let cid := r.t.bind.cid
    if va % 64 != 0 then r.fault 4 va
    else
      match r.readOwn (acquire r.s r.who .pkg) va 8 with
      | (t, .error (a, c)) => r.failAt t a c .read
      | (t, .ok ws) =>
        let d := ofBytes (ws.flatMap fun w => toBytes 8 w.toNat)
        let end_ := fun (u : State) (n : Nat) => r.doneIn u (r.g.putS x.a.toNat n)
        match badFields d with
        | o :: _ => end_ t (2 + o * 0x100)
        | [] =>
          match (List.range 1024).find? fun n => sfReadCode t (coreMaster r.t.core) cid n != 0 || sfField t cid n 0x28 1 == 0 with
          | none => end_ t 1
          | some sid =>
            match sfReadCode t (coreMaster r.t.core) cid sid with
            | 0 =>
              if noSpace t d then end_ t 3
              else
                let e := d + descSize d * 2 ^ 256 + 2 ^ 320
                r.sfWrite t sid 0 (toBytes 64 e) fun u => end_ (discardTiles u cid sid) (sid * 0x10000)
            | c => r.faultIn t { code := c }

/-- Does a place lie in a surface? -/
def Place.inSurface (sid : Nat) : Place → Bool
  | .surface n _ => n == sid
  | .stashThrough _ q => q.inSurface sid
  | .stashAtomic _ _ q => q.inSurface sid
  | .stashFill _ q _ => q.inSurface sid
  | _ => false

/-- Does an operation that a matrix engine has accepted name a view of a surface? -/
def MxOp.views (op : MxOp) (s : State) (sid : Nat) : Bool :=
  op.faulted.isNone && [op.recA, op.recB].any fun w =>
    tKind w == 1 && viewSurface s (teamOf s op.team).core (whoEngine s op.team 1).master op.cid w == some sid

/-- Does a sampling operation read a surface? -/
def TexOp.samples (o : TexOp) (s : State) (cid sid : Nat) : Bool :=
  o.kind != .trace && fieldAt o.desc 9 1 % 4 == 1 &&
  (match lookup s o.core (whoEngine s o.team 3).master cid (fieldAt o.desc 0 8) with
    | .page pte l => pteType pte == 2 && bits (leafPa pte l (fieldAt o.desc 0 8)) 51 42 == sid
    | .fail .. => false)

/-- Has a surface operations or accesses on their way: surface operations, copies, matrix operations on its views and
sampling (R291)? -/
def surfaceBusy (s : State) (cid sid : Nat) : Bool :=
  (s.sfops.any fun o => o.2.cid == cid && o.2.lanes.any fun l => l.sid == sid && !l.done && !l.idle) ||
  (s.copies.any fun c => c.2.cid == cid && c.2.lanes.any fun l =>
    !l.done && (l.dst.2.inSurface sid || (l.src.map fun p => p.2.inSurface sid).getD false ||
      (l.meta_.map fun p => p.2.inSurface sid).getD false)) ||
  (s.mxops.any fun o => o.2.cid == cid && o.2.views s sid) ||
  (s.texops.any fun o => (teamOf s o.2.team).bind.cid == cid && o.2.samples s cid sid)

/-- sffree: the surface becomes FREEING, its accepted operations end, its tiles are discarded, and it becomes FREE. -/
def execSffree (x : Std) (s : State) : Out := .next <| gate (.sffree x) s fun r =>
  r.onSurface x fun n =>
    let cid := r.t.bind.cid
    if sfPinned r.s cid n then r.done (r.g.putS x.a.toNat 5)
    else if surfaceBusy r.s cid n then r.sfWrite r.s n 0x28 [2] fun t => r.waitIn t (.freeing n)
    else r.sfWrite r.s n 0x28 [0] fun t => r.doneIn (discardTiles t cid n) (r.g.putS x.a.toNat 0)

/-- Tiles of a surface on a stack (R278). -/
def stackTiles (s : State) (cid sid stack : Nat) : Nat :=
  let n := tilesAcross s cid sid * tilesDown s cid sid
  sfField s cid sid 0x0C 2 * (if stack == 0 then (n + 1) / 2 else n / 2)

/-- Units that the tiles of a surface mapped to a bank of a stack need (R278, R281). -/
def unitsIn (s : State) (cid sid stack bank : Nat) : Nat :=
  let l := liveBanks s cid sid stack
  match l.findIdx? (· == bank) with
  | none => 0
  | some i =>
    let n := stackTiles s cid sid stack
    (if i < n then (n - i + l.length - 1) / l.length else 0) * tileUnits s cid sid

/-- The pinned surfaces of every context, found by the FLAGS bytes that the table holds. -/
def pinnedSurfaces (s : State) : List (Nat × Nat) :=
  s.mem.filterMap fun e =>
    let o := e.1 - s.ctl.sfbase
    let c := o / 0x10000
    let n := o % 0x10000 / 64
    if s.ctl.sfbase ≤ e.1 && c < 1024 && o % 64 == 0x29 && bitB e.2.toNat 0 && sfLive s c n then some (c, n) else none

/-- Do the pins fit with one more surface: per live bank, at most 64 units (R281)? -/
def pinsFit (s : State) (cid sid : Nat) : Bool :=
  let ps := pinnedSurfaces s
  [0, 1].all fun st => (liveBanks s cid sid st).all fun b =>
    decide (ps.foldl (fun n p => n + unitsIn s p.1 p.2 st b) (unitsIn s cid sid st b) ≤ 64)

/-- sfpin. -/
def execSfpin (x : Std) (s : State) : Out := .next <| gate (.sfpin x) s fun r =>
  r.onSurface x fun n =>
    let cid := r.t.bind.cid
    if sfPinned r.s cid n then r.done (r.g.putS x.a.toNat 0)
    else if !pinsFit r.s cid n then r.done (r.g.putS x.a.toNat 3)
    else r.sfWrite r.s n 0x29 [1] fun t => r.doneIn t (r.g.putS x.a.toNat 0)

/-- sfpin.unpin. -/
def execSfpinUnpin (x : Std) (s : State) : Out := .next <| gate (.sfpinUnpin x) s fun r =>
  r.onSurface x fun n =>
    let fl := sfField r.s r.t.bind.cid n 0x29 1
    r.sfWrite r.s n 0x29 [BitVec.ofNat 8 (setBits fl 0 0 0)] fun t => r.doneIn t (r.g.putS x.a.toNat 0)

/-- The tiles that an eviction spills: resident and written, of an unpinned surface. -/
def evictable (s : State) (cid sid : Nat) : List Nat :=
  if sfPinned s cid sid then []
  else (s.tiles.filter fun e => e.1 / 2 ^ 32 == cid * 1024 + sid && e.2.resident && e.2.written).map fun e => tileKeyTile e.1

/-- sfevict: a handle of KIND 4, and the spills of its tiles. -/
def execSfevict (x : Std) (s : State) : Out := .next <| gate (.sfevict x) s fun r =>
  r.onSurface x fun n =>
    match r.t.takeHandle 4 with
    | none => r.waitIn r.s .handleFree
    | some (e, q, t1) =>
      let ev : Evict := { team := r.tid, entry := e, seq := q, cid := r.t.bind.cid, sid := n, left := evictable r.s r.t.bind.cid n }
      let s1 := modTeam r.s r.tid fun t => { t with handles := t1.handles, hseq := t1.hseq }
      r.doneIn { s1 with evicts := mput s1.nextId ev s1.evicts, nextId := s1.nextId + 1 }
        (r.g.setPending x.a.toNat (handleVal 4 e q))

/-- A 64-bit word of a stack's bank availability map (R279). -/
def mapWord (s : State) (stack w : Nat) : Nat :=
  (List.range 64).foldl (fun n b => if (dieOf s stack).deadBanks.contains (64 * w + b) then n else n + 2 ^ b) 0

/-- sfmap: a word of the map, the remap generation, or the number of live banks. -/
def execSfmap (x : Std) (s : State) : Out := .next <| gate (.sfmap x) s fun r =>
  let sel := match x.c with
    | .s n => r.g.readS n.toNat 64
    | c => .ok (srcNum c)
  match sel with
  | .bad t => r.raise t
  | .ok k =>
    let st := bitN k 7
    let v := match x.f.toNat with
      | 0 => mapWord r.s st (k % 128)
      | 1 => (dieOf r.s st).remapGen
      | _ => 8192 - (dieOf r.s st).deadBanks.length
    r.done (r.g.putS x.a.toNat v)

end Sys2Proof.Machine
end

