-- ==== Sys2Proof/Machine/Context.lean ====
section
/-!
DEFINITION. The instructions of the supervising handler on contexts and translations: ckill and crcl
(02_contexts.md R51 to R60), tlbinv (12_translation.md R224) and pgprobe (R225).
-/

namespace Sys2Proof.Machine

open Sys2Proof

/-! ## Context operations (R51, R58 to R60) -/

/-- The result of a context operation (R59). -/
def ctxWord (status icn state : Nat) : Nat := status + icn * 0x100 + state * 0x10000

/-- The result with the ICN and STATE of a CID as they stand. -/
def ctxResult (s : State) (cid status : Nat) : Nat := ctxWord status (ctxOf s cid).icn (ctxOf s cid).state

/-- Is a transition of the CID under way, so that another event on it must wait (R51)? -/
def inTransition (s : State) (cid : Nat) : Bool := (opsOf s cid).any fun o => o.kind == 1 || o.kind == 4

/-- What a ckill or crcl does once its CID is known: answer with a status, wait for another event, or start. -/
inductive CtxStep
  | answer (status : Nat)
  | wait
  | start
deriving DecidableEq, Repr

/-- ckill on a CID other than 0 (R58, Table 2.5). -/
def killStep (s : State) (cid : Nat) : CtxStep :=
  if inTransition s cid then .wait
  else if (ctxOf s cid).state == 0 then .answer 2
  else if (ctxOf s cid).state != 1 then .answer 1
  else .start

/-- crcl on a CID other than 0 (R60, Table 2.5). -/
def reclaimStep (s : State) (cid : Nat) : CtxStep :=
  if inTransition s cid then .wait
  else if (ctxOf s cid).state == 0 then .answer 2
  else if (ctxOf s cid).state == 1 then .answer 4
  else .start

/-- Write the result into S[A] and pass, as a fence.sc.sys after the instruction orders it. -/
def Run.answerCtx (r : Run) (a word : Nat) : State := r.doneIn (acquire r.s r.who .sys) (r.g.putS a word)

/-- The path waits for the context hardware, with the registers its fence left. -/
def Run.waitCtx (r : Run) (s : State) (w : Wait) : State := r.put s (r.g.setWait r.path w)

/-- ckill (R58): the kill starts, and its last acknowledgement answers. -/
def execCkill (x : One) (s : State) : Out := .next <| gate (.ckill x) s fun r0 =>
  match r0.g.getS x.b.toNat with
  | .bad t => r0.raise t
  | .ok v =>
    r0.releasing .sys fun r =>
      let n := v.toNat
      let cid := n % 1024
      let a := x.a.toNat
      if bits n 15 10 != 0 || bits n 63 17 != 0 then r.answerCtx a (ctxWord 5 0 0)
      else if cid == 0 then r.answerCtx a (ctxWord 3 0 0)
      else
        match killStep r.s cid with
        | .answer st => r.answerCtx a (ctxResult r.s cid st)
        | .wait => r.waitCtx r.s (.context cid)
        | .start =>
          startKill (r.waitCtx r.s (.quiet cid)) cid (bitB n 16) { kind := 2, reg := some (r.tid, r.gnum, r.path, a) }

/-- crcl (R60): the reclaim waits until every target is QUIET. -/
def execCrcl (x : One) (s : State) : Out := .next <| gate (.crcl x) s fun r0 =>
  match r0.g.getS x.b.toNat with
  | .bad t => r0.raise t
  | .ok v =>
    r0.releasing .sys fun r =>
      let n := v.toNat
      let cid := n % 1024
      let a := x.a.toNat
      if bits n 63 10 != 0 then r.answerCtx a (ctxWord 5 0 0)
      else if cid == 0 then r.answerCtx a (ctxWord 3 0 0)
      else
        match reclaimStep r.s cid with
        | .answer st => r.answerCtx a (ctxResult r.s cid st)
        | .wait => r.waitCtx r.s (.context cid)
        | .start => addOp (r.waitCtx r.s (.quiet cid)) cid { kind := 3, reg := some (r.tid, r.gnum, r.path, a) }

/-! ## Invalidating translations (R224) -/

/-- A range of addresses of one context, or of every context. -/
structure Extent where
  cid : Option Nat
  lo : Nat
  hi : Nat
deriving DecidableEq, Repr

/-- Does the extent meet the addresses from `lo` up to `hi`, exclusive? -/
def Extent.meets (x : Extent) (cid lo hi : Nat) : Bool :=
  (match x.cid with
    | none => true
    | some c => c == cid) && decide (x.lo < hi) && decide (lo < x.hi)

/-- The page of 2^n bytes that holds an address, as an extent. -/
def pageExtent (cid va n : Nat) : Extent := { cid := some cid, lo := va / 2 ^ n * 2 ^ n, hi := (va / 2 ^ n + 1) * 2 ^ n }

/-- The pages that an address lies in: its granule, each page held for it, and the page its leaf gives now (R224). -/
def pagesOf (s : State) (m : Master) (cid va : Nat) : List Extent :=
  pageExtent cid va 14 ::
    ((s.tlb.filter fun e => e.cid == cid && e.page == va / 2 ^ pageBits e.level).map fun e =>
      pageExtent cid va (pageBits e.level)) ++
    (match walk s m cid va with
      | .page _ l => [pageExtent cid va (pageBits l)]
      | .fail .. => [])

/-- The bits of the address span of a non-leaf entry of a level. -/
def spanBits (l : Nat) : Nat := if l = 3 then 47 else if l = 2 then 36 else if l = 1 then 25 else 14

/-- Does a held leaf lie in an extent? -/
def Tlb.within (e : Tlb) (xs : List Extent) : Bool :=
  xs.any fun x => x.meets e.cid (e.page * 2 ^ pageBits e.level) ((e.page + 1) * 2 ^ pageBits e.level)

/-- Does a held non-leaf entry lie over an extent? -/
def Tlb.over (e : Tlb) (xs : List Extent) : Bool :=
  xs.any fun x => x.meets e.cid (e.page * 2 ^ spanBits e.level) ((e.page + 1) * 2 ^ spanBits e.level)

/-- Remove translations from every TLB and non-leaf cache of both dies. -/
def dropTranslations (s : State) (xs : List Extent) : State :=
  { s with tlb := s.tlb.filter fun e => !Tlb.within e xs, nonLeaf := s.nonLeaf.filter fun e => !Tlb.over e xs }

/-- Does a queued copy still use a translation of the extents? -/
def CopyOp.uses (c : CopyOp) (xs : List Extent) : Bool :=
  c.lanes.any fun l => !l.done && (l.dst :: (l.src.toList ++ l.meta_.toList)).any fun a =>
    xs.any fun x => x.meets c.cid a.1 (a.1 + 1)

/-- The fault-queue entries that the extents cover. -/
def coveredEntries (s : State) (xs : List Extent) : List FaultEnt :=
  s.faultq.filter fun e => xs.any fun x => x.meets e.cid (e.granule * 2 ^ 14) ((e.granule + 1) * 2 ^ 14)

/-- Does a queued fault wait for one of the entries? -/
def FaultRec.waitsFor (f : FaultRec) (es : List FaultEnt) : Bool :=
  f.queued && !f.released && es.any fun e => e.core == f.core && e.cid == f.cid && e.granule == granuleOf f.addr

/-- A held fault after the release of its entry: resolved by RESUME, or unrecoverable (R338, R339). A redirected one
then waits for fret (R343). -/
def FaultRec.release (f : FaultRec) (es : List FaultEnt) (fail : Bool) (swapped : Bool) : FaultRec :=
  if !f.waitsFor es then f
  else if fail then { f with released := true, unrec := true }
  else { f with released := true, action := if swapped && f.action.isNone then some 0 else f.action }

/-- The code of the entry that an address of a core waits for. -/
def entryCode (es : List FaultEnt) (core cid va : Nat) : Option Nat :=
  (es.find? fun e => e.core == core && e.cid == cid && e.granule == granuleOf va).map FaultEnt.code

/-- Release fault-queue entries (R224): held faults, stopped matrix operations and bulk copies, and team-end
write-backs that wait for them go on, or with .fail end with their code; notices not yet written are dropped (R223). -/
def releaseEntries (s : State) (es : List FaultEnt) (fail : Bool) : State :=
  let gone := fun (core idx : Nat) => es.any fun e => e.core == core && e.idx == idx
  let group : Group → Group := fun g =>
    { g with redirected := g.redirected.map fun (f : FaultRec) => f.release es fail false
             swapped := g.swapped.map fun (f : FaultRec) => f.release es fail true }
  let team : Team → Team := fun t =>
    let mine := fun (n : Nat) => es.any fun (e : FaultEnt) => e.core == t.core && e.cid == t.bind.cid && e.granule == n
    { t with
      groups := t.groups.map fun (g : Nat × Group) => (g.1, group g.2)
      endWaits := t.endWaits.filter fun n => !mine n
      denied := if fail then (t.endWaits.filter mine).foldl (fun d n => insertNat n d) t.denied else t.denied }
  let mx : MxOp → MxOp := fun o =>
    match o.blocked.bind fun va => entryCode es (teamOf s o.team).core o.cid va with
    | some c => if fail then { o with failed := some c } else o
    | none => o
  let cp : CopyOp → CopyOp := fun c =>
    match c.blocked.bind fun va => entryCode es (teamOf s c.team).core c.cid va with
    | some k => if fail then { c with ended := some (3, k) } else { c with blocked := none }
    | none => c
  let s1 := { s with
    faultq := s.faultq.filter fun (e : FaultEnt) => !gone e.core e.idx
    notices := s.notices.filter fun (n : Nat × Notice) => !gone n.2.core n.2.entry
    teams := s.teams.map fun (t : Nat × Team) => (t.1, team t.2)
    mxops := s.mxops.map fun (o : Nat × MxOp) => (o.1, mx o.2)
    copies := s.copies.map fun (c : Nat × CopyOp) => (c.1, cp c.2) }
  -- the save areas of the teams whose held fault this resolves (R337)
  (s1.teams.filter fun t => t.2.image && t.2.sflags != (teamOf s t.1).sflags).foldl (fun u t => refreshFlags u t.2) s1

/-- Every access that used a translation is performed at sys scope: what the first-level caches of all cores hold
dirty (R224). -/
def performAll (s : State) : State :=
  (s.l1.foldl (fun cs e => if e.2.dirty then insertNat (e.1 / 2 ^ 52) cs else cs)
    (s.requests.foldl (fun cs e => if e.2.isRead then cs else insertNat e.2.core cs) [])).foldl flushCore s

/-- tlbinv over its extents (R224), between a release and an acquire at sys scope. -/
def Run.tlbinv (r : Run) (a : Nat) (fail : Bool) (xs : State → List Extent) : State :=
  r.releasing .sys fun r1 =>
    let es := xs r1.s
    let s1 := dropTranslations r1.s es
    if s1.copies.any fun c => c.2.uses es then r1.waitCtx s1 .translations
    else
      let s2 := performAll s1
      let rel := coveredEntries s2 es
      let s3 := releaseEntries s2 rel fail
      -- the path's own group may hold one of the faults
      let g := { r1.g with redirected := (r1.groupIn s3).redirected, swapped := (r1.groupIn s3).swapped }
      r1.doneIn (acquire s3 r1.who .sys) (g.putS a (min rel.length 0xFFFF * 0x10000))

/-- The statuses of tlbinv that do nothing (R224). -/
def Run.tlbinvStatus (r : Run) (a st : Nat) : State :=
  r.releasing .sys fun r1 => r1.doneIn (acquire r1.s r1.who .sys) (r1.g.putS a st)

/-- Is .fail given? -/
def tlbFail (x : Std) : Bool := x.f.getLsbD 2

/-- S[C] as a CID, and none where its upper bits are not zero. -/
def cidOf (c : Nat) : Option Nat := if bits c 63 10 != 0 then none else some (c % 1024)

/-- tlbinv.page (R224). -/
def execTlbinvPage (x : Std) (s : State) : Out := .next <| gate (.tlbinvPage x) s fun r =>
  match r.g.getS x.b.toNat, r.src x.c 64 0 with
  | .bad t, _ => r.raise t
  | .ok _, .bad t => r.raise t
  | .ok b, .ok c =>
    let va := b.toNat % 2 ^ 56
    match cidOf c with
    | none => r.tlbinvStatus x.a.toNat 1
    | some cid =>
      if isLocal va then r.tlbinvStatus x.a.toNat 2
      else r.tlbinv x.a.toNat (tlbFail x) fun s => pagesOf s (coreMaster r.t.core) cid va

/-- tlbinv.range (R224). -/
def execTlbinvRange (x : Std) (s : State) : Out := .next <| gate (.tlbinvRange x) s fun r =>
  match firstTok [(r.g.getS x.b.toNat).map BitVec.toNat, r.src x.c 64 0, r.src x.e 64 0] with
  | some t => r.raise t
  | none =>
    let va := (r.g.sVal x.b.toNat) % 2 ^ 56
    let len := (r.src x.e 64 0).val
    match cidOf (r.src x.c 64 0).val with
    | none => r.tlbinvStatus x.a.toNat 1
    | some cid =>
      if isLocal va || len == 0 || decide (2 ^ 56 < va + len) then r.tlbinvStatus x.a.toNat 2
      else r.tlbinv x.a.toNat (tlbFail x) fun s =>
        { cid := some cid, lo := va, hi := va + len } ::
          (pagesOf s (coreMaster r.t.core) cid va ++ pagesOf s (coreMaster r.t.core) cid (va + len - 1))

/-- tlbinv.cid (R224). -/
def execTlbinvCid (x : Std) (s : State) : Out := .next <| gate (.tlbinvCid x) s fun r =>
  match r.src x.c 64 0 with
  | .bad t => r.raise t
  | .ok c =>
    match cidOf c with
    | none => r.tlbinvStatus x.a.toNat 1
    | some cid => r.tlbinv x.a.toNat (tlbFail x) fun _ => [{ cid := some cid, lo := 0, hi := 2 ^ 56 }]

/-- tlbinv.all (R224). -/
def execTlbinvAll (x : Std) (s : State) : Out := .next <| gate (.tlbinvAll x) s fun r =>
  r.tlbinv x.a.toNat (tlbFail x) fun _ => [{ cid := none, lo := 0, hi := 2 ^ 56 }]

/-! ## pgprobe (R225) -/

/-- The result of a walk (Table 12.6): for every status but OK only LVL and STATUS. -/
def probeWord (w : Walked) (va : Nat) : Nat :=
  match w with
  | .page e l =>
    pteDev e * 2 ^ 52 + leafPa e l va / 2 ^ 14 * 2 ^ 14 + l * 2 ^ 12 + pteType e * 2 ^ 10 + b2n (bitB e 8) * 2 ^ 9 +
      b2n (pteX e) * 2 ^ 8 + b2n (pteW e) * 2 ^ 7 + b2n (pteR e) * 2 ^ 6
  | .fail c mal l => l * 2 ^ 12 + (if c == 5 then 3 else if c == 3 then 4 else if mal then 2 else 1)

/-- pgprobe: a walk that reads no TLB and fills none, with acquire reads at pkg scope (R225). -/
def execPgprobe (x : Std) (s : State) : Out := .next <| gate (.pgprobe x) s fun r =>
  match r.g.getS x.b.toNat, r.src x.c 64 0 with
  | .bad t, _ => r.raise t
  | .ok _, .bad t => r.raise t
  | .ok b, .ok c =>
    let va := b.toNat % 2 ^ 56
    -- what the path has itself written of the tables comes first (R201)
    let s1 := flushFor (acquire r.s r.who .pkg) r.t.core r.tid r.who.threads
    let word :=
      match cidOf c with
      | none => 5
      | some cid =>
        if (ctxOf r.s cid).state == 0 then 5
        else if isLocal va then 6
        else probeWord (walk s1 (coreMaster r.t.core) cid va) va
    let s2 := if word % 8 == 4 then logWalk s1 none (coreMaster r.t.core) ((cidOf c).getD 0) va else s1
    r.doneIn s2 (r.g.putS x.a.toNat word)

end Sys2Proof.Machine
end

