-- ==== Sys2Proof/Machine/Control.lean ====
section
/-!
DEFINITION. Control transfers, ends of threads, hardware loops, exile branches and handle instructions
(08_issue.md R148 to R163).
-/

namespace Sys2Proof.Machine

open Sys2Proof

/-! ## Transfers -/

/-- The address an I-tail offset names (R148). -/
def Run.target (r : Run) (imm : Word) : Nat := (r.pc + signExt 32 56 imm.toNat) % 2 ^ 56

/-- Each lane of the path goes to its target, or passes the instruction; one that takes a transfer leaves the loops
that do not hold its target where `leave` says so (R155, R156). -/
def Run.transfer (r : Run) (g : Group) (take : Nat → Option Nat) (leave : Bool) : State :=
  let fix := fun (l : Nat) (t : Thread) =>
    if r.lanes.contains l then
      match take l with
      | some a => { t with loops := if leave then leaveLoops a t.loops else t.loops }
      | none => { t with loops := (passLoop t r.pc r.len).2 }
    else t
  let dest := r.lanes.map fun l =>
    match take l with
    | some a => (l, a)
    | none => (l, (passLoop (g.thread l) r.pc r.len).1)
  r.goTo r.s { g with threads := g.threads.mapIdx fix } dest

/-- The active lanes take one target. -/
def Run.takeAll (r : Run) (a : Nat) (l : Nat) : Option Nat := if r.act.contains l then some a else none

/-- bra (R150). -/
def execBra (x : Imm) (s : State) : Out := .next <| gate (.bra x) s fun r =>
  let diverges := bitB x.a.toNat 0 && !r.act.isEmpty && decide (r.act.length < r.lanes.length)
  if diverges && r.g.unifen then r.fault 0x0F
  else
    let g := if diverges then { r.g with gstat := r.g.gstat ||| 0x100 } else r.g
    r.transfer g (r.takeAll (r.target x.imm)) true

/-- A register target of a lane: bits 55:0 of its pair (R148). -/
def Run.laneTarget (r : Run) (b : BitVec 8) (l : Nat) : PV Nat := (r.g.readV b.toNat l 2).map (· % 2 ^ 56)

/-- bri and ret: each active lane goes to its own target (R27, R148, R151). The fault of a misaligned target names the lowest
lane's such target as its address: no rule says whether a target is an access in the sense of Table 19.2 (DESIGN CHOICE,
log 83). -/
def Run.indirect (r : Run) (b : BitVec 8) : State :=
  match firstTok (r.act.map (r.laneTarget b)) with
  | some t => r.raise t
  | none =>
    match (r.act.map fun l => (r.laneTarget b l).val).find? fun a => a % 4 != 0 with
    | some a => r.fault 4 a
    | none => r.transfer r.g (fun l => if r.act.contains l then some (r.laneTarget b l).val else none) true

/-- bri (R151). -/
def execBri (x : One) (s : State) : Out := .next <| gate (.bri x) s fun r => r.indirect x.b
/-- ret (R151). -/
def execRet (x : One) (s : State) : Out := .next <| gate (.ret x) s fun r => r.indirect x.b

/-- call: the return address first, then the transfer; no loop is left (R151, R156). -/
def execCall (x : Imm) (s : State) : Out := .next <| gate (.call x) s fun r =>
  let g := r.putLanes x.a.toNat 2 fun _ => .ok ((r.pc + 8) % 2 ^ 56)
  r.transfer g (r.takeAll (r.target x.imm)) false

/-- ubra (R152). -/
def execUbra (x : Imm) (s : State) : Out := .next <| gate (.ubra x) s fun r =>
  r.transfer r.g (r.takeAll (r.target x.imm)) true

/-- A move of the path to a target register (R152). -/
def Run.uniformJump (r : Run) (b : BitVec 8) : State :=
  match (r.g.getS b.toNat).map fun v => v.toNat % 2 ^ 56 with
  | .bad t => r.raise t
  | .ok a => if a % 4 != 0 then r.fault 4 a else r.transfer r.g (r.takeAll a) true

/-- ujmp (R152). -/
def execUjmp (x : One) (s : State) : Out := .next <| gate (.ujmp x) s fun r => r.uniformJump x.b
/-- uret (R152). -/
def execUret (x : One) (s : State) : Out := .next <| gate (.uret x) s fun r => r.uniformJump x.b

/-- ucall (R152). -/
def execUcall (x : Imm) (s : State) : Out := .next <| gate (.ucall x) s fun r =>
  r.transfer (r.g.putS x.a.toNat ((r.pc + 8) % 2 ^ 56)) (r.takeAll (r.target x.imm)) false

/-! ## Meeting registers (R153) -/

/-- The number a meeting register reads as: none is all ones. -/
def meetVal (m : Option Nat) : Nat := m.getD (2 ^ 56 - 1)
/-- A number as a meeting register. -/
def meetOf (v : Nat) : Option Nat := if v == 2 ^ 56 - 1 then none else some v

/-- setmt with a new value per active lane: the old value into the pair, the new into the register. -/
def Run.setMeet (r : Run) (a : BitVec 8) (new : Nat → Option Nat) : State :=
  let g := r.putLanes a.toNat 2 fun l => .ok (meetVal (r.g.thread l).meet)
  r.done { g with threads := g.threads.mapIdx fun l t => if r.act.contains l then { t with meet := new l } else t }

/-- setmt (R153). -/
def execSetmt (x : Imm) (s : State) : Out := .next <| gate (.setmt x) s fun r =>
  r.setMeet x.a fun _ => some (r.target x.imm)

/-- setmt.r: the new value from each lane's pair (R148, R153). -/
def execSetmtR (x : Imm) (s : State) : Out := .next <| gate (.setmtR x) s fun r =>
  let v := r.laneTarget x.b
  match firstTok (r.act.map v) with
  | some t => r.raise t
  | none =>
    match (r.act.map fun l => (v l).val).find? fun a => a % 4 != 0 && a != 2 ^ 56 - 1 with
    | some a => r.fault 4 a
    | none => r.setMeet x.a fun l => meetOf (v l).val

/-! ## Ends, and instructions without effect (R154) -/

/-- Does a team buffer its outward effects (R352, R354)? -/
def Team.buffersEffects (t : Team) : Bool := t.paired || t.contained

/-- Must the path commit before it goes on (R355): its team buffers effects, and it has not committed here? -/
def Run.mustCommit (r : Run) : Bool :=
  r.t.buffersEffects && !(mget {} r.path r.g.paths).committed

/-- exit: the threads of Active() end; a team that buffers its effects commits first (R355). -/
def execExit (x : One) (s : State) : Out := .next <| gate (.exit x) s fun r =>
  if r.mustCommit && !r.act.isEmpty then r.waitIn r.s (.twin 2)
  else
  let rest := r.lanes.filter fun l => !r.act.contains l
  let r1 := { r with lanes := rest }
  -- the threads that go on have committed inside their region
  endHolder (r1.done { (r.g.endThreads r.act) with partly := r.g.partly || (r.t.buffersEffects && !rest.isEmpty) })
    r.tid r.gnum

/-- exit.u: every thread of the path ends, after a commit of a team that buffers its effects (R355). -/
def execExitU (x : One) (s : State) : Out := .next <| gate (.exitU x) s fun r =>
  if r.mustCommit then r.waitIn r.s (.twin 2)
  else
  let r1 := { r with lanes := [] }
  endHolder (r1.done (r.g.endThreads r.lanes)) r.tid r.gnum

/-- nop. -/
def execNop (x : One) (s : State) : Out := .next <| gate (.nop x) s fun r => r.done r.g
/-- nop.u. -/
def execNopU (x : One) (s : State) : Out := .next <| gate (.nopU x) s fun r => r.done r.g

/-- yld: a preference at the next issue of the slot and of the group (R154), and no other state. -/
def execYld (x : One) (s : State) : Out := .next <| gate (.yld x) s fun r =>
  let s1 := r.done r.g
  modGroup s1 r.tid r.gnum fun g => 
    { g with aside := true, paths := mmod r.path (fun p => { p with yielded := true }) g.paths }

/-- brk: Fault(0x11) if a lane is active. -/
def execBrk (x : One) (s : State) : Out := .next <| gate (.brk x) s fun r =>
  if r.act.isEmpty then r.done r.g else r.fault 0x11
/-- brk.u: Fault(0x11). -/
def execBrkU (x : One) (s : State) : Out := .next <| gate (.brkU x) s fun r => r.fault 0x11

/-! ## Hardware loops (R155) -/

/-- loop: skipped for a count of 0, else an entry on each thread's stack, of at most four. -/
def execLoop (x : Imm) (s : State) : Out := .next <| gate (.loop x) s fun r =>
  match r.g.getS x.b.toNat with
  | .bad t => r.raise t
  | .ok v =>
    let n := v.toNat % 2 ^ 32
    let start := (r.pc + 8) % 2 ^ 56
    let last := r.target x.imm
    if n == 0 then r.goTo r.s r.g (r.lanes.map fun l => (l, (last + 4) % 2 ^ 56))
    else if r.lanes.any fun l => decide (4 ≤ (r.g.thread l).loops.length) then r.fault 8
    else
      r.goTo r.s (r.g.modThreads r.lanes fun t => { t with loops := { start := start, last := last, rem := n } :: t.loops })
        (r.lanes.map fun l => (l, start))

/-! ## Exile branches (R157) -/

/-- The free places of spawn memory, the lowest first. -/
def Team.spawnPlaces (t : Team) : List Nat :=
  (List.range t.hdr.records).filter fun n => !(t.spawn.any fun r => r.at_ == n)

/-- Where a record stands in the team's save area (Table 19.6). -/
def Team.spawnPa (t : Team) (r : SpawnRec) : Nat :=
  saveBase t.bind t.hdr t.copy1 + 0x400000 + r.at_ * (12 + 4 * t.hdr.live)

/-- The bytes of a spawn record (log 18): target, poison mask, values; a poisoned register's value is its token (R61). -/
def SpawnRec.bytes (r : SpawnRec) : List Byte :=
  let bad := (r.vals.mapIdx fun n v => (n, v)).foldl (fun m e => if e.2.poisoned then m + 2 ^ e.1 else m) 0
  toBytes 8 r.target ++ toBytes 4 bad ++ r.vals.flatMap fun v => match v with
    | .ok x => toBytes 4 x.toNat
    | .bad t => toBytes 4 t.toNat

/-- brx: the active lanes leave for spawn memory, or all of them fall back to a branch. -/
def execBrx (x : Imm) (s : State) : Out := .next <| gate (.brx x) s fun r =>
  let k := r.t.hdr.live
  let target := r.target x.imm
  if r.act.isEmpty then r.done r.g
  else if r.t.vBudget r.g.role < k || r.t.hdr.vecRegs < k then r.fault 8
  else if r.t.hdr.records == 0 || r.t.hdr.satellites == 0 ||
      decide (r.t.hdr.records - r.t.spawn.length < r.act.length) then
    r.transfer { r.g with gstat := r.g.gstat ||| 0x200 } (r.takeAll target) true
  else if r.mustCommit then r.waitIn r.s (.twin 2)
  else
    let recs := r.act.mapIdx fun i l =>
      ({ at_ := r.t.spawnPlaces.getD i 0, target := target, vals := (List.range k).map fun n => r.g.getV n l } : SpawnRec)
    let s1 := recs.foldl (fun u c => (hwWrite u (coreMaster r.t.core) (r.t.spawnPa c) c.bytes).1)
      (modTeam r.s r.tid fun t => { t with spawn := t.spawn ++ recs })
    let r1 := { r with lanes := r.lanes.filter fun l => !r.act.contains l }
    r1.doneIn s1 (r.g.endThreads r.act)

/-! ## Handles (R161 to R163) -/

/-- What S[A] takes from an entry (Table 8.4). -/
def HandleEnt.statusVal (e : HandleEnt) : Nat := e.status + e.code * 0x100

/-- The common part of hwait, htest and hcancel: poison, a bad handle, a stale one, or its live entry. -/
def Run.onHandle (r : Run) (x : One) (k : Nat → HandleEnt → State) : State :=
  match r.g.getS x.b.toNat with
  | .bad t => r.done (r.g.setS x.a.toNat (.bad t))
  | .ok v =>
    let h := v.toNat
    let kind := bits h 63 60
    if kind == 0 || decide (5 ≤ kind) || bits h 59 38 != 0 then r.fault 0x0D
    else
      let i := bits h 37 32
      match mfind i r.t.handles with
      | some e => if e.seq == h % 2 ^ 32 then k i e else r.done (r.g.putS x.a.toNat 4)
      | none => r.done (r.g.putS x.a.toNat 4)

/-- hwait and htest of an mst that met poison raise its token, once (R269). -/
def Run.raising (r : Run) (i : Nat) (e : HandleEnt) (k : State) : State :=
  match e.raise with
  | some (tok, va) => r.raiseMst (i, tok, va)
  | none => k

/-- hwait: the path waits until the operation completes, then takes its status. -/
def execHwait (x : One) (s : State) : Out :=
  .next <| gate (.hwait x) s (exempt := [x.b.toNat]) fun r =>
    r.onHandle x fun i e =>
      r.raising i e <|
        if e.complete then r.done ((r.g.hasAwaited r.t.races i e.seq).putS x.a.toNat e.statusVal)
        else r.waitIn r.s (.handle i e.seq)

/-- htest: the status as it stands. -/
def execHtest (x : One) (s : State) : Out :=
  .next <| gate (.htest x) s (exempt := [x.b.toNat]) fun r =>
    r.onHandle x fun i e => r.raising i e <| r.done (r.g.putS x.a.toNat e.statusVal)

/-- The entry after a request to cancel: a FAULTED operation is over as CANCELLED, completed only now, at a place in the
order of completion; one that has not completed will stop at its next stopping point (R160, R163). -/
def HandleEnt.requestCancel (e : HandleEnt) (at_ : Nat) : HandleEnt :=
  if e.status == 1 then { e with status := 2, code := 0, doneAt := at_ }
  else if e.complete then e else { e with cancel := true }

/-- hcancel: request the stop and take the status as it stands, without waiting. -/
def execHcancel (x : One) (s : State) : Out :=
  .next <| gate (.hcancel x) s (exempt := [x.b.toNat]) fun r =>
    r.onHandle x fun i e =>
      let c := e.requestCancel (r.t.hdone + 1)
      -- a FAULTED matrix operation is over (R160)
      let gone := fun (o : Nat × MxOp) =>
        e.status == 1 && o.2.team == r.tid && o.2.entry == i && o.2.seq == e.seq && o.2.faulted.isSome
      let p := setBits e.progress.toNat 15 0 4
      let c1 := if e.status == 1 then { c with progress := BitVec.ofNat 64 p } else c
      let s1 := modTeam { r.s with mxops := r.s.mxops.filter fun o => !gone o } r.tid fun t =>
        { t with handles := mput i c1 t.handles, hdone := if e.status == 1 then t.hdone + 1 else t.hdone }
      r.doneIn s1 (r.g.putS x.a.toNat c.statusVal)

end Sys2Proof.Machine
end

