-- ==== Sys2Proof/Machine/Fetch.lean ====
section
/-!
DEFINITION. Fetching the words of an instruction (01_encoding.md R24, R28, R29): translation with X, the access tables,
memory poison, and code written after a team's launch.
-/

namespace Sys2Proof.Machine

open Sys2Proof

/-- A failed fetch: its code, and the translation failure when it is one. -/
structure FetchFail where
  code : Nat
  tr : Option TrFail := none
deriving DecidableEq, Repr

/-- A word of code as a fetch of a team may see it: as it stands, or as it stood before any write made since the team's
launch or restore, word by word (R29). -/
def codeWord (s : State) (t : Team) (key : Nat) (now : List Word) : Word :=
  let old := ((mget [] key s.olds).filter fun e => decide (t.codeFrom ≤ e.1)).map Prod.snd
  let all := (now ++ old).foldl (fun (l : List Word) w => if l.contains w then l else l ++ [w]) []
  match all with
  | [w] => w
  | _ => all.getD (Config.freeNat s.tick (2 ^ 59 + key) % all.length) 0

/-- The values that a word of normal memory has for a core now: in memory, and in what the core itself has written. -/
def wordNow (s : State) (core pa : Nat) : List Word :=
  [BitVec.ofNat 32 (physNat s pa 4), BitVec.ofNat 32 (ofBytes ((range' pa 4).map (coreByte s core)))]

/-- The requester of a team's fetches. -/
def fetcher (s : State) (tid : Nat) : Who := whoCore s tid

/-- Fetch the word at an address for a team (R24, R28). -/
def fetchWord (s : State) (tid va : Nat) : State × Except FetchFail Word :=
  let who := fetcher s tid
  if isLocal va then (s, .error { code := 2 })
  else
    let c := checkGlobal s who va 4 .fetch
    match c with
    | .bad code tr => (noteDenial s who va c, .error { code := code, tr := tr })
    | .wait _ => (s, .error { code := 0 })
    | .ok (.normal pa) =>
      let s1 := noteTranslation s who va c
      if !(inHbm pa && lineAllows s1 who.master who.cid pa .read) then
        (logDenial s1 who.master who.cid pa .read, .error { code := 3 })
      else if isMarked s1 pa || s1.flaws.contains (cacheLine who.core pa) then (s1, .error { code := 5 })
      else (s1, .ok (codeWord s1 (teamOf s tid) (pa / 4) (wordNow s1 who.core pa)))
    | .ok p =>
      match readPlace (noteTranslation s who va c) who p 4 with
      | (t, .report code) => (t, .error { code := code })
      | (t, .bytes bs) =>
        let now := BitVec.ofNat 32 (ofBytes bs)
        (t, .ok (match p with
          | .remote dev pa => codeWord t (teamOf s tid) (peerWord dev pa) [now]
          | _ => now))

/-- A fetch up to 256 bytes ahead may walk (R221): the walk of the next page is on its way where no TLB holds it. -/
def fetchAhead (s : State) (tid va : Nat) : State :=
  let who := fetcher s tid
  let next := (va + 256) % 2 ^ 56
  if granuleOf next == granuleOf va || isLocal next || (tlbFind s who.core who.cid next).isSome ||
      walkUnderWay s who.core who.cid next then s
  else
    { s with
      walks := mput s.nextId { core := who.core, cid := who.cid, icn := who.icn, va := next, fill := false } s.walks
      nextId := s.nextId + 1 }

end Sys2Proof.Machine
end

