-- ==== Sys2Proof/Machine/Graph.lean ====
section
/-!
DEFINITION. The launch graph (07_launch.md R126 to R132, R139): nodes, the walker's own accesses, graph-count atomics
with their notifications, the end of an instance, and gdec, gadd and gsig.
-/

namespace Sys2Proof.Machine

open Sys2Proof

/-! ## The walker's accesses (R126, R133) -/

/-- A walker as a requester (Table 2.8). -/
def walker (die : Nat) : Master := { cls := 4, idx := die }

/-- A master that is no core as a requester: it has no first-level cache and no group. -/
def whoMaster (m : Master) (cid icn : Nat) : Who := { team := noTeam, core := noCore, cid := cid, icn := icn, master := m }

/-- An engine's translation of an address of a node, with no fault-queue entry and no notice: a page of normal memory with
the permission, and an admitted access; or the fault code (R126, R133). -/
def masterPa (s : State) (m : Master) (cid va : Nat) (k : Kind) : Except Nat Nat :=
  match walk s m cid (va % 2 ^ 56) with
  | .fail c _ _ => .error c
  | .page pte l =>
    if !permits pte k || pteType pte != 0 then .error 2
    else
      let pa := leafPa pte l (va % 2 ^ 56)
      if inHbm pa && lineAllows s m cid pa k.access then .ok pa else .error 3

/-- The walker's translation of an address of a node in a context. -/
def walkerPa (s : State) (die cid va : Nat) (k : Kind) : Except Nat Nat := masterPa s (walker die) cid va k

/-- A range of addresses cut at line boundaries, as addresses and lengths. -/
def lineSpans : Nat → Nat → Nat → List (Nat × Nat)
  | 0, _, _ => []
  | k + 1, va, n =>
    if n = 0 then []
    else
      let m := min n (128 - va % 128)
      (va, m) :: lineSpans k (va + m) (n - m)

/-- An engine's access to a place in a page of any type (R133): where a link in Recovery or a frozen bus would hold it up,
it is performed when that ends, which one step stands for. -/
def masterPlace (s : State) (who : Who) (va w : Nat) (k : Kind) : State × Except Nat Place :=
  match globalPlace s who (va % 2 ^ 56) w k with
  | .ok p => (s, .ok p)
  | .bad c tr => (noteDenial s who (va % 2 ^ 56) (.bad c tr), .error c)
  | .wait _ => (s, .error 2)

/-- Bytes the walker reads at an address, or the fault code; a marked line fails with 0x05 (R358). -/
def walkerRead (s : State) (die cid icn va n : Nat) : State × Except Nat (List Byte) :=
  (lineSpans (n / 128 + 2) va n).foldl (fun acc p =>
    match acc with
    | (t, .error c) => (t, .error c)
    | (t, .ok bs) =>
      match masterPlace t (whoMaster (walker die) cid icn) p.1 p.2 .read with
      | (u, .error c) => (u, .error c)
      | (u, .ok q) =>
        match readPlace u (whoMaster (walker die) cid icn) q p.2 with
        | (v, .bytes more) => (v, .ok (bs ++ more))
        | (v, .report c) => (v, .error c)) (s, .ok [])

/-- A write of the walker or of an engine that is no core, performed in normal memory for an incarnation. -/
def engineWrite (s : State) (cid icn pa : Nat) (bs : List Byte) : State := performBytes s noCore noTeam cid icn pa bs

/-- An engine writes bytes within a line; the number is 0 or the fault code. -/
def masterWrite (s : State) (m : Master) (cid icn va : Nat) (bs : List Byte) : State × Nat :=
  match masterPlace s (whoMaster m cid icn) va bs.length .write with
  | (t, .error c) => (t, c)
  | (t, .ok p) => writePlace t (whoMaster m cid icn) p bs .nl1

/-- The walker writes bytes within a line; the number is 0 or the fault code. -/
def walkerWrite (s : State) (die cid icn va : Nat) (bs : List Byte) : State × Nat := masterWrite s (walker die) cid icn va bs

/-! ## Nodes (Tables 7.2 to 7.4) -/

/-- KIND. -/
def nodeKind (x : Nat) : Nat := fieldAt x 0 1
/-- REARM. -/
def nodeRearm (x : Nat) : Bool := bitB x 16
/-- MANUAL. -/
def nodeManual (x : Nat) : Bool := bitB x 17
/-- Is the KIND of a node reserved? -/
def kindReserved (k : Nat) : Bool := k == 0 || decide (6 ≤ k)

/-- STATUS (Table 7.4). -/
def statusWord (cid eprio fail state : Nat) : Nat := cid * 2 ^ 22 + eprio * 2 ^ 16 + fail * 2 ^ 8 + state

/-- The walker writes a node's STATUS; a write that faults is lost and logged (R131). -/
def writeStatus (s : State) (die cid icn va eprio fail state : Nat) : State :=
  match walkerWrite s die cid icn (va + 0x18) (toBytes 8 (statusWord cid eprio fail state)) with
  | (t, 0) => t
  | (t, _) => logError t { kind := 1, code := 5, cid := some cid, icn := icn, addr := va, detail := 1 }

/-! ## Graph-count atomics (R128) -/

/-- A graph-count atomic. -/
inductive CountOp
  | dec
  | add (n : Nat)
deriving DecidableEq, Repr

/-- A notification leaves the slice for the walker of its die (R128). -/
def notify (s : State) (cid icn va pa : Nat) : State :=
  { s with
    notifs := mput s.nextId { die := homeOf pa / 4, cid := cid, icn := icn, va := va, pa := pa } s.notifs
    nextId := s.nextId + 1 }

/-- Does a graph-count atomic find the notification buffer of the node's slice full, so that it stalls (R130)? -/
def notifyStalls (s : State) (pa : Nat) : Bool :=
  decide (Config.notifRoom + 1 ≤ (s.notifs.filter fun n => sliceOf n.2.pa == sliceOf pa).length)

/-- A graph-count atomic on the node at a physical address: the old count and the status of Table 7.9. -/
def countAtomic (s : State) (cid icn va pa : Nat) (op : CountOp) : State × Nat × Nat :=
  let old := physNat s (pa + 4) 4
  let put := fun (x : Nat) => engineWrite s cid icn (pa + 4) (toBytes 4 x)
  if kindReserved (physNat s pa 1) then (s, old, 4)
  else
    match op with
    | .dec =>
      if old == 0 then (s, old, 2)
      else if old == 1 then
        let new := if bitB (physNat s (pa + 2) 2) 0 then physNat s (pa + 8) 4 else 0
        (notify (put new) cid icn va pa, old, 1)
      else (put (old - 1), old, 0)
    | .add n =>
      if 0xFFFFFFFF < old + n then (s, old, 3)
      else if n == 0 then (s, old, 0)
      else (put (old + n), old, 0)

/-! ## The end of an instance (R132) -/

/-- The running instance of the node at a physical address. -/
def runningAt (s : State) (pa : Nat) : Option (Nat × Inst) := s.insts.find? fun e => e.2.pa == pa

/-- The oldest waiting entry of a node. -/
def waitingFor (s : State) (pa : Nat) : Option QueueEnt := (s.queue.find? fun e => e.2.pa == pa).map Prod.snd

/-- Remove an instance, with what it holds in the sequencer and the raster units; the node's oldest waiting entry
becomes QUEUED (R130). -/
def removeInst (s : State) (ticket : Nat) (i : Inst) : State :=
  let s1 := { s with
    insts := merase ticket s.insts
    raster := s.raster.filter fun e => e.2.ticket != ticket
    closed := s.closed.filter fun e => e.2.ticket != ticket
    pushes := s.pushes.filter fun e => e.2.ticket != ticket }
  match waitingFor s1 i.pa with
  | some q => writeStatus s1 q.die q.cid q.icn q.va q.eprio 0 1
  | none => s1

/-- An instance fails with a code of Table 7.5: STATUS, the error log, and no successor (R133). -/
def failInst (s : State) (ticket : Nat) (i : Inst) (code : Nat) : State :=
  let s1 := writeStatus s i.die i.cid i.icn i.va i.eprio code 4
  let s2 := logError s1 { kind := 1, code := code, cid := some i.cid, icn := i.icn, addr := i.va }
  removeInst s2 ticket i

/-- The walker decrements one successor, or logs that it skips it (R132). -/
def decSuccessor (d : Decs) (s : State) (e : Nat × Nat) : State :=
  let va := e.2 % 2 ^ 56
  let skip := fun (t : State) (c : Nat) =>
    logError t { kind := 12, code := c, cid := some d.cid, icn := d.icn, addr := va, detail := e.1 }
  if va % 128 != 0 then skip s 4
  else
    match walkerPa s d.die d.cid va .atomic with
    | .error c => skip (if c == 3 then denied va else s) c
    | .ok pa =>
      if isMarked s pa then skip s 5
      else if kindReserved (physNat s pa 1) then skip s 0
      else (countAtomic s d.cid d.icn va pa .dec).1
where
  /-- The denied request of the walker, or of its walk, is logged (R57). -/
  denied (va : Nat) : State :=
    match walk s (walker d.die) d.cid va with
    | .page pte l => logDenial s (walker d.die) d.cid (leafPa pte l va) .atomic
    | .fail .. => logWalk s none (walker d.die) d.cid va

/-- Does the decrement of a successor stall on a full notification buffer (R130)? -/
def decStalls (d : Decs) (s : State) (e : Nat × Nat) : Bool :=
  match walkerPa s d.die d.cid (e.2 % 2 ^ 56) .atomic with
  | .ok pa => notifyStalls s pa
  | .error _ => false

/-- The decrements of an instance's successors in list order, as far as none stalls; the rest. -/
def runDecs (d : Decs) : State → List (Nat × Nat) → State × List (Nat × Nat)
  | s, [] => (s, [])
  | s, e :: es => if decStalls d s e then (s, e :: es) else runDecs d (decSuccessor d s e) es

/-- Go on with the decrements of a finished instance; those that stall are left for later (R130, R132). -/
def goOnDecs (s : State) (ticket : Nat) (d : Decs) : State :=
  match runDecs d s d.left with
  | (t, []) => { t with decs := merase ticket t.decs }
  | (t, l) => { t with decs := mput ticket { d with left := l } t.decs }

/-- An instance finishes: STATUS DONE, then one decrement per successor in list order (R132). -/
def finishInst (s : State) (ticket : Nat) : State :=
  match mfind ticket s.insts with
  | none => s
  | some i =>
    let s1 := removeInst (writeStatus s i.die i.cid i.icn i.va i.eprio 0 3) ticket i
    goOnDecs s1 ticket { die := i.die, cid := i.cid, icn := i.icn, left := i.succ.mapIdx fun j va => (j, va) }

/-! ## gdec, gadd, gsig (R139) -/

/-- What the atomic of an instruction does at its place. -/
inductive GraphOp
  | count (op : CountOp)
  | sig
deriving DecidableEq, Repr

/-- The atomic of gdec, gadd or gsig on the node at a physical address (R139). -/
def graphAtomic (s : State) (cid icn va pa : Nat) (op : GraphOp) : State × Nat × Nat :=
  match op with
  | .count o => countAtomic s cid icn va pa o
  | .sig =>
    let old := physNat s (pa + 4) 4
    let kind := physNat s pa 1
    if kindReserved kind then (s, old, 4)
    else if kind != 5 || !bitB (physNat s (pa + 2) 2) 1 then (s, old, 5)
    else
      match runningAt s pa with
      | none => (s, old, 6)
      | some e => (finishInst s e.1, old, 0)

/-- The physical address of a node, of an access that passed its checks. A node lies in normal memory (R126), also
under a stash window. -/
def nodePa : Place → Option Nat
  | .normal pa => some pa
  | .stashAtomic _ _ (.normal pa) => some pa
  | _ => none

/-- One graph instruction: poison, alignment, paired teams, translation, then one acquire-release atomic at pkg scope;
S[A] takes the old count and the status (R139). -/
def Run.graph (r : Run) (x : Std) (c : PV Nat) (op : Nat → GraphOp) : State :=
  match firstTok [r.g.readS x.b.toNat 64, c] with
  | some t => r.raise t
  | none =>
    let va := (r.g.readS x.b.toNat 64).val % 2 ^ 56
    if va % 128 != 0 then r.fault 4 va
    else if r.t.paired then r.fault 0x16
    else if isLocal va then r.fault 2 va
    else
      match checkAccess r.s r.who va 8 .atomic with
      | .ok p =>
        match nodePa p with
        | none => r.fault 2 va
        | some _ =>
          r.releasing .pkg fun r1 =>
            let s1 := acquire (noteTranslation r1.s r.who va (.ok p)) r.who .pkg
            -- the stash line of a node in a window is no longer valid after an atomic (R184)
            let s2 := match p with
              | .stashAtomic off _ _ => modTeam s1 r.tid fun t => t.dropLine off
              | _ => s1
            match nodePa p with
            | none => s2
            | some pa =>
              match askTargets s2 r.who pa .atomic with
              | (s3, false) => r1.faultIn s3 { code := 3, addr := va }
              | (s3, true) =>
                if isMarked s3 pa then r1.faultIn s3 { code := 5, addr := va }
                else if notifyStalls s3 pa then r1.waitIn s3 .room
                else
                  -- performed at the slice, behind what the first-level cache holds of the line (R128, R195)
                  match graphAtomic (l1Forget (flushLine s3 r.t.core pa) r.t.core (pa + 4) 4) r.t.bind.cid r.t.bind.icn va pa (op c.val) with
                  | (s4, old, st) => r1.doneIn s4 (r1.g.putS x.a.toNat (old + st * 2 ^ 32))
      | k => r.failAt r.s va k .atomic

/-- gdec. -/
def execGdec (x : Std) (s : State) : Out := .next <| gate (.gdec x) s fun r => r.graph x (.ok 0) fun _ => .count .dec

/-- gadd: the value of an s-register is taken from bits 31:0. -/
def execGadd (x : Std) (s : State) : Out := .next <| gate (.gadd x) s fun r =>
  r.graph x (r.src x.c 32 0) fun n => .count (.add (n % 2 ^ 32))

/-- gsig. -/
def execGsig (x : Std) (s : State) : Out := .next <| gate (.gsig x) s fun r => r.graph x (.ok 0) fun _ => .sig

end Sys2Proof.Machine
end

