-- ==== Sys2Proof/Machine/WalkerEv.lean ====
section
/-!
DEFINITION. The walkers at work (07_launch.md R129 to R136): notifications, the queues, the checks of Table 7.5,
placement records, signal and bulk-copy nodes, and the end of instances.
-/

namespace Sys2Proof.Machine

open Sys2Proof

/-! ## Notifications (R129, R130) -/

/-- Does (CID, ICN) name the LIVE incarnation of its context? -/
def isCurrent (s : State) (cid icn : Nat) : Bool := (ctxOf s cid).state == 1 && (ctxOf s cid).icn == icn

/-- The entries of a level of a walker's queues. -/
def levelOf (s : State) (die p : Nat) : List (Nat × QueueEnt) := s.queue.filter fun e => e.2.die == die && e.2.eprio == p

/-- The walker's copy of a notified node, as a queue entry (R129, R131). -/
def queueEntry (s : State) (n : Notif) : QueueEnt :=
  let cap := (ctxOf s n.cid).priocap
  match (walkerRead s n.die n.cid n.icn n.va 128).2 with
  | .ok bs =>
    let x := ofBytes bs
    { die := n.die, cid := n.cid, icn := n.icn, va := n.va, pa := n.pa, eprio := min 7 (min (fieldAt x 1 1) cap), node := x }
  | .error _ => { die := n.die, cid := n.cid, icn := n.icn, va := n.va, pa := n.pa, eprio := 0, node := 0, unread := true }

/-- May a notification enter its queue: it is dropped, or its level has room, and no earlier one of its node is still on
its way (R129, R130)? -/
def notifReady (s : State) (id : Nat) (n : Notif) : Bool :=
  !isCurrent s n.cid n.icn ||
  (decide ((levelOf s n.die (queueEntry s n).eprio).length < 512) && !(s.notifs.any fun e => decide (e.1 < id) && e.2.pa == n.pa))

/-- NODE_NOTIFICATION: the walker queues the node; STATUS becomes QUEUED unless an earlier instance of the node is
queued or running (R130). -/
def execNodeNotification (id : Nat) (s : State) : Out := .next <|
  match mfind id s.notifs with
  | none => s
  | some n =>
    let s1 := { s with notifs := merase id s.notifs }
    if !isCurrent s n.cid n.icn then s1
    else if !notifReady s id n then s
    else
      let q := queueEntry s n
      let busy := (runningAt s n.pa).isSome || (waitingFor s n.pa).isSome
      let s0 := { (walkerRead s n.die n.cid n.icn n.va 128).1 with notifs := merase id s.notifs }
      let s2 := { s0 with queue := mput s0.nextId q s0.queue, nextId := s0.nextId + 1 }
      if busy then s2 else writeStatus s2 q.die q.cid q.icn q.va q.eprio 0 1

/-! ## Kernel headers (R36, R37, R39) -/

/-- An entry of a header as an absolute address, 0 for an absent role. -/
def entryAddr (va off : Nat) : Nat := if off == 0 then 0 else wrapInt 56 ((va : Int) + toSigned 64 off)

/-- A kernel header as fields; `x` holds its 256 bytes. -/
def hdrOf (va x : Nat) : Hdr :=
  { flags := fieldAt x 6 2, matrix := fieldAt x 0x18 8 != 0
    copyEntry := entryAddr va (fieldAt x 8 8), vecEntry := entryAddr va (fieldAt x 0x10 8), matEntry := entryAddr va (fieldAt x 0x18 8)
    copyGroups := fieldAt x 0x30 1, copyRegs := 8 * fieldAt x 0x31 1
    vecGroups := fieldAt x 0x34 1, vecRegs := 8 * fieldAt x 0x35 1
    matRegs := 8 * fieldAt x 0x39 1
    scratchGr := fieldAt x 0x40 1, stashGr := fieldAt x 0x41 1, l1Gr := fieldAt x 0x42 1, cls := fieldAt x 0x43 1
    barriers := fieldAt x 0x44 2, rings := fieldAt x 0x46 1, stages := fieldAt x 0x47 1
    records := fieldAt x 0x48 4, live := fieldAt x 0x4C 1, satellites := fieldAt x 0x4D 1
    scratchBytes := fieldAt x 0x50 4, stashBytes := fieldAt x 0x54 4 }

/-- Is the header spawn flag set? -/
def Hdr.spawns (h : Hdr) : Bool := bitB h.flags 3
/-- Is the kernel paired? -/
def Hdr.paired (h : Hdr) : Bool := bitB h.flags 1
/-- Is the kernel contained? -/
def Hdr.contained (h : Hdr) : Bool := bitB h.flags 2

/-- One role of a header: groups and register granules within limits when its entry is there, and zero otherwise. An entry
offset that is not a multiple of 4, which the spec names as no breach of R39, fails too (DESIGN CHOICE, log 34). -/
def roleOk (x entry role maxGroups maxGr : Nat) : Bool :=
  let g := fieldAt x role 1
  let r := fieldAt x (role + 1) 1
  fieldAt x (role + 2) 2 == 0 &&
  (if fieldAt x entry 8 == 0 then g == 0 && r == 0
    else 1 ≤ g && g ≤ maxGroups && 1 ≤ r && r ≤ maxGr && fieldAt x entry 8 % 4 == 0)

/-- The name is at most 63 bytes and zero-filled. -/
def nameOk (x : Nat) : Bool :=
  let n := fieldAt x 0xC0 64
  let len := ((List.range 64).find? fun i => n / 256 ^ i % 256 == 0).getD 64
  len ≤ 63 && n / 256 ^ len == 0

/-- Does a header keep R39 and the limits of R36 and R37 (Table 7.5, code 0x02)? -/
def hdrOk (x : Nat) : Bool :=
  let h := hdrOf 0 x
  fieldAt x 0 4 == 0x4B485A31 && fieldAt x 4 2 == 1 && h.flags < 16 && !(h.paired && h.contained) &&
  fieldAt x 0x2C 4 == 0 && fieldAt x 0x3C 4 == 0 && fieldAt x 0x4E 2 == 0 && fieldAt x 0x58 104 == 0 && nameOk x &&
  roleOk x 0x08 0x30 32 32 && roleOk x 0x10 0x34 32 32 && roleOk x 0x18 0x38 1 8 &&
  0 < h.copyGroups + h.vecGroups && h.copyGroups + h.vecGroups + h.satellites ≤ 32 &&
  h.copyGroups * h.copyRegs + h.vecGroups * h.vecRegs ≤ 4096 &&
  h.scratchBytes ≤ 786432 && h.stashBytes ≤ 786432 &&
  h.scratchGr == ceilDiv h.scratchBytes 32768 && h.stashGr == ceilDiv h.stashBytes 32768 &&
  h.scratchGr + h.stashGr ≤ 22 && h.l1Gr != 1 && h.scratchGr + h.stashGr + h.l1Gr ≤ 24 && h.cls ≤ 7 &&
  h.barriers ≤ 1024 && h.rings ≤ 8 && (if h.rings == 0 then h.stages == 0 else 1 ≤ h.stages && h.stages ≤ 16) &&
  (if h.spawns then 1 ≤ h.records && h.records ≤ 65535 && 1 ≤ h.live && h.live ≤ 32
    else h.records == 0 && h.live == 0 && h.satellites == 0)

/-! ## Raster state blocks (Table 17.3) -/

/-- Is an f32 pattern a NaN or an infinity? -/
def nonFinite32 (x : Nat) : Bool := bits x 30 23 == 255

/-- Does a raster state block keep Table 17.3 (R298)? -/
def rasterStateOk (x : Nat) : Bool :=
  let mode := fieldAt x 0x25 1
  let samples := fieldAt x 0x24 1
  fieldAt x 0x26 26 == 0 && mode < 32 && mode % 4 != 3 && (samples == 1 || samples == 2 || samples == 4) &&
  (let w := fieldAt x 0x20 2; 1 ≤ w && w ≤ 16384) && (let h := fieldAt x 0x22 2; 1 ≤ h && h ≤ 16384) &&
  (List.range 6).all fun i => !nonFinite32 (fieldAt x (4 * i) 4)

/-! ## The checks of Table 7.5 -/

/-- The bytes of a node that its kind's launch record uses, as offset and size; the rest of the 96 is reserved
(Table 7.3). -/
def recordBytes (kind : Nat) : List (Nat × Nat) :=
  match kind with
  | 1 => [(0x20, 0x1C)]
  | 2 => [(0x20, 0x28)]
  | 3 => [(0x20, 0x1C), (0x40, 0x10)]
  | 4 => [(0x20, 0x12)]
  | _ => []

/-- Check 0x01: the node itself. -/
def nodeBad (x : Nat) : Bool :=
  let k := nodeKind x
  kindReserved k || 7 < fieldAt x 1 1 || 4 ≤ fieldAt x 2 2 || (nodeManual x && k != 5) || fieldAt x 0x0E 2 != 0 ||
  (fieldAt x 0x10 8 % 8 != 0 && fieldAt x 0x0C 2 != 0) ||
  (range' 0x20 0x60).any fun i => fieldAt x i 1 != 0 && !((recordBytes k).any fun r => r.1 ≤ i && i < r.1 + r.2)

/-- Check 0x03: the launch record, apart from the blocks it names. -/
def recordBad (x : Nat) : Bool :=
  match nodeKind x with
  | 2 => fieldAt x 0x20 8 % 16 != 0 || fieldAt x 0x28 8 % 16 != 0 || fieldAt x 0x30 8 % 16 != 0 ||
      2 ^ 40 ≤ fieldAt x 0x30 8 || fieldAt x 0x38 8 % 8 != 0
  | 4 => fieldAt x 0x20 8 % 8 != 0 || bits (fieldAt x 0x30 2) 14 11 != 0
  | 5 => false
  | k =>
    fieldAt x 0x20 8 % 256 != 0 || fieldAt x 0x28 4 == 0 || 2 ^ 31 ≤ fieldAt x 0x28 4 || fieldAt x 0x2C 2 == 0 ||
    fieldAt x 0x2E 2 == 0 || fieldAt x 0x30 8 % 8 != 0 || 256 < fieldAt x 0x38 2 || fieldAt x 0x38 2 % 8 != 0 ||
    8 ≤ fieldAt x 0x3A 1 || 8 ≤ fieldAt x 0x3B 1 || (k == 3 && fieldAt x 0x40 8 % 256 != 0)

/-- The cache class of an instance's teams under a header (R124). -/
def classFor (x : Nat) (h : Hdr) : Nat := if bitB (fieldAt x 0x3B 1) 2 then fieldAt x 0x3A 1 % 8 else h.cls

/-- What the checks have read of an instance, or the fault code of the read. -/
structure NodeReads where
  succ : Except Nat (List Byte) := .ok []
  hdr : Except Nat (List Byte) := .ok []
  pix : Except Nat (List Byte) := .ok []
  rstate : Except Nat (List Byte) := .ok []
  args : Except Nat (List Byte) := .ok []

/-- The bytes of a read, none where it failed. -/
def gotBytes (e : Except Nat (List Byte)) : List Byte :=
  match e with
  | .ok bs => bs
  | .error _ => []

/-- Did a read fail? -/
def readFailed (e : Except Nat (List Byte)) : Bool :=
  match e with
  | .ok _ => false
  | .error _ => true

/-- The blocks that an instance's checks read, as the offset of their address in the node and their length: successors,
header, pixel header, raster state and arguments. A length that a check refuses is not read. -/
def nodeBlocks (x : Nat) : List (Nat × Nat) :=
  let launch := nodeKind x == 1 || nodeKind x == 3
  let draw := nodeKind x == 3
  [(0x10, 8 * fieldAt x 0x0C 2), (0x20, if launch then 256 else 0), (0x40, if draw then 256 else 0),
   (0x48, if draw then 64 else 0), (0x30, if launch && fieldAt x 0x38 2 ≤ 256 then fieldAt x 0x38 2 else 0)]

/-- The walker reads a block that a node names. -/
def readBlock (s : State) (q : QueueEnt) (b : Nat × Nat) : State × Except Nat (List Byte) :=
  if b.2 == 0 then (s, .ok []) else walkerRead s q.die q.cid q.icn (fieldAt q.node b.1 8 % 2 ^ 56) b.2

/-- What the reads of an instance's blocks leave: logs of denials (R57). -/
def noteReads (s : State) (q : QueueEnt) : State := (nodeBlocks q.node).foldl (fun t b => (readBlock t q b).1) s

/-- The blocks that an instance's checks read (R133). -/
def nodeReads (s : State) (q : QueueEnt) : NodeReads :=
  let rd := fun (i : Nat) => (readBlock s q ((nodeBlocks q.node).getD i (0, 0))).2
  { succ := rd 0, hdr := rd 1, pix := rd 2, rstate := rd 3, args := rd 4 }

/-- The headers that were read, with their numbers. -/
def NodeReads.headers (r : NodeReads) : List Nat :=
  ([r.hdr, r.pix].filter fun e => !(gotBytes e).isEmpty).map fun e => ofBytes (gotBytes e)

/-- The code of the first check of Table 7.5 that an instance fails, 0 for none (R133). -/
def nodeCode (s : State) (q : QueueEnt) (r : NodeReads) : Nat :=
  let x := q.node
  let hs := r.headers
  let pixBad := !(gotBytes r.pix).isEmpty && (let p := ofBytes (gotBytes r.pix); fieldAt p 8 8 != 0 || fieldAt p 0x18 8 != 0)
  let rstateBad := !(gotBytes r.rstate).isEmpty && !rasterStateOk (ofBytes (gotBytes r.rstate))
  if q.unread then 5
  else if nodeBad x then 1
  else if hs.any (fun h => !hdrOk h) || pixBad then 2
  else if recordBad x || rstateBad then 3
  else if hs.any fun h => !bitB (ctxOf s q.cid).classes (classFor x (hdrOf 0 h)) then 4
  else if readFailed r.succ || readFailed r.hdr || readFailed r.pix || readFailed r.rstate || readFailed r.args then 5
  else if hs.any fun h => decide ((hdrOf 0 h).scratchBytes < fieldAt x 0x38 2) then 6
  else if hs.any fun h =>
    let d := hdrOf 0 h
    decide (4096 < d.copyGroups * d.copyRegs + (d.vecGroups + d.satellites) * d.vecRegs) then 7
  else 0

/-! ## Taking an instance (R132, R136) -/

/-- The cores of a stack that are neither fenced nor retired (R299). -/
def coresInService (s : State) (stack : Nat) : List Nat :=
  (range' (128 * stack) 128).filter fun c => !(coreOf s c).fenced && !(coreOf s c).retired

/-- The records in a die's placement queue. -/
def placeRoom (s : State) (die : Nat) : Bool :=
  let q := (dieOf s die).placeq
  match hwRead s (walker die) q 8, hwRead s (walker die) (q + 8) 8 with
  | some tail, some head => (tail + 2 ^ 64 - head) % 2 ^ 64 != 1024
  | _, _ => true

/-- The bytes of a placement record (Table 7.11). -/
def placeRecord (s : State) (ticket tail : Nat) (i : Inst) : List Byte :=
  let x := i.node
  let pools := match i.draw with
    | some d => d.ua.length + d.ub.length
    | none => 0
  let pa := fun (va : Nat) => match walkerPa s i.die i.cid va .read with
    | .ok p => p
    | .error _ => 0
  let kernel := fieldAt x 0x20 8
  toBytes 8 tail ++ toBytes 4 ticket ++ toBytes 1 (nodeKind x) ++ toBytes 1 i.eprio ++ toBytes 2 i.cid ++ toBytes 1 i.icn ++
  toBytes 1 (b2n i.hdr.paired + 2 * b2n i.hdr.contained + 4 * (i.hdr.flags % 2)) ++ toBytes 2 pools ++
  toBytes 4 (fieldAt x 0x28 4) ++ toBytes 2 (fieldAt x 0x2C 2) ++ toBytes 2 (fieldAt x 0x2E 2) ++ toBytes 4 0 ++
  toBytes 8 i.va ++ toBytes 8 (pa kernel) ++ toBytes 8 (if i.draw.isSome then pa (fieldAt x 0x40 8) else 0) ++ toBytes 8 0

/-- The notice to the firmware that a placement record stands in its queue. -/
def placeNote : Nat := 256

/-- Offer an instance to placement: the record, then TAIL, then the notice (R136). -/
def offer (s : State) (ticket : Nat) (i : Inst) : State :=
  let m := walker i.die
  let q := (dieOf s i.die).placeq
  let tail := (hwRead s m q 8).getD 0
  let s1 := (hwWrite s m (q + 64 + 64 * (tail % 1024)) (placeRecord s ticket tail i)).1
  let s2 := (hwWrite s1 m q (toBytes 8 (tail + 1))).1
  if bitB s2.ctl.hmode 0 then sendIrq s2 ((dieOf s2 i.die).placeqvec % 2 ^ 11) else { s2 with fwNotes := s2.fwNotes ++ [placeNote] }

/-- A signal instance writes SIGVAL as a release at sys scope, sends its interrupt, and finishes; a write that faults
fails it (R132, R133). -/
def runSignal (s : State) (ticket : Nat) (i : Inst) : State :=
  let x := i.node
  match walkerWrite s i.die i.cid i.icn (fieldAt x 0x20 8 % 2 ^ 56) (toBytes 8 (fieldAt x 0x28 8)) with
  | (t, 0) =>
    let v := fieldAt x 0x30 2
    finishInst (if bitB v 15 then sendIrq t (v % 2 ^ 11) else t) ticket
  | (t, _) => failInst t ticket i 5

/-- The sequencer of a draw instance at its start (R298, R299). -/
def startDraw (s : State) (r : NodeReads) : Draw :=
  { state := ofBytes (gotBytes r.rstate), ua := coresInService s 0, ub := coresInService s 1 }

/-- A queue entry becomes an instance: it is checked, and fails or runs (R132, R133). -/
def startInst (s : State) (id : Nat) (q : QueueEnt) : State :=
  let d := dieOf s q.die
  let ticket := q.die * 2 ^ 31 + d.ticket
  let r := nodeReads s q
  let x := q.node
  let hdr := fun (e : Except Nat (List Byte)) (off : Nat) =>
    if (gotBytes e).isEmpty then ({} : Hdr) else hdrOf (fieldAt x off 8 % 2 ^ 56) (ofBytes (gotBytes e))
  let i : Inst := {
    die := q.die, cid := q.cid, icn := q.icn, eprio := q.eprio, va := q.va, pa := q.pa, node := x
    succ := (List.range (fieldAt x 0x0C 2)).map fun j => ofBytes (((gotBytes r.succ).drop (8 * j)).take 8)
    hdr := hdr r.hdr 0x20, pix := hdr r.pix 0x40, args := gotBytes r.args
    draw := if nodeKind x == 3 then some (startDraw s r) else none }
  let s0 := noteReads s q
  let s1 := modDie { s0 with queue := merase id s.queue, insts := mput ticket i s.insts } q.die fun d =>
    { d with ticket := (d.ticket + 1) % 2 ^ 31 }
  match nodeCode s q r with
  | 0 =>
    let s2 := writeStatus s1 q.die q.cid q.icn q.va q.eprio 0 2
    match nodeKind x with
    | 2 => s2
    | 4 => runSignal s2 ticket i
    | 5 => if nodeManual x then s2 else finishInst s2 ticket
    | _ => offer s2 ticket i
  | c => failInst s1 ticket i c

/-- The first entry of a level whose node has no running instance and no earlier entry (R130). -/
def nextOfLevel (s : State) (die p : Nat) : Option (Nat × QueueEnt) :=
  (levelOf s die p).find? fun e =>
    (runningAt s e.2.pa).isNone && !(s.queue.any fun f => decide (f.1 < e.1) && f.2.pa == e.2.pa)

/-- The entry a walker takes next: the highest level first (R130); none while its placement queue is full (R136). -/
def nextEntry (s : State) (die : Nat) : Option (Nat × QueueEnt) :=
  if !placeRoom s die then none else (List.range 8).reverse.findSome? fun p => nextOfLevel s die p

/-- INSTANCE_DEQUEUE: the walker takes an instance from its queues. -/
def execInstanceDequeue (die : Nat) (s : State) : Out := .next <|
  match nextEntry s die with
  | none => s
  | some (id, q) => startInst s id q

/-! ## Bulk-copy nodes (R132, R133) -/

/-- The copy engine that runs a bulk-copy node (07_launch.md, Table 7.3's notes); which of them is not told (log 20). -/
def Inst.engine (i : Inst) : Master := { cls := 2, idx := Config.freeNat i.pa (2 ^ 61) % Config.cores }

/-- The copy accesses of a bulk-copy node as a requester. -/
def Inst.who (i : Inst) : Who :=
  whoMaster i.engine i.cid i.icn

/-- The place of a copy access of a bulk-copy node: no entry and no notice where it fails, and a device page fails
(R133, R229). -/
def copyPlace (s : State) (i : Inst) (va : Nat) (k : Kind) : Check :=
  match checkGlobal s i.who va 16 k with
  | .ok (.device _) => .bad 2 none
  | .bad c _ => .bad c none
  | c => c

/-- A failed copy access that the access tables deny is logged (R57). -/
def noteCopy (s : State) (i : Inst) (va : Nat) (c : Check) : State := noteDenial s i.who va c

/-- The lines of a destination that the copy of a node touches, by number from its first. -/
def Inst.lines (i : Inst) : Nat :=
  if fieldAt i.node 0x30 8 == 0 then 0 else ceilDiv (fieldAt i.node 0x28 8 % 128 + fieldAt i.node 0x30 8) 128

/-- The ranges of lines that a copy has not moved. -/
def Inst.left (i : Inst) : List (Nat × Nat) := i.gaps.getD (if i.lines == 0 then [] else [(0, i.lines)])

/-- The line that a copy moves next: any that is left, since its order is unpredictable (R127). -/
def Inst.nextLine (i : Inst) (tick : Nat) : Nat :=
  let n := countIn i.left
  nthIn i.left (if n ≤ 1 then 0 else Config.freeNat tick (2 ^ 53) % n)

/-- Addresses and bytes of the node's copy for a line of its destination. -/
def Inst.copyAt (i : Inst) (line : Nat) : Nat × Nat × Nat :=
  let d0 := fieldAt i.node 0x28 8
  let lo := if line == 0 then 0 else 128 * line - d0 % 128
  let hi := min (fieldAt i.node 0x30 8) (128 * (line + 1) - d0 % 128)
  ((d0 + lo) % 2 ^ 56, (fieldAt i.node 0x20 8 + lo) % 2 ^ 56, hi - lo)

/-- The places of the 16-byte units from an address, or the first check that does not pass, with its address. -/
def unitPlaces (s : State) (i : Inst) (va n : Nat) (k : Kind) : Except (Nat × Check) (List Place) :=
  (List.range (n / 16)).foldr (fun j acc =>
    match acc, copyPlace s i ((va + 16 * j) % 2 ^ 56) k with
    | .error c, .ok _ => .error c
    | .ok ps, .ok p => .ok (p :: ps)
    | _, c => .error ((va + 16 * j) % 2 ^ 56, c)) (.ok [])

/-- Does the copy of a line wait for a link or a tile? -/
def bulkWaits (s : State) (i : Inst) (line : Nat) : Bool :=
  let a := i.copyAt line
  match unitPlaces s i a.2.1 a.2.2 .read, unitPlaces s i a.1 a.2.2 .write with
  | .error (_, .wait _), _ => true
  | .ok _, .error (_, .wait _) => true
  | _, _ => false

/-- Read 16-byte units at their places; or a code. -/
def readEach (who : Who) : State → List Place → State × Except Nat (List (List Byte))
  | s, [] => (s, .ok [])
  | s, p :: ps =>
    match readPlace s who p 16 with
    | (t, .report c) => (t, .error c)
    | (t, .bytes bs) =>
      match readEach who t ps with
      | (u, .ok l) => (u, .ok (bs :: l))
      | r => r

/-- Write 16-byte units at their places; the number is 0, or a code. -/
def writeEach (who : Who) : State → List (Place × List Byte) → State × Nat
  | s, [] => (s, 0)
  | s, (p, bs) :: ps =>
    match writePlace s who p bs .nl1 with
    | (t, 0) => writeEach who t ps
    | r => r

/-- Move a line of a copy as one access: its units are read and then written; the number is 0, or a code (R127, R358). -/
def moveBulk (who : Who) (s : State) (from_ to_ : List Place) : State × Nat :=
  match readEach who s from_ with
  | (t, .error c) => (t, c)
  | (t, .ok bs) =>
    match writeEach who t (to_.zip bs) with
    | (u, 0) =>
      (match to_ with
        | .normal pa :: _ => if to_.length == 8 && pa % 128 == 0 then clearMark u pa else u
        | _ => u, 0)
    | r => r

/-- BULK_COPY_COMPLETE: the node's copy moves another line of its destination; past the last its stamp is written and the
instance is DONE. An access that faults fails the instance (R127, R132, R133). -/
def execBulkCopyComplete (ticket : Nat) (s : State) : Out := .next <|
  match mfind ticket s.insts with
  | none => s
  | some i =>
    if nodeKind i.node != 2 then s
    else if i.left.isEmpty then
      let va := fieldAt i.node 0x38 8 % 2 ^ 56
      match globalPlace s i.who va 8 .write with
      | .ok (.device _) => failInst s ticket i 5
      | _ =>
        match masterWrite s i.engine i.cid i.icn va (toBytes 8 (fieldAt i.node 0x40 8)) with
        | (t, 0) => finishInst t ticket
        | (t, _) => failInst t ticket i 5
    else
      let line := i.nextLine s.tick
      let a := i.copyAt line
      if bulkWaits s i line then s
      else
        match unitPlaces s i a.2.1 a.2.2 .read, unitPlaces s i a.1 a.2.2 .write with
        | .ok fs, .ok ds =>
          match moveBulk i.who s fs ds with
          | (t, 0) => { t with insts := mput ticket { i with gaps := some (cutOne line i.left) } t.insts }
          | (t, _) => failInst t ticket i 5
        | .error c, _ => failInst (noteCopy s i c.1 c.2) ticket i 5
        | _, .error c => failInst (noteCopy s i c.1 c.2) ticket i 5

/-! ## Grids and draws (R132) -/

/-- Teams of a grid or of a draw's geometry grid. -/
def Inst.gridTeams (i : Inst) : Nat := fieldAt i.node 0x28 4 * fieldAt i.node 0x2C 2 * fieldAt i.node 0x2E 2

/-- Teams of an instance: the grid's, and a draw's pool teams. -/
def Inst.teams (i : Inst) : Nat :=
  i.gridTeams + (match i.draw with
    | some d => d.ua.length + d.ub.length
    | none => 0)

/-- Has a grid or draw instance nothing left to run (R132)? -/
def instDone (s : State) (ticket : Nat) (i : Inst) : Bool :=
  (nodeKind i.node == 1 || nodeKind i.node == 3) && i.teams ≤ i.ended &&
  !(s.raster.any fun e => e.2.ticket == ticket) && !(s.closed.any fun e => e.2.ticket == ticket) &&
  !(s.pushes.any fun e => e.2.ticket == ticket) &&
  (match i.draw with
    | some d => d.ua.length + d.ub.length != 0
    | none => true)

/-- The cores whose first-level caches hold bytes of a context. -/
def dirtyCores (s : State) (cid : Nat) : List Nat :=
  s.l1.foldl (fun cs e => if e.2.dirty && e.2.cid == cid then insertNat (e.1 / 2 ^ 52) cs else cs)
    (s.requests.foldl (fun cs e => if !e.2.isRead && e.2.cid == cid then insertNat e.2.core cs else cs) [])

/-- INSTANCE_FINISH: every store of the instance's teams is performed at pkg scope, then it is DONE. Decrements that a full
notification buffer has held up go on (R130). -/
def execInstanceFinish (ticket : Nat) (s : State) : Out := .next <|
  match mfind ticket s.insts with
  | none => (match mfind ticket s.decs with
    | some d => goOnDecs s ticket d
    | none => s)
  | some i =>
    if instDone s ticket i then finishInst ((dirtyCores s i.cid).foldl flushCore s) ticket else s

end Sys2Proof.Machine
end

