-- ==== Sys2Proof/Machine/Launch.lean ====
section
/-!
DEFINITION. The start state of groups and teams (03_registers.md R62, 07_launch.md R123, R124, 09_barriers.md R166,
10_local.md R175).
-/

namespace Sys2Proof.Machine

open Sys2Proof

/-- The bits of %gstat that a team gives its groups at launch (R67, R124). -/
def Team.startStat (t : Team) : Word := BitVec.ofNat 32 (b2n t.ftz + 2 * b2n t.unifen)

/-- A group at its start (R62): the lanes picked stand at an entry on one path, the others have exited. -/
def startGroup (t : Team) (num : Nat) (role : Role) (pc : Nat) (live : Nat → Bool) : Group :=
  { num := num, role := role, gstat := t.startStat, paths := [(0, {})]
    threads := (List.range 32).map fun l => { pc := pc, exited := !live l } }

/-- The groups a team starts with: copy groups, vector groups and the matrix thread as group 32 (R123). -/
def startGroups (t : Team) (h : Hdr) : Map Group :=
  ((List.range h.copyGroups).map fun i => (i, startGroup t i .copy h.copyEntry fun _ => true)) ++
  ((List.range h.vecGroups).map fun i =>
    (h.copyGroups + i, startGroup t (h.copyGroups + i) .vector h.vecEntry fun _ => true)) ++
  (if !h.matrix then [] else [(32, startGroup t 32 .matrix h.matEntry (· == 0))])

/-- A team at its start (R124, R166). A pool team starts without groups, and with its barriers invalid (R303). -/
def startTeam (s : State) (b : Bind) (slot core : Nat) (i : Inst) : Team :=
  let pool := bitB b.tx 31
  let h := if pool then i.pix else i.hdr
  let fl := fieldAt i.node 0x3B 1
  let t : Team := {
    bind := b, hdr := h, slot := some slot, core := core, age := s.nextId
    gx := fieldAt i.node 0x28 4, gy := fieldAt i.node 0x2C 2, gz := fieldAt i.node 0x2E 2
    ftz := bitB fl 0, unifen := bitB fl 1, cls := classFor i.node h
    scratch := putBytes [] 0 i.args, loc := .resident, codeFrom := s.tick
    paired := h.paired, contained := h.contained }
  let n := h.copyGroups + h.vecGroups + b2n h.matrix
  { t with
    groups := if pool then [] else startGroups t h
    barriers := if pool then [] else (List.range h.barriers).map fun k => (k, { valid := true, count := n, pending := n })
    rings := (List.range h.rings).map fun k => (k, { depth := h.stages }) }


/-- Is a team ready to run: resident, and both copies of it where it is paired (R353)? -/
def teamRuns (s : State) (tid : Nat) (t : Team) : Bool :=
  t.loc == .resident && (!t.paired || (teamOf s (twinOf tid)).loc == .resident)

end Sys2Proof.Machine
end

