-- ==== Sys2Proof/Machine/Faults.lean ====
section
/-!
DEFINITION. The fault instructions and the resolution of held faults (19_faults.md R338 to R344), the illegal encoding
and fetch faults (01_encoding.md R24, R28), the watchdog (R359, R360), monitors (11_memory.md R213), and uncorrectable
errors of memory (R358).
-/

namespace Sys2Proof.Machine

open Sys2Proof

/-! ## Restart (R341) -/

/-- May every unexited thread of the group restart (Table 19.3)? -/
def Group.restartable (g : Group) : Bool := g.liveLanes.all fun l => (g.thread l).repc.isSome

/-- A thread sent back to its region entry: its entries above RDEPTH leave the loop stack. -/
def Thread.restart (t : Thread) : Thread :=
  { t with
    pc := t.repc.getD t.pc, meet := t.remeet, loops := t.loops.drop (t.loops.length - t.rdepth)
    held := false, released := false, sig := BitVec.allOnes 64 }

/-- The paths of a group formed anew: one for each address that its live threads stand at, their meeting registers and loop
stacks being equal (R144, R147). -/
def Group.regroup (g : Group) : Group :=
  let live := g.liveLanes
  let spot := fun (l : Nat) => ((g.thread l).pc, (g.thread l).meet, (g.thread l).loops)
  let lead := fun (l : Nat) => (live.find? fun k => spot k == spot l).getD l
  { g with
    threads := g.threads.mapIdx fun l t => if t.exited then t else { t with path := lead l }
    paths := (live.filter fun l => lead l == l).map fun l => (l, {})
    cur := none, clock := 0, parts := [], pastV := [], pastP := [], pastS := [], pastQ := [] }

/-- Every unexited thread of the group restarts at its region entry. -/
def Group.restart (g : Group) : Group := ((g.modThreads g.liveLanes Thread.restart).regroup).settle

/-! ## Resolving a held fault (R338, Table 19.3) -/

/-- The lanes of a mask. -/
def maskLanes (m : Nat) : List Nat := (List.range 32).filter (bitB m)

/-- Is the action refused (Table 19.3)? -/
def FaultRec.refuses (f : FaultRec) (g : Group) (action : Nat) : Bool :=
  let stuck := f.unrec || (f.queued && !f.released)
  match action with
  | 0 => stuck
  | 1 => stuck || f.firstFetch
  | 2 => !g.restartable
  | _ => false

/-- The threads of a mask that have not exited stand still on one path; send them to an address. -/
def Group.resumeAt (g : Group) (f : FaultRec) (pc : Nat) : Group :=
  let lanes := (maskLanes f.mask).filter fun l => !(g.thread l).exited
  match lanes with
  | [] => g
  | l :: _ =>
    let p := (g.thread l).path
    ((g.setWait p .none).modThreads lanes fun t => { t with pc := pc, path := p, held := false }).settle

/-- An action applied to a group (Table 19.3). -/
def Group.resolve (g : Group) (f : FaultRec) (action : Nat) : Group :=
  match action with
  | 0 => g.resumeAt f f.pc
  | 1 => g.resumeAt f ((f.pc + f.len) % 2 ^ 56)
  | 2 => g.restart
  | _ => (g.endThreads (maskLanes f.mask)).settle

/-- Apply the resolutions that a group's held faults carry, and let the faults go (R348). -/
def Group.applyActions (g : Group) : Group :=
  let g1 := match g.swapped with
    | some f => (match f.action with
      | some a => { (g.resolve f a) with swapped := none }
      | none => g)
    | none => g
  match g1.redirected with
  | some f => (match f.action with
    | some a => { (g1.resolve f a) with redirected := none }
    | none => g1)
  | none => g1

/-- Does an action of the group's faults restart it or end threads, so that buffered items go (R341)? -/
def Group.dropsItems (g : Group) : List Nat :=
  let of := fun (f : Option FaultRec) =>
    match f with
    | none => []
    | some f => (match f.action with
      | some 2 => List.range 32
      | some 3 => maskLanes f.mask
      | _ => [])
  of g.swapped ++ of g.redirected

/-- Apply the resolutions of every group of a team (R338, R348); a restart or an end discards the uncommitted items of
its threads (R341). -/
def Team.applyActions (t : Team) : Team :=
  { t with
    items := t.items.filter fun i => !(t.group i.group).dropsItems.contains i.thread
    groups := t.groups.map fun g => (g.1, g.2.applyActions) }

/-! ## The fault instructions (R341 to R344) -/

/-- trap. -/
def execTrap (x : One) (s : State) : Out := .next <| gate (.trap x) s (extra := [x.a.toNat]) fun r =>
  match r.g.getS x.a.toNat with
  | .bad t => r.raise t
  | .ok v => r.faultIn r.s { code := 0x10, trapno := x.b.toNat, arg := v }

/-- The effects of region on its path's threads (R341). -/
def Run.enterRegion (r : Run) : State :=
  let g1 := { r.g with recN := r.g.recN + 1, partly := false }
  r.done (g1.modThreads r.lanes fun t =>
    { t with repc := some ((r.pc + 4) % 2 ^ 56), remeet := t.meet, rdepth := t.loops.length, trec := (t.trec + 1) % 2 ^ 32 })

/-- region: a team that buffers its effects commits first, so that a mismatch restarts the region that it ends (R341,
R355, R356). -/
def execRegion (x : One) (s : State) : Out := .next <| gate (.region x) s fun r =>
  if r.mustCommit then r.waitIn r.s (.twin 1) else r.enterRegion

/-- fcont. -/
def execFcont (x : Imm) (s : State) : Out := .next <| gate (.fcont x) s fun r =>
  let k : Cont := { pc := r.target x.imm, base := x.a.toNat }
  r.doneIn (modTeam r.s r.tid fun t => { t with conts := mput r.g.role.num k t.conts }) r.g

/-- fcont.clr. -/
def execFcontClr (x : Imm) (s : State) : Out := .next <| gate (.fcontClr x) s fun r =>
  r.doneIn (modTeam r.s r.tid fun t => { t with conts := merase r.g.role.num t.conts }) r.g

/-- The status of fret that leaves the path at PC + 4; none where the fault is resolved (R343). -/
def Run.fretStatus (r : Run) (skip : Bool) : Option Nat :=
  match r.g.redirected with
  | none => some 1
  | some f =>
    if !f.cont then some 1
    else if maskOf r.lanes != f.mask then some 2
    else if f.unrec then some 3
    else if skip && f.firstFetch then some 4
    else if f.queued && !f.released then some 0x80
    else none

/-- fret and fret.skip. -/
def execFret (x : One) (s : State) : Out := .next <| gate (.fret x) s fun r =>
  let skip := bitB x.b.toNat 0
  match r.fretStatus skip, r.g.redirected with
  | none, some f =>
    let g := { (r.g.putS x.a.toNat 0) with redirected := none }
    let dest := if skip then (f.pc + f.len) % 2 ^ 56 else f.pc
    r.goTo r.s g (r.lanes.map fun l => (l, dest))
  | st, _ => r.done (r.g.putS x.a.toNat (st.getD 1))

/-- The fault that rfe names in a group: the one under swap-out, else the redirected one (R344). -/
def Group.heldFault (g : Group) : Option (FaultRec × Bool) :=
  match g.swapped with
  | some f => some (f, true)
  | none => g.redirected.map fun f => (f, false)

/-- Record an action on the fault that rfe names; a team on its core applies it at once, one that is saved at its
restore (R338, R349). -/
def resolveFault (s : State) (tid gnum action : Nat) (swapped : Bool) : State :=
  let mark := fun (f : Option FaultRec) => f.map fun x => { x with action := some action }
  let s1 := modTeam s tid fun t =>
    let t1 := { t with groups := mmod gnum (fun g =>
      if swapped then { g with swapped := mark g.swapped } else { g with redirected := mark g.redirected }) t.groups }
    if t.loc == .resident then t1.applyActions else t1
  let s2 := endHolder s1 tid gnum
  refreshFlags s2 (teamOf s2 tid)

/-- The team that a SAVE names, copy 1 where that is asked for: of several kept under one SAVE (log 67) the one whose group
holds a fault. -/
def teamBySave (s : State) (save : Nat) (one : Bool) (gnum : Nat) : Nat :=
  let mine := s.teams.filter fun e => e.1 % copyOne == save && isCopy1 e.1 == one
  match (mine.find? fun e => (e.2.group gnum).heldFault.isSome).or mine.head? with
  | some e => e.1
  | none => save + (if one then copyOne else 0)

/-- The status of rfe with the state it leaves (R344). -/
def rfeResult (s : State) (x : Nat) : State × Nat :=
  let gnum := bits x 37 32
  let action := bits x 41 40
  let copy1 := bitB x 44
  let tid := teamBySave s (bits x 29 0) copy1 gnum
  if bits x 31 30 != 0 || bits x 39 38 != 0 || bits x 43 42 != 0 || bits x 63 45 != 0 || 32 < gnum then (s, 3)
  else
    match mfind tid s.teams with
    | none => (s, 2)
    | some t =>
      if !(t.loc == .resident || t.loc == .saving || t.loc == .saved) || (copy1 && !t.paired) then (s, 2)
      else
        match (t.group gnum).heldFault with
        | none => (s, 1)
        | some (f, swapped) =>
          if f.action.isSome then (s, 1)
          else if f.refuses (t.group gnum) action || (f.cont && action != 3) then (s, 4)
          else (resolveFault s tid gnum action swapped, 0)

/-- rfe: ordered as a fence.sc.sys before itself (R344). -/
def execRfe (x : One) (s : State) : Out := .next <| gate (.rfe x) s fun r0 =>
  match r0.g.getS x.b.toNat with
  | .bad t => r0.raise t
  | .ok v =>
    r0.releasing .sys fun r =>
      let s1 := r.put (acquire r.s r.who .sys) r.g
      match rfeResult s1 v.toNat with
      | (t, st) => r.doneIn t ((r.groupIn t).putS x.a.toNat st)

/-! ## Faults of decoding and fetching (R24, R28) -/

/-- ILLEGAL_ENCODING: the word that the path has reached is no instruction. -/
def execIllegalEncoding (s : State) : Out := .next <|
  match runOf s with
  | none => s
  | some r => r.fault 6

/-- INSTRUCTION_FETCH_FAULT: the fetch of a word faults with a code at an address; the first word's leaves no length
(R24, R28, R338). -/
def execInstructionFetchFault (code va : Nat) (s : State) : Out := .next <|
  match runOf s with
  | none => s
  | some r =>
    let c := checkGlobal s r.who va 4 .fetch
    let tr := match c with
      | .bad k tr => if k == code then tr else none
      | _ => none
    if [1, 2, 3, 5, 0xB, 0x13].contains code then
      r.faultIn (if isLocal va then s else noteTranslation s r.who va c)
        { code := code, addr := va, tr := if isLocal va then none else tr, kind := .fetch, firstFetch := va == r.pc }
    else s

/-! ## The watchdog (R359, R360) -/

/-- Does a path wait on batch order, with the oldest unfinished batch held by a group of a saved team (R283, R284)? -/
def heldBatch (s : State) (g : Group) (w : Wait) : Bool :=
  let order := match w with
    | .result id => (mfind id s.sfops).bind SurfOp.order
    | _ => g.sequence
  match order with
  | none => false
  | some (ticket, tile, b) =>
    match unfinishedBatches s ticket tile with
    | [] => false
    | o :: _ => o != b && s.teams.any fun t => t.2.loc == .saved && t.2.groups.any fun x => x.2.sequence == some (ticket, tile, o)

/-- Is the wait of a path frozen for the watchdog: a link in Recovery, a batch held by a saved team, or a collective
with a saved member (R360)? -/
def waitFrozen (s : State) (t : Team) (g : Group) (w : Wait) : Bool :=
  let recovering := s.ports.any fun p => p.2.st == 2
  let bus := busFrozen s t.core
  let saved := fun (tid : Nat) => (teamOf s tid).loc == .saved
  let collSaved := fun (e : Nat) => s.colls.any fun c =>
    (c.2.parts.any fun p => p.2.handles.any fun h => h.2.1 == e && (teamOf s h.1).bind.save == t.bind.save) &&
    (match mfind c.2.cg s.colGroups with
      | some g => g.members.any fun m => saved m.2.1
      | none => false)
  match w with
  | .handle e _ => recovering || collSaved e || (bus && s.evicts.any fun v => v.2.entry == e && (teamOf s v.2.team).bind.save == t.bind.save)
  | .room => recovering || bus || heldBatch s g w
  | .result _ => bus || heldBatch s g w
  | .footing => bus || heldBatch s g w
  | .monitor _ => recovering
  | .quiet _ => recovering
  | _ => false

/-- The paths of a group that wait. -/
def Group.waiting (g : Group) : List Nat := (g.paths.filter fun p => p.2.wait != .none).map Prod.fst

/-- What a path waits for is called off: its instruction stays not yet issued. -/
def cancelWait (s : State) (tid gnum path : Nat) : State :=
  let mine := fun (t g p : Nat) => t == tid && g == gnum && p == path
  let res := match ((teamOf s tid).group gnum).waitOf path with
    | .result _ => true
    | _ => false
  let lease := match ((teamOf s tid).group gnum).waitOf path with
    | .lease _ => true
    | _ => false
  let push := match ((teamOf s tid).group gnum).waitOf path with
    | .pushed id => merase id s.pushes
    | _ => s.pushes
  { s with
    pushes := push
    cores := if lease then s.cores.map fun e => (e.1, { e.2 with asking := e.2.asking.filter fun a => a.1 != tid }) else s.cores
    texops := s.texops.filter fun o => !(res && mine o.2.team o.2.group o.2.path)
    sfops := s.sfops.filter fun o => !(res && mine o.2.team o.2.group o.2.path && o.2.kind != .store && o.2.kind != .blend)
    ctxOps := (s.ctxOps.map fun e => (e.1, (e.2.filter fun o => !(o.kind == 3 && (match o.reg with
        | some (t, g, p, _) => mine t g p
        | none => false))).map fun o => match o.reg with
          | some (t, g, p, _) => if mine t g p then { o with reg := none } else o
          | none => o)).filter fun e => !e.2.isEmpty }

/-- The length of the instruction that stands at an address, as its first word gives it (R338). -/
def lengthAt (s : State) (tid va : Nat) : Nat :=
  match (fetchWord s tid va).2 with
  | .ok w => if wantsTail w then 8 else 4
  | .error _ => 4

/-- The path that has waited longest of some paths. -/
def Group.oldest (g : Group) : List Nat → Option Nat
  | [] => none
  | p :: ps => some (ps.foldl (fun a b => if (mget {} b g.paths).since < (mget {} a g.paths).since then b else a) p)

/-- The path at which the watchdog of a group expires: the oldest waiting one (R359). Where none waits, it is one that has
not issued for as long, by free choice (log 52). -/
def watchdogPath (s : State) (g : Group) : Option Nat :=
  if g.waiting.isEmpty then g.livePaths[Config.pick s.tick g.livePaths.length % g.livePaths.length]? else g.oldest g.waiting

/-- May the watchdog count of a group run and expire: its oldest wait is not a frozen one (R359, R360)? -/
def watchdogRuns (s : State) (tid gnum : Nat) : Bool :=
  let t := teamOf s tid
  let g := t.group gnum
  (dieOf s (dieOfCore t.core)).wdog != 0 && teamRuns s tid t && !g.exited && g.redirected.isNone && g.swapped.isNone &&
  !(match g.oldest g.waiting with
    | some p => waitFrozen s t g (g.waitOf p)
    | none => false)

/-- Fault(0x14) at a path (R359). -/
def watchdogFault (s : State) (tid gnum path : Nat) : State :=
  let s1 := cancelWait s tid gnum path
  asPath s1 tid gnum path (lengthAt s tid (((teamOf s tid).group gnum).thread (((teamOf s tid).group gnum).pathLanes path |>.headD 0)).pc)
    fun r => r.faultIn (r.waitIn r.s .none) { code := 0x14 }

/-! ## Monitors (R213) -/

/-- MONITOR_WAKE: a write is performed at the monitored word, and the blocked monw issues again to read it. -/
def execMonitorWake (team group : Nat) (s : State) : Out := .next <|
  match (teamOf s team).group group |>.mon with
  | none => s
  | some (va, _) =>
    let changed := fun (seen : Nat) =>
      match (readVa s (whoCore s team) va 8 .read).2 with
      | .bytes bs => ofBytes bs != seen
      | .report _ => true
    modGroup s team group fun g =>
      { g with paths := g.paths.map fun p =>
          match p.2.wait with
          | .monitor seen => if changed seen then (p.1, { p.2 with wait := .none }) else p
          | _ => p }

/-! ## Uncorrectable errors (R358) -/

/-- The line numbers from which HBM_UNCORRECTABLE names a line of a core store or of a core's caches, and from which it names
the registers and tiles of a group (log 86). -/
def flawBase : Nat := 2 ^ 64
/-- The first number that names the registers and tiles of a group. -/
def readBase : Nat := 2 ^ 65

/-- An uncorrectable error is found in a read of the registers or tiles of a team: it consumes it at a path of the group
(R350). -/
def readError (s : State) (tid gnum : Nat) : State :=
  let g := (teamOf s tid).group gnum
  match if (mfind tid s.teams).isSome && teamRuns s tid (teamOf s tid) then g.livePaths else [] with
  | [] => s
  | p :: ps =>
    let q := (p :: ps).getD (Config.pick s.tick (ps.length + 1) % (ps.length + 1)) p
    asPath s tid gnum q (lengthAt s tid ((g.thread ((g.pathLanes q).headD 0)).pc)) fun r => r.faultIn r.s { code := 5 }

/-- HBM_UNCORRECTABLE: a line of HBM, or a dirty line on its way to it, cannot be corrected. The line takes its dirty
bytes with the marker; the last writer's context is told, or error triage (R358). An error in a core store or in a cache
waits for the next read of its line (R28, R182); one in registers or tiles is met at once (R350). -/
def execHbmUncorrectable (line : Nat) (s : State) : Out := .next <|
  let pa := 128 * line
  if readBase ≤ line then readError s ((line - readBase) / 64) ((line - readBase) % 64)
  else if flawBase ≤ line then { s with flaws := insertNat (line - flawBase) s.flaws }
  else if !inHbm pa then s
  else
    let dirty := s.l1.filter fun e => e.2.dirty && keyPa e.1 / 128 == line
    match dirty with
    | [] => logError (markLine s pa) { kind := 6, addr := pa }
    | e :: _ =>
      let core := keyCore e.1
      let mine := dirty.filter fun x => keyCore x.1 == core
      let s1 := mine.foldl (fun t x =>
        if dropped t (sliceOf pa) x.2.cid x.2.icn then t else performByte t x.2.cid x.2.icn (keyPa x.1) x.2.byte) s
      let s2 := markLine { s1 with l1 := s1.l1.filter fun x => !(keyCore x.1 == core && keyPa x.1 / 128 == line) } pa
      if isCurrent s2 e.2.cid e.2.icn then
        (addRecord s2 { code := 5, group := 0xFF, cid := e.2.cid, icn := e.2.icn, core := core, addr := pa }).1
      else logError s2 { kind := 6, addr := pa }

end Sys2Proof.Machine
end

