-- ==== Sys2Proof/Machine/Convert.lean ====
section
/-!
DEFINITION. Conversion between the types of Table 1.7 (05_formats.md R96, R97, R103; 06_float.md R118).
-/

namespace Sys2Proof.Machine

open Sys2Proof

/-- Is the destination format wide enough for every value of the source format (R96)? -/
def wider (dst src : NumType) : Bool :=
  match fmtOf dst, fmtOf src with
  | some d, some f => decide (f.ebits ≤ d.ebits ∧ f.fbits ≤ d.fbits) && d.hasInf
  | some d, none => src == .l6 && decide (15 ≤ d.fbits)
  | _, _ => false

/-- The lowest and highest value of an integer type (R91). -/
def intRange (ty : NumType) : Int × Int :=
  let w := ty.bits
  if signedTy ty then (-((2 ^ (w - 1) : Nat) : Int), ((2 ^ (w - 1) : Nat) : Int) - 1) else (0, ((2 ^ w : Nat) : Int) - 1)

/-- A value into an integer type (R97): rounded and always saturated. -/
def toIntOf (ty : NumType) (rnd : Rnd) (v : FV) : Nat × Flags :=
  let lo := (intRange ty).1
  let hi := (intRange ty).2
  match v with
  | .nan _ => (0, { io := true })
  | .inf n => (wrapInt ty.bits (if n then lo else hi), { io := true })
  | .fin n m e =>
    -- a magnitude of 2^64 or more is outside every range
    if m != 0 && decide (65 ≤ floorLog2 m 1 e) then (wrapInt ty.bits (if n then lo else hi), { io := true })
    else
      let fr := scaled m 1 e 0
      let k := roundFrac rnd n fr.1 fr.2
      let x : Int := if n then -(k : Int) else (k : Int)
      if x < lo then (wrapInt ty.bits lo, { io := true })
      else if hi < x then (wrapInt ty.bits hi, { io := true })
      else (wrapInt ty.bits x, { nx := fr.1 % fr.2 != 0 })

/-- A value into a floating format (R95, R96). -/
def toFloatOf (f : Fmt) (rnd : Rnd) (sat widen : Bool) (v : FV) : Nat × Flags :=
  match v with
  | .nan s => (f.nan, { io := s })
  | .inf n =>
    if widen then f.roundFV rnd sat v
    else if sat then ((if n then f.sign else 0) + f.maxBits, {})
    else if f.hasInf then f.roundFV rnd sat v
    else (f.nan, { io := true })
  | _ => f.roundFV rnd (sat && !widen) v

/-- The value of the bits of a source type, flushed where FTZ applies. -/
def sourceFV (ty : NumType) (ftz : Bool) (x : Nat) : FV :=
  match fmtOf ty with
  | some f => f.read ftz x
  | none =>
    if ty == .l6 then l6Decode x
    else
      let v := valOf ty x
      .fin (decide (v < 0)) v.natAbs 0

/-- Is the type an integer type? -/
def isIntTy (ty : NumType) : Bool := (fmtOf ty).isNone && ty != .l6

/-- Conversion of one element (Table 6.4). -/
def convertOf (dst src : NumType) (rnd : Rnd) (sat ftz : Bool) (x : Nat) : Nat × Flags :=
  if isIntTy dst && isIntTy src then
    (wrapInt dst.bits (if sat then max (intRange dst).1 (min (valOf src x) (intRange dst).2) else valOf src x), {})
  else
    let v := sourceFV src ftz x
    let nar : Flags := { io := decide (src = NumType.l6) && l6NaR x }
    let r :=
      match fmtOf dst with
      | some f => f.flush ftz (toFloatOf f rnd sat (wider dst src) v)
      | none => if dst == NumType.l6 then l6Of v else toIntOf dst rnd v
    (r.1, r.2.or nar)

/-- The value of a register with element k of `w` bits replaced. -/
def setElem (old w k x : Nat) : Nat := setBits old (w * k + w - 1) (w * k) x

/-- cvt (R118): one element; an element destination keeps the other bits of A, read after B. -/
def execCvt (x : Std) (s : State) : Out := .next <| gate (.cvt x) s fun r =>
  let dst := x.ty
  let src := (NumType.ofCode x.f).getD .i32
  let i := bits (srcNum x.e) 5 4
  let j := bits (srcNum x.e) 1 0
  let ftz := r.g.ftz && decide (32 ≤ src.bits) && decide (32 ≤ dst.bits)
  let elem := fun (b : Nat) => if src.bits < 32 then b / 2 ^ (src.bits * i) % 2 ^ src.bits else b
  let conv := fun (b : Nat) => convertOf dst src x.rnd x.sat ftz (elem b)
  if dst.bits < 32 then
    r.lanesF x.a.toNat 1 fun l => combineF [r.g.readV x.b.toNat l src.regs, r.g.readV x.a.toNat l 1] fun
      | [b, a] => (setElem a dst.bits j (conv b).1, (conv b).2) | _ => (0, {})
  else
    r.lanesF x.a.toNat dst.regs fun l => combineF [r.g.readV x.b.toNat l src.regs] fun
      | [b] => conv b | _ => (0, {})

end Sys2Proof.Machine
end

