-- ==== Sys2Proof/Machine/Matrix.lean ====
section
/-!
DEFINITION. The matrix instructions at issue: leases, the operand block and its checks, and the engine queue
(15_matrix.md R253 to R271); tdrain and tfeed on the tiles.
-/

namespace Sys2Proof.Machine

open Sys2Proof

/-! ## Tiles (R254) -/

/-- The key of a tile element. -/
def tileElem (tile row col : Nat) : Nat := 8192 * tile + 64 * row + col

/-- Element (row, j) of the tiles from `tile` on, as 32 bits. -/
def Team.acc32 (t : Team) (tile row j : Nat) : PV Nat :=
  (mget (.ok 0) (tileElem (tile + j / 64) row (j % 64)) t.tiles).map BitVec.toNat

/-- Write such an element. -/
def Team.setAcc32 (t : Team) (tile row j : Nat) (x : PV Nat) : Team :=
  { t with tiles := mset (.ok 0) (tileElem (tile + j / 64) row (j % 64)) (x.map (BitVec.ofNat 32 ·)) t.tiles }

/-- An f64 element: the low word in the even tile, the high word in the odd one, with one poison (R254). -/
def Team.acc64 (t : Team) (tile row j : Nat) : PV Nat :=
  combine [t.acc32 tile row j, t.acc32 (tile + 1) row j] fun | [a, b] => a + 2 ^ 32 * b | _ => 0

/-- Write an f64 element. -/
def Team.setAcc64 (t : Team) (tile row j : Nat) (x : PV Nat) : Team :=
  (t.setAcc32 tile row j (x.map (· % 2 ^ 32))).setAcc32 (tile + 1) row j (x.map (· / 2 ^ 32))

/-- An element of an accumulator type. -/
def Team.acc (t : Team) (wide : Bool) (tile row j : Nat) : PV Nat := if wide then t.acc64 tile row j else t.acc32 tile row j
/-- Write an element of an accumulator type. -/
def Team.setAcc (t : Team) (wide : Bool) (tile row j : Nat) (x : PV Nat) : Team :=
  if wide then t.setAcc64 tile row j x else t.setAcc32 tile row j x

/-! ## Leases (R255, R265) -/

/-- Grant a lease of n to a team. -/
def grantLease (s : State) (tid n : Nat) : State :=
  let t := teamOf s tid
  let s1 := modTeam s tid fun t => { t with lease := some n }
  modCore s1 t.core fun c =>
    { c with holder := some tid, lastLease := t.bind.mslot, asking := c.asking.filter fun a => a.1 != tid }

/-- Is the engine free with nobody asking? -/
def engineFree (s : State) (core : Nat) : Bool :=
  let c := coreOf s core
  c.holder.isNone && c.asking.isEmpty

/-- Ask for a lease. -/
def askLease (s : State) (core tid n : Nat) : State :=
  modCore s core fun c =>
    { c with asking := if c.asking.any fun a => a.1 == tid then c.asking else c.asking ++ [(tid, n)] }

/-- The path needs a lease: the one its thread holds, a lease of one granted at once, or a wait for one (R255). -/
def Run.withLease (r : Run) (k : Run → State) : State :=
  if r.t.lease.isSome then k r
  else if engineFree r.s r.t.core then
    let s1 := grantLease r.s r.tid 1
    k { r with s := s1, t := teamOf s1 r.tid }
  else r.waitIn (askLease r.s r.t.core r.tid 1) (.lease none)

/-- mlease. -/
def execMlease (x : Std) (s : State) : Out := .next <| gate (.mlease x) s fun r =>
  match r.src x.c 64 0 with
  | .bad t => r.raise t
  | .ok n =>
    if r.t.lease.isSome || n == 0 || 64 < n then r.fault 0xE
    else if engineFree r.s r.t.core then r.doneIn (grantLease r.s r.tid n) (r.g.putS x.a.toNat n)
    else r.waitIn (askLease r.s r.t.core r.tid n) (.lease (some (x.a.toNat, n)))

/-- mfree. -/
def execMfree (x : One) (s : State) : Out := .next <| gate (.mfree x) s fun r =>
  if r.t.lease.isSome then r.doneIn (endLease r.s r.tid) r.g else r.done r.g

/-! ## Accepting an operation (R256, R266) -/

/-- Operations accepted by a core's engine that have not completed. -/
def acceptedOn (s : State) (core : Nat) : List (Nat × MxOp) :=
  s.mxops.filter fun e => e.2.faulted.isNone && (teamOf s e.2.team).core == core

/-- A progress value (Table 15.3). -/
def progressVal (chunk bands code state : Nat) : DWord :=
  BitVec.ofNat 64 (chunk * 2 ^ 32 + bands * 2 ^ 24 + code * 2 ^ 8 + state)

/-- Record the progress of an operation in its handle entry, and for %progress where it is the thread's last. -/
def setProgress (s : State) (op : MxOp) (p : DWord) : State :=
  modTeam s op.team fun t =>
    { t with
      handles := mmod op.entry (fun e => if e.seq == op.seq then { e with progress := p } else e) t.handles
      groups := mmod 32 (fun g => if g.lastOp == some (op.entry, op.seq) then { g with progress := p } else g) t.groups }

/-- The type of an operation's tile elements: f64 ones take pairs of tiles (R254). -/
def MxOp.wide (op : MxOp) : Bool :=
  match op.kind with
  | .mld | .mst => op.ty == .f64
  | .mma => tType op.recA == .f64
  | _ => false

/-- The tiles of an operation. -/
def MxOp.tileCount (op : MxOp) : Nat := if op.wide then 2 * (op.cols / 64) else op.cols / 64

/-- Has a thread that may use a tile waited for an operation: one of its group, or the matrix thread (log 81)? -/
def Team.waited (t : Team) (gnum : Nat) (x : TileRace) : Bool :=
  (t.group gnum).awaited.contains (x.entry, x.seq) || (t.group 32).awaited.contains (x.entry, x.seq)

/-- An operation that writes tiles races with accesses from its issue on. Operations over and waited for are forgotten
(R263). -/
def Team.startRace (t : Team) (op : MxOp) : Team :=
  if op.kind == .mst then t
  else
    let old := t.races.filter fun x => !(x.entry == op.entry && x.seq == op.seq) && (x.running || !t.waited 32 x)
    let live := fun (a : Nat × Nat) => old.any fun x => (x.entry, x.seq) == a
    { t with
      races := old ++ [{ entry := op.entry, seq := op.seq, tile := op.tile, count := op.tileCount, past := [t.tiles] }]
      groups := t.groups.map fun g => (g.1, { g.2 with awaited := g.2.awaited.filter live }) }

/-- The handle of an operation completes: what a tfeed left to its end lands, and its span is over (R263). -/
def Team.endRace (t : Team) (op : MxOp) : Team :=
  match t.races.find? fun x => x.entry == op.entry && x.seq == op.seq && x.running with
  | none => t
  | some x =>
    { t with
      tiles := x.late.foldl (fun m e => mset (.ok 0) e.1 e.2 m) t.tiles
      races := t.races.map fun y =>
        if y.entry == op.entry && y.seq == op.seq then { y with running := false, past := y.past ++ [t.tiles], late := [] } else y }

/-- The engine accepts an operation; the lease count falls by one and the lease ends at 0 (R255, R256). -/
def acceptOp (s0 : State) (op : MxOp) : State :=
  let s := modTeam s0 op.team fun t => t.startRace op
  let s1 := { s with mxops := mput s.nextId op s.mxops, nextId := s.nextId + 1 }
  let s2 := modGroup s1 op.team 32 fun g => { g with lastOp := some (op.entry, op.seq) }
  let s3 := setProgress s2 op (progressVal op.chunk op.bands 0 1)
  match (teamOf s3 op.team).lease with
  | some 1 => endLease s3 op.team
  | some n => modTeam s3 op.team fun t => { t with lease := some (n - 1) }
  | none => s3

/-- A lease, a free queue entry and a handle, then the operation is accepted (R266). -/
def Run.accept (r : Run) (a : Nat) (mk : Nat → Nat → MxOp) : State :=
  r.withLease fun q =>
    if 8 ≤ (acceptedOn q.s q.t.core).length then q.waitIn q.s .room
    else
      match q.t.takeHandle 1 with
      | none => q.waitIn q.s .handleFree
      | some (e, sq, t1) =>
        let s1 := modTeam q.s q.tid fun t => { t with handles := t1.handles, hseq := t1.hseq }
        let s2 := q.doneIn s1 (q.g.setPending a (handleVal 1 e sq))
        acceptOp s2 (mk e sq)

/-! ## The operand block (R257) -/

/-- Columns of a width code. -/
def mxCols (f : Nat) : Nat := 64 * (bits f 1 0 + 1)

/-- The signed halves of a block register, low first. -/
def halves (x : Nat) : List Int := [toSigned 32 (x % 2 ^ 32), toSigned 32 (x / 2 ^ 32)]

/-- The registers of a block, or the token of the first poisoned one. -/
def Run.block (r : Run) (b n : Nat) : PV (List Nat) :=
  let vs := (range' b n).map fun k => r.g.readS k 64
  match firstTok vs with
  | some t => .bad t
  | none => .ok (vs.map PV.val)

/-- The matrix load pipes of the path's core as a requester (Table 2.8). -/
def Run.loader (r : Run) : Who := whoEngine r.s r.tid 1

/-- Accumulator type, chunk length, and whether outliers are accepted, for the types of A and B (Table 15.1). -/
def mxRow (sparse : Bool) (ta tb : NumType) : Option (NumType × Nat × Bool) :=
  let e := fun (t : NumType) => t == .e4m3 || t == .e5m2
  let i := fun (t : NumType) => t == .i8 || t == .n8
  if e ta && e tb then some (.f32, if sparse then 128 else 64, true)
  else if i ta && i tb then some (.i32, if sparse then 128 else 64, false)
  else if sparse then none
  else if ta == .l6 && tb == .l6 then some (.f32, 128, true)
  else if ta == .bf16 && tb == .bf16 then some (.f32, 32, true)
  else if ta == .f16 && tb == .f16 then some (.f32, 32, true)
  else if ta == .f64 && tb == .f64 then some (.f64, 4, false)
  else none

/-- Do the records, width and tile match a row of Table 15.1? -/
def mxMatches (op : MxOp) : Bool :=
  let ta := tType op.recA
  let tb := tType op.recB
  let plainView := fun (w : Nat) => tKind w == 0 || tKind w == 1
  let scales := (op.kind == .mmo || !tScaled op.recA || tSdim op.recA == 0) && (!tScaled op.recB || tSdim op.recB == 1)
  let ol := !op.outliers || tKind op.recO == 3
  plainView op.recB && scales && ol &&
  (match op.kind with
    | .mmo => tb == .e4m3 || tb == .e5m2 || tb == .l6 || tb == .bf16 || tb == .f16
    | .mmas => tKind op.recA == 2 && (match mxRow true ta tb with
        | some (_, _, o) => o || !op.outliers
        | none => false)
    | _ =>
      (match mxRow false ta tb with
        | some (acc, _, o) =>
          (o || !op.outliers) &&
          (if acc == .f64 then tKind op.recA == 0 && op.cols == 64 && op.tile % 2 == 0
           else if ta == .l6 then tKind op.recA == 0
           else plainView op.recA)
        | none => false))

/-- The position windows of an operation's operands: record, origin and extents (R257). -/
def mxWindows (op : MxOp) : List (Nat × List Int × List Nat) :=
  match op.kind with
  | .mmo => [(op.recB, op.bo, [op.cols, op.k, 1, 1])]
  | .mma | .mmas => [(op.recA, op.ao, [op.k, 128, 1, 1]), (op.recB, op.bo, [op.cols, op.k, 1, 1])]
  | .mld | .mst => [(op.recA, op.ao, [op.cols, 128, 1, 1])]
  | .mzero => []

/-- Does a window of PAD 3 hold a padding position (R243, R266)? -/
def mxPadFails (op : MxOp) : Bool := (mxWindows op).any fun w => tPad w.1 == 3 && windowPads w.1 w.2.1 w.2.2

/-- The code of a surface view that disagrees with its surface, whose BASE lies in none, or whose surface table entry may
not be read; 0 for one that agrees (R248, R387). -/
def viewCode (s : State) (who : Who) (w : Nat) : Nat :=
  match viewSurface s who.core who.master who.cid w with
  | none => 0xB
  | some sid =>
    match sfReadCode s who.table who.cid sid with
    | 0 => if viewMatches s who.cid w sid then 0 else 0xB
    | c => c

/-- The code of the first surface view among the records that fails, 0 for none (R248). -/
def mxViewFails (s : State) (who : Who) (op : MxOp) : Nat :=
  ((mxWindows op).findSome? fun w =>
    let c := if tKind w.1 == 1 then viewCode s who w.1 else 0
    if c == 0 then none else some c).getD 0

/-- The records of several identifiers: the code of a failed fill, none where one is not valid (R239). -/
def Run.fillAll (r : Run) (m : Master) : State → List Nat → State × Except Nat (Option (List Nat))
  | s, [] => (s, .ok (some []))
  | s, n :: ns =>
    match ({ r with s := s }).tid_ m n with
    | (t, .error c) => (t, .error c)
    | (t, .ok none) => (t, .ok none)
    | (t, .ok (some w)) =>
      match r.fillAll m t ns with
      | (u, .ok o) => (u, .ok (o.map fun l => w :: l))
      | e => e

/-- The operation of the path with its operands but without its records. -/
def Run.mxOp (r : Run) (kind : MxKind) (x : Std) (blk : List Nat) : MxOp :=
  { kind := kind, team := r.tid, entry := 0, seq := 0, pc := r.pc, cid := r.t.bind.cid, icn := r.t.bind.icn
    tile := srcNum x.c, cols := mxCols x.f.toNat, spec := x.spec, sat := x.sat, ty := x.ty
    ao := halves (blk.getD 1 0) ++ halves (blk.getD 2 0)
    bo := halves (blk.getD 3 0) ++ halves (blk.getD 4 0)
    k := blk.getD 5 0 % 2 ^ 32 }

/-- The checks of R266 after the block has been read, then the operation is accepted. `ids` are the identifiers to
read, `put` places their records, `more` are further checks of the form. -/
def Run.issueMx (r : Run) (a : Nat) (op : MxOp) (ids : List Nat) (put : List Nat → MxOp) (ok : MxOp → Bool)
    (more : MxOp → Option Nat) : State :=
  match r.fillAll r.loader.master r.s ids with
  | (t, .error c) => r.faultIn t { code := c }
  | (t, .ok none) =>
    if op.spec then ({ r with s := t }).accept a fun e q => { op with allBad := some 1, entry := e, seq := q }
    else r.faultIn t { code := 1 }
  | (t, .ok (some ws)) =>
    let o := put ws
    if !ok o then r.faultIn t { code := 6 }
    else if mxViewFails t r.loader o != 0 then r.faultIn t { code := mxViewFails t r.loader o }
    else if mxPadFails o && !o.spec then r.faultIn t { code := 0xA }
    else
      match more o with
      | some c => r.faultIn t { code := c }
      | none => ({ r with s := t }).accept a fun e q => { o with entry := e, seq := q }

/-- Are the reserved bits of the block clear (Table 15.2)? -/
def blockOk (blk : List Nat) (ol b k : Bool) : Bool :=
  let x := blk.getD 0 0
  bits x 63 42 == 0 && (ol || bits x 41 32 == 0) && bits x 31 26 == 0 && (b || bits x 25 16 == 0) && bits x 15 10 == 0 &&
    (!k || blk.getD 5 0 / 2 ^ 32 == 0)

/-- mma. -/
def execMma (x : Std) (s : State) : Out := .next <| gate (.mma x) s fun r =>
  match r.block x.b.toNat 6 with
  | .bad t => r.raise t
  | .ok blk =>
    let ol := bitB x.f.toNat 2
    if !blockOk blk ol true true then r.fault 6
    else
      let w := blk.getD 0 0
      let op := { r.mxOp .mma x blk with outliers := ol }
      r.issueMx x.a.toNat op ([bits w 9 0, bits w 25 16] ++ if ol then [bits w 41 32] else [])
        (fun ws => { op with recA := ws.getD 0 0, recB := ws.getD 1 0, recO := ws.getD 2 0 }) mxMatches fun _ => none

/-- The checks of R245 and R246 on a sparse operation. -/
def sparseBad (op : MxOp) (hi : Nat) : Option Nat :=
  if op.ao.getD 0 0 % 4 != 0 then some 4
  else if !isLocal op.meta_.1 then some 0xA
  else if op.meta_.1 % 128 != 0 || op.meta_.2 % 16 != 0 || hi / 2 ^ 32 != 0 then some 4
  else none

/-- mmas: the metadata pair beside the block (R246). -/
def execMmas (x : Std) (s : State) : Out := .next <| gate (.mmas x) s fun r =>
  match r.block x.b.toNat 6, r.block (srcNum x.e) 2 with
  | .bad t, _ => r.raise t
  | .ok _, .bad t => r.raise t
  | .ok blk, .ok md =>
    let ol := bitB x.f.toNat 2
    if !blockOk blk ol true true then r.fault 6
    else
      let w := blk.getD 0 0
      let op := { r.mxOp .mmas x blk with outliers := ol, meta_ := (md.getD 0 0 % 2 ^ 56, md.getD 1 0 % 2 ^ 32) }
      r.issueMx x.a.toNat op ([bits w 9 0, bits w 25 16] ++ if ol then [bits w 41 32] else [])
        (fun ws => { op with recA := ws.getD 0 0, recB := ws.getD 1 0, recO := ws.getD 2 0 }) mxMatches
        fun o => sparseBad o (md.getD 1 0)

/-- mmo: the outlier phase alone. -/
def execMmo (x : Std) (s : State) : Out := .next <| gate (.mmo x) s fun r =>
  match r.block x.b.toNat 6 with
  | .bad t => r.raise t
  | .ok blk =>
    if !blockOk blk true true true then r.fault 6
    else
      let w := blk.getD 0 0
      let op := { r.mxOp .mmo x blk with outliers := true }
      r.issueMx x.a.toNat op [bits w 25 16, bits w 41 32]
        (fun ws => { op with recB := ws.getD 0 0, recO := ws.getD 1 0 }) mxMatches fun _ => none

/-- mzero. -/
def execMzero (x : Std) (s : State) : Out := .next <| gate (.mzero x) s fun r =>
  r.accept x.a.toNat fun e q => { r.mxOp .mzero x [] with entry := e, seq := q }

/-- mld: any kind but outlier list and sparse values. -/
def execMld (x : Std) (s : State) : Out := .next <| gate (.mld x) s fun r =>
  match r.block x.b.toNat 3 with
  | .bad t => r.raise t
  | .ok blk =>
    if !blockOk blk false false false then r.fault 6
    else
      let op := r.mxOp .mld x blk
      r.issueMx x.a.toNat op [bits (blk.getD 0 0) 9 0] (fun ws => { op with recA := ws.getD 0 0 })
        (fun o => decide (tKind o.recA < 2)) fun _ => none

/-- mst: .mx exactly with a scaled identifier; then the origin along SDIM is a multiple of 32 (R269). -/
def execMst (x : Std) (s : State) : Out := .next <| gate (.mst x) s fun r =>
  match r.block x.b.toNat 3 with
  | .bad t => r.raise t
  | .ok blk =>
    if !blockOk blk false false false then r.fault 6
    else
      let mx := bitB x.f.toNat 2
      let op := { r.mxOp .mst x blk with mx := mx, spec := false }
      r.issueMx x.a.toNat op [bits (blk.getD 0 0) 9 0] (fun ws => { op with recA := ws.getD 0 0 })
        (fun o => decide (tKind o.recA < 2) && tScaled o.recA == mx)
        fun o => if mx && o.ao.getD (tSdim o.recA) 0 % 32 != 0 then some 4 else none

/-! ## Resumption, progress, the operand fence (R267, R270) -/

/-- The entry that a handle names, where it is a matrix operation's and still holds it. -/
def Team.mxEntry (t : Team) (h : Nat) : Option (Nat × HandleEnt) :=
  if bits h 63 60 != 1 || bits h 59 38 != 0 then none
  else (mfind (bits h 37 32) t.handles).bind fun e => if e.seq == h % 2 ^ 32 then some (bits h 37 32, e) else none

/-- mma.resume: S[A] is a blocking read; a FAULTED operation is accepted again. -/
def execMmaResume (x : Std) (s : State) : Out := .next <| gate (.mmaResume x) s (extra := [x.a.toNat]) fun r =>
  match r.g.readS x.a.toNat 64 with
  | .bad t => r.raise t
  | .ok h =>
    match r.t.mxEntry h with
    | none => r.fault 0xD
    | some (i, e) =>
      match r.s.mxops.find? fun o => o.2.team == r.tid && o.2.entry == i && o.2.seq == e.seq && o.2.faulted.isSome with
      | none => r.fault 0xD
      | some (id, op) =>
        r.withLease fun q =>
          if 8 ≤ (acceptedOn q.s q.t.core).length then q.waitIn q.s .room
          else
            let s1 := modTeam { q.s with mxops := merase id q.s.mxops } q.tid fun t =>
              { t with handles := mput i { e with status := 0x80, code := 0, cancel := false } t.handles }
            acceptOp (q.doneIn s1 (q.g.setPending x.a.toNat h)) { op with faulted := none, flags := 0 }

/-- Memory as a core sees it: with what it has sent on and what its first-level cache holds over what memory holds. -/
def coreView (s : State) (core : Nat) : List Host.Cell :=
  let sent := (s.requests.filter fun r => r.2.core == core && !r.2.isRead).flatMap fun r =>
    r.2.bytes.map fun b => (r.2.pa + b.1, b.2)
  (sent ++ (l1Of s core).map fun e => (keyPa e.1, e.2.byte)).foldl (fun m e => mset 0 e.1 e.2 m) s.mem

/-- mready: the operand-ready fence remembers memory as the core sees it now (R205, R270). -/
def execMready (x : One) (s : State) : Out := .next <| gate (.mready x) s fun r =>
  r.doneIn (modTeam r.s r.tid fun t => { t with ready := some (coreView r.s r.t.core) }) r.g

/-- mrow: the progress of any matrix handle, read without waiting. -/
def execMrow (x : One) (s : State) : Out := .next <| gate (.mrow x) s (exempt := [x.b.toNat]) fun r =>
  match r.g.getS x.b.toNat with
  | .bad t => r.done (r.g.setS x.a.toNat (.bad t))
  | .ok h =>
    match r.t.mxEntry h.toNat with
    | none => r.fault 0xD
    | some (_, e) => r.done (r.g.setS x.a.toNat (.ok e.progress))

/-! ## tdrain and tfeed (R271) -/

/-- The operations with which an access of a group to a tile may race (R263). -/
def Team.racesAt (t : Team) (gnum tile : Nat) : List TileRace :=
  t.races.filter fun x => decide (x.tile ≤ tile) && decide (tile < x.tile + x.count) && !t.waited gnum x

/-- The operations with which an access to an element of a group may race: one of an f64 element uses both its tiles. -/
def Team.racesOf (t : Team) (gnum : Nat) (wide : Bool) (tile : Nat) : List TileRace :=
  if wide then t.racesAt gnum tile ++ (t.racesAt gnum (tile + 1)).filter fun x => !(t.racesAt gnum tile).contains x
  else t.racesAt gnum tile

/-- The value an unordered read delivers: never poison (R263). -/
def PV.unpoisoned : PV Nat → PV Nat
  | .ok x => .ok x
  | .bad t => .ok t.toNat

/-- An element as a racing read returns it: as it stood at some moment between the issue of an operation and the completion
of its handle, without poison (R263). -/
def Team.raced (t : Team) (tick : Nat) (xs : List TileRace) (wide : Bool) (tile row j : Nat) : PV Nat :=
  let spans := xs.flatMap fun x => if x.running then x.past ++ [t.tiles] else x.past
  let m := spans.getD (Config.freeNat tick (2 ^ 52 + tileElem tile row j) % spans.length) t.tiles
  (({ t with tiles := m }).acc wide tile row j).unpoisoned

/-- What a racing tfeed leaves in an element: the fed value now, the value that the operation makes of what is there, or the
fed value at the operation's end (R263). -/
def Team.feedRaced (t : Team) (tick : Nat) (xs : List TileRace) (wide : Bool) (tile row j : Nat) (v : PV Nat) : Team :=
  match Config.freeNat tick (2 ^ 52 + tileElem tile row j) % 3 with
  | 0 => t.setAcc wide tile row j v
  | 1 => t
  | _ =>
    match xs.find? TileRace.running with
    | none => t.setAcc wide tile row j v
    | some x =>
      let fed := (({ t with tiles := [] }).setAcc wide tile row j v).tiles
      let keys := if wide then [tileElem tile row j, tileElem (tile + 1) row j] else [tileElem tile row j]
      { t with races := t.races.map fun y =>
          if y == x then { y with late := keys.foldl (fun m k => mput k (mget (.ok 0) k fed) m) y.late } else y }

/-- The row of tdrain and tfeed, or the fault of one above 127. -/
def Run.tileRow (r : Run) (x : Std) : PV Nat := r.src x.c 64 0

/-- tdrain. -/
def execTdrain (x : Std) (s : State) : Out := .next <| gate (.tdrain x) s fun r =>
  let wide := x.ty.regs == 2
  let tile := x.b.toNat
  let half := if x.f == 0 then 0 else 32
  if r.act.isEmpty then r.done r.g
  else if !r.t.hdr.matrix then r.fault 0xE
  else
    match r.tileRow x with
    | .bad t => r.lanesV x.a.toNat x.ty.regs fun _ => .bad t
    | .ok row =>
      if 128 ≤ row then r.fault 0xA
      else
        let xs := r.t.racesOf r.gnum wide tile
        r.lanesV x.a.toNat x.ty.regs fun l =>
          if xs.isEmpty then r.t.acc wide tile row (half + l) else r.t.raced r.s.tick xs wide tile row (half + l)

/-- tfeed. -/
def execTfeed (x : Std) (s : State) : Out := .next <| gate (.tfeed x) s fun r =>
  let wide := x.ty.regs == 2
  let tile := x.a.toNat
  let half := if x.f == 0 then 0 else 32
  if r.act.isEmpty then r.done r.g
  else if !r.t.hdr.matrix then r.fault 0xE
  else
    match r.tileRow x with
    | .bad t => r.raise t
    | .ok row =>
      if 128 ≤ row then r.fault 0xA
      else
        let xs := r.t.racesOf r.gnum wide tile
        let feed := fun (t : Team) => r.act.foldl (fun u l =>
          let v := r.g.readV x.b.toNat l x.ty.regs
          if xs.isEmpty then u.setAcc wide tile row (half + l) v else u.feedRaced r.s.tick xs wide tile row (half + l) v) t
        r.doneIn (modTeam r.s r.tid feed) r.g

end Sys2Proof.Machine
end

