-- ==== Sys2Proof/Machine/MatrixEv.lean ====
section
/-!
DEFINITION. The matrix engine at work: lease grants, the bands of an operation, its stops and its completion
(15_matrix.md R253 to R263, R266 to R269; 05_formats.md R98, R99, R106).
-/

namespace Sys2Proof.Machine

open Sys2Proof

/-! ## Reads of the engine (R205, R259, R260) -/

/-- Why an operation stops. -/
inductive MxStop
  /-- FAULTED: code, address, translation failure, kind of access -/
  | faulted (code va : Nat) (tr : TrFail) (kind : Kind)
  /-- FAILED with a code, and the token that the first read of the handle raises -/
  | failed (code : Nat) (raise : Option Word)
  /-- it cannot go on yet -/
  | wait
deriving DecidableEq, Repr

/-- A byte of normal memory as an operand read sees it: a write since the thread's last operand-ready fence is observed
or not (R205). -/
def operandByte (s : State) (who : Who) (pa : Nat) : Byte :=
  let now := coreByte s who.core pa
  match (teamOf s who.team).ready with
  | none => now
  | some mem =>
    let old := if inCtxTable s pa then now else mget 0 pa mem
    if old == now then now else if Config.freeBool s.tick (2 ^ 59 + pa) then old else now

/-- Read `n` bytes of an operand: the number, or what stops the read. -/
def mxRead (s : State) (who : Who) (va n : Nat) : State × Except MxStop Nat :=
  let c : Check := match checkAccess s who va n .read with
    | .ok (.device _) => .bad 2 (some { mal := false, lvl := 0 })
    | c => c
  match c with
  | .bad code (some tr) => (noteTranslation s who va c, .error (.faulted code va tr .read))
  | .bad code none => (noteTranslation s who va c, .error (.failed code none))
  | .wait _ => (s, .error .wait)
  | .ok p =>
    match readPlace (noteTranslation s who va c) who p n with
    | (t, .report k) => (t, .error (.failed k none))
    | (t, .bytes bs) =>
      match p with
      | .normal pa => (t, .ok (ofBytes ((range' pa n).map (operandByte t who))))
      | _ => (t, .ok (ofBytes bs))

/-- The code of a stop that .spec turns into poison (Table 15.4): not a lost link, not a wait. -/
def MxStop.specCode : MxStop → Option Nat
  | .faulted c _ _ _ => some c
  | .failed c _ => if c == 0x13 then none else some c
  | .wait => none

/-- The surface of a record that is a view, once it agrees with its table entry; else the code (R248). -/
def viewFor (s : State) (who : Who) (w : Nat) : Except Nat Nat :=
  if tKind w != 1 then .ok 0
  else
    match viewCode s who w with
    | 0 => .ok ((viewSurface s who.core who.master who.cid w).getD 0)
    | c => .error c

/-- The element of a window position (R241 to R244): `i0` replaces the first index where the values are compact. -/
def mxElemRaw (s : State) (who : Who) (w sid : Nat) (is : List Int) (i0 : Option Nat) : State × Except MxStop MxElem :=
  let z := typeSize (tTypeCode w)
  let at_ := fun (js : List Nat) => elemVa s who.cid w sid (i0.getD (js.getD 0 0)) (js.getD 1 0) (js.getD 2 0) (js.getD 3 0)
  if realPos w is then
    let js := is.map Int.toNat
    match mxRead s who (at_ js) z with
    | (t, .error e) => (t, .error e)
    | (t, .ok x) =>
      if !tScaled w then (t, .ok { x := x })
      else
        match mxRead t who (scaleVa w (js.getD 0 0) (js.getD 1 0) (js.getD 2 0) (js.getD 3 0)) 1 with
        | (u, .error e) => (u, .error e)
        | (u, .ok k) => (u, .ok { x := x, scale := k })
  else
    match tPad w with
    | 0 => (s, .ok { real := false })
    | 1 => (s, .ok { x := tPadval w, real := false })
    | 2 =>
      match mxRead s who (at_ (clampPos w is)) z with
      | (t, .error e) => (t, .error e)
      | (t, .ok x) => (t, .ok { x := x, real := false })
    | _ => (s, .error (.failed 0xA none))

/-- The same under .spec or without: with .spec a failed read is an element with a code (R260, R261). -/
def mxElem (s : State) (who : Who) (spec : Bool) (w : Nat) (is : List Int) (i0 : Option Nat := none) :
    State × Except MxStop MxElem :=
  let r := match viewFor s who w with
    | .ok sid => mxElemRaw s who w sid is i0
    | .error c => (s, .error (.failed c none))
  match r with
  | (t, .error e) =>
    (match if spec then e.specCode else none with
      | some c => (t, .ok { bad := some c })
      | none => (t, .error e))
  | r => r

/-- Read a list of positions in order. -/
def mxElems (who : Who) (spec : Bool) (w : Nat) : State → List (List Int) → State × Except MxStop (List MxElem)
  | s, [] => (s, .ok [])
  | s, p :: ps =>
    match mxElem s who spec w p with
    | (t, .error e) => (t, .error e)
    | (t, .ok x) =>
      match mxElems who spec w t ps with
      | (u, .error e) => (u, .error e)
      | (u, .ok xs) => (u, .ok (x :: xs))

/-! ## Products and sums (R98, R101, R102, R106) -/

/-- The decoded value of an element, scaled (R98, R101). -/
def MxElem.value (e : MxElem) (ty : NumType) : FV × Flags :=
  if e.scale == 255 then (.nan false, { io := true })
  else
    let v := match fmtOf ty with
      | some f => f.decode e.x
      | none => if ty == .l6 then l6Decode e.x else .fin (decide (valOf ty e.x < 0)) (valOf ty e.x).natAbs 0
    let fl : Flags := if ty == .l6 && l6NaR e.x then { io := true } else sigFlags [v]
    (match v with
      | .fin n m x => .fin n m (x + ((e.scale : Int) - 127))
      | v => v, fl)

/-- The exact product of two elements (R98, R102). -/
def mxProduct (ta tb : NumType) (a b : MxElem) : FV × Flags :=
  if a.scale == 255 || b.scale == 255 then (.nan false, { io := true })
  else if ta == .l6 && tb == .l6 then l6Product a.x b.x ((a.scale : Int) - 127 + ((b.scale : Int) - 127))
  else
    let x := a.value ta
    let y := b.value tb
    let p := x.1.mul y.1
    (p.1, x.2.or (y.2.or p.2))

/-- The events of reading an element at a real position: a signalling NaN, NaR, or a block scale of 0xFF (R98, R107). -/
def MxElem.readFlags (e : MxElem) (ty : NumType) : Flags := if e.real then (e.value ty).2 else {}

/-- One output element after a chunk (R106): `ps` are the pairs at the chunk's positions. The events of reading an element
count where it is real, whatever it meets. An event that joins a real and a padding element, a product of infinity and 0
or a rounding of a chunk with no pair real on both sides, counts as the padding element's and sets no flag (R108 does not
say; DESIGN CHOICE, log 82). -/
def chunkStep (acc : NumType) (ta tb : NumType) (d : Nat) (ps : List (MxElem × MxElem)) : Nat × Flags :=
  match acc with
  | .i32 =>
    let t : Int := ps.foldl (fun s p => s + valOf ta p.1.x * valOf tb p.2.x) 0
    (wrapInt 32 ((d : Int) + t), {})
  | _ =>
    let f := if acc == .f64 then fmt64 else fmt32
    let vs := ps.map fun p => (mxProduct ta tb p.1 p.2, p.1.real && p.2.real)
    let any := vs.any fun v => v.2
    let reads := ps.foldl (fun g p => g.or ((p.1.readFlags ta).or (p.2.readFlags tb))) ({} : Flags)
    let fl := vs.foldl (fun g v => if v.2 then g.or v.1.2 else g) reads
    let sum := FV.sum .rne (vs.map fun v => v.1.1)
    let r := f.roundFV .rne false sum.1
    let two := [f.decode d, f.decode r.1]
    let tot := FV.sum .rne two
    let q := f.roundFV .rne false tot.1
    (q.1, if any then fl.or (sum.2.or (r.2.or ((sigFlags two).or (tot.2.or q.2)))) else fl)

/-! ## Operands of a chunk and a band (R257, R259) -/

/-- The accumulator type and chunk length of an operation. -/
def MxOp.acc (op : MxOp) : NumType × Nat :=
  match op.kind with
  | .mma => ((mxRow false (tType op.recA) (tType op.recB)).map fun r => (r.1, r.2.1)).getD (.f32, 1)
  | .mmas => ((mxRow true (tType op.recA) (tType op.recB)).map fun r => (r.1, r.2.1)).getD (.f32, 1)
  | _ => (.f32, 1)

/-- The chunks of an operation; mmo runs none (R258). -/
def MxOp.chunks (op : MxOp) : Nat :=
  match op.kind with
  | .mma | .mmas => ceilDiv op.k op.acc.2
  | _ => 0

/-- The reduction indices of the chunk in progress. -/
def MxOp.chunkKs (op : MxOp) : List Nat :=
  let lo := op.chunk * op.acc.2
  range' lo (min op.acc.2 (op.k - lo))

/-- B position (k, j). -/
def MxOp.bPos (op : MxOp) (k j : Nat) : List Int :=
  [op.bo.getD 0 0 + (j : Int), op.bo.getD 1 0 + (k : Int), op.bo.getD 2 0, op.bo.getD 3 0]

/-- A position (row, k). -/
def MxOp.aPos (op : MxOp) (row k : Nat) : List Int :=
  [op.ao.getD 0 0 + (k : Int), op.ao.getD 1 0 + (row : Int), op.ao.getD 2 0, op.ao.getD 3 0]

/-- The matrix load pipes of an operation's core as a requester. -/
def MxOp.who (op : MxOp) (s : State) : Who := whoEngine s op.team 1

/-- Read the B elements of a chunk, k by k (R259). -/
def readB (s : State) (op : MxOp) : State × Except MxStop (List MxElem) :=
  mxElems (op.who s) op.spec op.recB s (op.chunkKs.flatMap fun k => (List.range op.cols).map fun j => op.bPos k j)

/-- The stored values of one row of a sparse window in a chunk (R245, R246): the metadata byte of each group of four
columns, then its two values at the columns it names. A group in padding names none. -/
def sparseRow (op : MxOp) (who : Who) (row : Nat) : State → List Nat → State × Except MxStop (List (Nat × MxElem))
  | s, [] => (s, .ok [])
  | s, g :: gs =>
    let rest := fun (t : State) (here : List (Nat × MxElem)) =>
      match sparseRow op who row t gs with
      | (u, .error e) => (u, .error e)
      | (u, .ok xs) => (u, .ok (here ++ xs))
    if !realPos op.recA (op.aPos row (4 * g)) then rest s []
    else
      match mxRead s who ((op.meta_.1 + row * op.meta_.2 + g / 2) % 2 ^ 56) 1 with
      | (t, .error e) => (t, .error e)
      | (t, .ok m) =>
        let n := m / 16 ^ (g % 2) % 16
        let col := ((op.ao.getD 0 0 + 4 * (g : Int)) / 2).toNat
        let one := fun (u : State) (i : Nat) => mxElem u who op.spec op.recA (op.aPos row (4 * g)) (i0 := some (col + i))
        match one t 0 with
        | (u, .error e) => (u, .error e)
        | (u, .ok x) =>
          match one u 1 with
          | (v, .error e) => (v, .error e)
          | (v, .ok y) =>
            rest v ([(4 * g + n % 4, x), (4 * g + n / 4, y)].filter fun p => decide (p.1 < op.k))

/-- The A elements of one row of the chunk, with their reduction indices. -/
def readARow (s : State) (op : MxOp) (row : Nat) : State × Except MxStop (List (Nat × MxElem)) :=
  match op.kind with
  | .mmas =>
    let gs := range' (op.chunk * 32) (ceilDiv op.chunkKs.length 4)
    sparseRow op (op.who s) row s gs
  | _ =>
    match mxElems (op.who s) op.spec op.recA s (op.chunkKs.map (op.aPos row)) with
    | (t, .error e) => (t, .error e)
    | (t, .ok xs) => (t, .ok (op.chunkKs.zip xs))

/-- Read the A elements of the rows of a band. -/
def readARows (op : MxOp) : State → List Nat → State × Except MxStop (List (Nat × List (Nat × MxElem)))
  | s, [] => (s, .ok [])
  | s, row :: rows =>
    match readARow s op row with
    | (t, .error e) => (t, .error e)
    | (t, .ok xs) =>
      match readARows op t rows with
      | (u, .error e) => (u, .error e)
      | (u, .ok ys) => (u, .ok ((row, xs) :: ys))

/-! ## Poison (R261) -/

/-- The token an operation poisons with. -/
def MxOp.token (op : MxOp) (code : Nat) : Word := mkToken code 0 true true op.pc

/-- Poison an element that carries none yet. -/
def MxOp.poisonElem (op : MxOp) (code : Nat) (t : Team) (row j : Nat) : Team :=
  if (t.acc op.wide op.tile row j).poisoned then t else t.setAcc op.wide op.tile row j (.bad (op.token code))

/-- The rows of a band. -/
def bandRows (b : Nat) : List Nat := range' (16 * b) 16

/-- Poison of the B elements that failed: every row of their 16-column blocks. -/
def MxOp.poisonB (op : MxOp) (bs : List MxElem) (t : Team) : Team :=
  (bs.mapIdx fun i e => (i % op.cols, e)).foldl (fun t e =>
    match e.2.bad with
    | none => t
    | some c =>
      (List.range 128).foldl (fun t row => (range' (16 * (e.1 / 16)) 16).foldl (fun t j => op.poisonElem c t row j) t) t) t

/-- Apply a chunk to one row (R106); elements that carry poison stay. -/
def MxOp.applyRow (op : MxOp) (bs : List MxElem) (t : Team) (row : Nat) (as : List (Nat × MxElem)) : Team × Flags :=
  match as.findSome? fun a => a.2.bad with
  | some c => ((List.range op.cols).foldl (fun t j => op.poisonElem c t row j) t, {})
  | none =>
    let k0 := op.chunk * op.acc.2
    (List.range op.cols).foldl (fun (acc : Team × Flags) j =>
      match acc.1.acc op.wide op.tile row j with
      | .bad _ => acc
      | .ok d =>
        let ps := as.map fun a => (a.2, bs.getD ((a.1 - k0) * op.cols + j) {})
        let r := chunkStep op.acc.1 (tType op.recA) (tType op.recB) d ps
        (acc.1.setAcc op.wide op.tile row j (.ok r.1), acc.2.or r.2)) (t, {})

/-! ## The outlier phase (R247, R262) -/

/-- Read the entries of the outlier list: VALUE, K and ROW. -/
def readOutliers (op : MxOp) (who : Who) : State → List Nat → State × Except MxStop (List (Nat × Nat × Nat))
  | s, [] => (s, .ok [])
  | s, i :: is =>
    match mxRead s who ((tBase op.recO + 8 * i) % 2 ^ 56) 8 with
    | (t, .error e) => (t, .error e)
    | (t, .ok x) =>
      match readOutliers op who t is with
      | (u, .error e) => (u, .error e)
      | (u, .ok xs) => (u, .ok ((bits x 47 32, bits x 31 16, bits x 15 0) :: xs))

/-- Read the B rows that the entries name. -/
def readEntryRows (op : MxOp) : State → List (Nat × Nat × Nat) → State × Except MxStop (List (Nat × Nat × List MxElem))
  | s, [] => (s, .ok [])
  | s, e :: es =>
    match mxElems (op.who s) op.spec op.recB s ((List.range op.cols).map fun j => op.bPos e.2.1 j) with
    | (t, .error x) => (t, .error x)
    | (t, .ok bs) =>
      match readEntryRows op t es with
      | (u, .error x) => (u, .error x)
      | (u, .ok xs) => (u, .ok ((e.1, e.2.2, bs) :: xs))

/-- Apply one entry to its row: VALUE times B, exactly, added and rounded once. -/
def MxOp.applyEntry (op : MxOp) (t : Team) (v row : Nat) (bs : List MxElem) : Team × Flags :=
  -- column blocks that a failed read poisons
  let badIn := fun (j : Nat) => ((bs.drop (16 * (j / 16))).take 16).findSome? MxElem.bad
  (List.range op.cols).foldl (fun (acc : Team × Flags) j =>
    match badIn j with
    | some c => (op.poisonElem c acc.1 row j, acc.2)
    | none =>
      match acc.1.acc false op.tile row j with
      | .bad _ => acc
      | .ok d =>
        let e := bs.getD j {}
        let x := fmtB16.decode v
        let y := e.value (tType op.recB)
        let p := x.mul y.1
        let two := [fmt32.decode d, p.1]
        let sum := FV.sum .rne two
        let r := fmt32.roundFV .rne false sum.1
        let fl := y.2.or (p.2.or ((sigFlags [fmt32.decode d]).or (sum.2.or r.2)))
        (acc.1.setAcc false op.tile row j (.ok r.1), acc.2.or ((sigFlags [x]).or (if e.real then fl else {})))) (t, {})

/-! ## mld and mst (R269) -/

/-- The window position of a tile element. -/
def MxOp.ldPos (op : MxOp) (row j : Nat) : List Int :=
  [op.ao.getD 0 0 + (j : Int), op.ao.getD 1 0 + (row : Int), op.ao.getD 2 0, op.ao.getD 3 0]

/-- An element converted to the tile type: the same type keeps its bits, those of a NaN too, and sets no flag (Table 6.4 has
no such row, DESIGN CHOICE, log 82); a scaled one is scaled first (R244, R269). -/
def mldConvert (ty src : NumType) (e : MxElem) : Nat × Flags :=
  if ty == src then (e.x, {})
  else if e.scale == 127 && e.real || !e.real then convertOf ty src .rne false false e.x
  else
    let v := e.value src
    let r := match fmtOf ty with
      | some f => toFloatOf f .rne false (wider ty src) v.1
      | none => toIntOf ty .rne v.1
    (r.1, v.2.or r.2)

/-- One band of mld; an element poisoned before stays as it is (R261). -/
def mldBand (s : State) (op : MxOp) : State × Except MxStop Flags :=
  let ps := (bandRows op.bands).flatMap fun row => (List.range op.cols).map fun j => (row, j)
  match mxElems (op.who s) op.spec op.recA s (ps.map fun p => op.ldPos p.1 p.2) with
  | (t, .error e) => (t, .error e)
  | (t, .ok es) =>
    let put := fun (acc : Team × Flags) (p : (Nat × Nat) × MxElem) =>
      if (acc.1.acc op.wide op.tile p.1.1 p.1.2).poisoned then acc
      else
      match p.2.bad with
      | some c => (acc.1.setAcc op.wide op.tile p.1.1 p.1.2 (.bad (op.token c)), acc.2)
      | none =>
        let r := mldConvert op.ty (tType op.recA) p.2
        (acc.1.setAcc op.wide op.tile p.1.1 p.1.2 (.ok r.1), if p.2.real then acc.2.or r.2 else acc.2)
    let r := (ps.zip es).foldl put (teamOf t op.team, {})
    (setTeam t op.team r.1, .ok r.2)

/-- The tile value of an element as an exact value. -/
def tileFV (ty : NumType) (x : Nat) : FV :=
  match fmtOf ty with
  | some f => f.decode x
  | none => .fin (decide (valOf ty x < 0)) (valOf ty x).natAbs 0

/-- The E8M0 code that a block of source values derives (R99). -/
def blockScale (ty : NumType) (vs : List FV) : Nat :=
  if vs.any fun v => v.isNaN || v.isInf then 255
  else
    let p : Int := if ty == .e4m3 then 8 else if ty == .e5m2 then 15 else 3
    match (vs.filter fun v => !v.isZero).map fun v => (match v with
        | .fin _ m e => floorLog2 m 1 e
        | _ => 0) with
    | [] => 127
    | l :: ls => (max 0 (min 254 (ls.foldl max l - p + 127))).toNat

/-- The tile positions of the block of 32 that a position belongs to along SDIM, real ones only. -/
def MxOp.blockOf (op : MxOp) (row j : Nat) : List (Nat × Nat) :=
  let all := if tSdim op.recA == 0 then (range' (j / 32 * 32) 32).map fun c => (row, c)
    else (range' (row / 32 * 32) 32).map fun r => (r, j)
  all.filter fun p => realPos op.recA (op.ldPos p.1 p.2)

/-- What mst writes for a position: its element's bits, the block scale of .mx, and flags (R99, R269). An element of the
identifier's own type keeps its bits, those of a NaN too, and sets no flag (Table 6.4 has no such row, DESIGN CHOICE, log 82). -/
def MxOp.mstElem (op : MxOp) (t : Team) (row j : Nat) : Nat × Option Nat × Flags :=
  let dst := tType op.recA
  let x := (t.acc op.wide op.tile row j).val
  if !op.mx then
    (if dst == op.ty then (x, none, {}) else
      let r := convertOf dst op.ty .rne op.sat false x
      (r.1, none, r.2))
  else
    let k := blockScale dst ((op.blockOf row j).map fun p => tileFV op.ty (t.acc op.wide op.tile p.1 p.2).val)
    let v := match tileFV op.ty x with
      | .fin n m e => .fin n m (e + (127 - (k : Int)))
      | v => v
    let r := match fmtOf dst with
      | some f => toFloatOf f .rne true false v
      | none => l6Of v
    (r.1, some k, r.2.or (sigFlags [tileFV op.ty x]))

/-- The writes of one band of mst: address and bytes, scales beside their elements. -/
def MxOp.mstWrites (op : MxOp) (s : State) (sid : Nat) : List (Nat × List Byte) × Flags :=
  let t := teamOf s op.team
  let z := typeSize (tTypeCode op.recA)
  let ps := ((bandRows op.bands).flatMap fun row => (List.range op.cols).map fun j => (row, j)).filter fun p =>
    realPos op.recA (op.ldPos p.1 p.2)
  ps.foldr (fun p (acc : List (Nat × List Byte) × Flags) =>
    let js := (op.ldPos p.1 p.2).map Int.toNat
    let e := op.mstElem t p.1 p.2
    let va := elemVa s op.cid op.recA sid (js.getD 0 0) (js.getD 1 0) (js.getD 2 0) (js.getD 3 0)
    let sc := match e.2.1 with
      | some k => [(scaleVa op.recA (js.getD 0 0) (js.getD 1 0) (js.getD 2 0) (js.getD 3 0), toBytes 1 k)]
      | none => []
    ((va, toBytes z e.1) :: sc ++ acc.1, e.2.2.or acc.2)) ([], {})

/-- What stops a write of mst, found before any of its band is written (R259, R260): a failed check, or the code with which
its target would answer. The state logs a denial and drops a translation that failed. -/
def mstStop (s : State) (who : Who) (va n : Nat) : State × Option MxStop :=
  let c : Check := match checkAccess s who va n .write with
    | .ok (.device _) => .bad 2 (some { mal := false, lvl := 0 })
    | c => c
  match c with
  | .ok p =>
    (match writePlace s who p (toBytes n 0) .nl1 with
      | (_, 0) => (s, none)
      | (t, k) => (t, some (.failed k none)))
  | .bad k (some tr) => (noteTranslation s who va c, some (.faulted k va tr .write))
  | .bad k none => (noteTranslation s who va c, some (.failed k none))
  | .wait _ => (s, some .wait)

/-- The first write of a band that stops it. -/
def mstStops (who : Who) : State → List (Nat × List Byte) → State × Option MxStop
  | s, [] => (s, none)
  | s, a :: as =>
    match mstStop s who a.1 a.2.length with
    | (_, none) => mstStops who s as
    | r => r

/-- Bytes written twice in one band end with one of the values, unpredictably, byte by byte; one that an earlier band of the
operation wrote may keep that value (R241). `before` are the writes of the earlier bands. -/
def settleBytes (tick : Nat) (before ws : List (Nat × List Byte)) : List (Nat × List Byte) :=
  let flat := ws.flatMap fun w => w.2.mapIdx fun i b => ((w.1 + i) % 2 ^ 56, b)
  let all := flat.foldl (fun (m : Map (List Byte)) e => mput e.1 (e.2 :: mget [] e.1 m) m) []
  let lo := ws.foldl (fun m w => min m w.1) (2 ^ 56)
  let hi := ws.foldl (fun m w => max m (w.1 + w.2.length)) 0
  let near := before.filter fun w => decide (lo < w.1 + w.2.length) && decide (w.1 < hi)
  let wrote := fun (a : Nat) => near.any fun w => decide (w.1 ≤ a) && decide (a < w.1 + w.2.length)
  if (all.all fun e => e.2.length ≤ 1) && near.isEmpty then ws
  else (all.filter fun e => !(wrote e.1 && Config.freeBool tick (2 ^ 51 + e.1))).map fun e =>
    (e.1, [e.2.getD (Config.freeNat tick e.1 % e.2.length) 0])

/-- The token of the lowest poisoned element at a real position, in row order (R269). -/
def MxOp.mstPoison (op : MxOp) (t : Team) : Option Word :=
  ((List.range 128).flatMap fun row => (List.range op.cols).map fun j => (row, j)).findSome? fun p =>
    if realPos op.recA (op.ldPos p.1 p.2) then (t.acc op.wide op.tile p.1 p.2).tok? else none

/-- The width code of a store of n bytes (Table 1.6). -/
def widCode (n : Nat) : Nat := if n == 1 then 0 else if n == 2 then 1 else if n == 4 then 2 else if n == 8 then 3 else 4

/-- One band of mst: performed, or buffered by a team that buffers its effects (R269, R354). -/
def mstBand (s : State) (op : MxOp) : State × Except MxStop Flags :=
  let who := op.who s
  match if op.bands == 0 then op.mstPoison (teamOf s op.team) else none with
  | some tok => (s, .error (.failed 0x12 (some tok)))
  | none =>
    match viewFor s who op.recA with
    | .error c => (s, .error (.failed c none))
    | .ok sid =>
      let w := op.mstWrites s sid
      match mstStops who s w.1 with
      | (t, some e) => (t, .error e)
      | (_, none) =>
        let before := (List.range op.bands).flatMap fun b => ({ op with bands := b }.mstWrites s sid).1
        let ws := settleBytes s.tick before w.1
        let t := teamOf s op.team
        let out := ws.filter fun a => t.buffers && leavesCore s who a.1 a.2.length
        let here := ws.filter fun a => !(t.buffers && leavesCore s who a.1 a.2.length)
        if t.overflows (out.map fun a => a.2.length) then (s, .error .wait)
        else
          let items := out.map fun a => ({ group := 32, thread := 0, eff := .write a.1 a.2 .plain .grp .normal } : Item)
          let feed := fun (th : Thread) =>
            out.foldl (fun c a => crcFeed c (feedWrite (widCode a.2.length) a.1 a.2)) th.sig.toNat
          let s1 := if out.isEmpty then s
            else modGroup (modTeam s op.team fun t => { t with items := t.items ++ items }) op.team 32 fun g =>
              g.modThreads [0] fun th => { th with sig := BitVec.ofNat 64 (feed th) }
          match here.foldl (fun (u : State × Nat) a =>
              match writeVa u.1 who a.1 a.2 .nl1 with
              | (v, k) => (v, if u.2 == 0 then k else u.2)) (s1, 0) with
          | (u, 0) => (u, .ok w.2)
          | (u, k) => (u, .error (.failed k none))

/-! ## One step of an operation -/

/-- What a step of an operation gives. -/
inductive MxRes
  | running (op : MxOp)
  | done (op : MxOp)
  | stop (op : MxOp) (why : MxStop)
deriving DecidableEq, Repr

/-- The operation with flags gathered (R109). -/
def MxOp.gather (op : MxOp) (f : Flags) : MxOp := { op with flags := op.flags ||| f.bits }

/-- After a band: the next band, the next chunk, or the end of the bands. -/
def MxOp.nextBand (op : MxOp) : MxOp :=
  if op.bands == 7 then { op with bands := 0, chunk := op.chunk + 1, bdata := none } else { op with bands := op.bands + 1 }

/-- One band of mma or mmas, with the chunk's B before its first band (R259, R266). -/
def mmaBand (s : State) (op : MxOp) : State × MxRes :=
  let b := match op.bdata with
    | some bs => (s, Except.ok bs)
    | none => readB s op
  match b with
  | (t, .error e) => (t, .stop op e)
  | (t, .ok bs) =>
    let t1 := if op.bdata.isNone then modTeam t op.team (op.poisonB bs) else t
    match readARows op t1 (bandRows op.bands) with
    | (u, .error e) => (u, .stop { op with bdata := if op.bdata.isNone && op.spec then none else op.bdata } e)
    | (u, .ok rows) =>
      let r := rows.foldl (fun (acc : Team × Flags) row =>
        let x := op.applyRow bs acc.1 row.1 row.2
        (x.1, acc.2.or x.2)) (teamOf u op.team, ({} : Flags))
      (setTeam u op.team r.1, .running ({ op with bdata := some bs }.gather r.2).nextBand)

/-- The outlier phase, all or nothing (R259, R262). -/
def outlierPhase (s : State) (op : MxOp) : State × MxRes :=
  match readOutliers op (op.who s) s (List.range (tDim op.recO 0)) with
  | (t, .error e) => (t, .stop op e)
  | (t, .ok es) =>
    match readEntryRows op t (es.filter fun e => decide (e.2.2 < 128) && decide (e.2.1 < op.k)) with
    | (u, .error e) => (u, .stop op e)
    | (u, .ok rows) =>
      let r := rows.foldl (fun (acc : Team × Flags) e =>
        let x := op.applyEntry acc.1 e.1 e.2.1 e.2.2
        (x.1, acc.2.or x.2)) (teamOf u op.team, ({} : Flags))
      (setTeam u op.team r.1, .done (op.gather r.2))

/-- The elements of an operation's tiles. -/
def MxOp.elems (op : MxOp) : List (Nat × Nat) := (List.range 128).flatMap fun row => (List.range op.cols).map fun j => (row, j)

/-- One step of an operation at the head of its engine (R256, R259). -/
def mxStep (s : State) (op : MxOp) : State × MxRes :=
  match op.allBad with
  | some c => (modTeam s op.team fun t => op.elems.foldl (fun t p => op.poisonElem c t p.1 p.2) t, .done op)
  | none =>
    match op.kind with
    | .mzero => (modTeam s op.team fun t => op.elems.foldl (fun t p => t.setAcc32 op.tile p.1 p.2 (.ok 0)) t, .done op)
    | .mld =>
      match mldBand s op with
      | (t, .error e) => (t, .stop op e)
      | (t, .ok f) =>
        let o := op.gather f
        (t, if op.bands == 7 then .done { o with bands := 0 } else .running { o with bands := op.bands + 1 })
    | .mst =>
      match mstBand s op with
      | (t, .error e) => (t, .stop op e)
      | (t, .ok f) =>
        let o := op.gather f
        (t, if op.bands == 7 then .done { o with bands := 0 } else .running { o with bands := op.bands + 1 })
    | _ =>
      if op.chunk < op.chunks then
        match mmaBand s op with
        | (t, .running o) => (t, if o.chunks ≤ o.chunk && !o.outliers then .done o else .running o)
        | r => r
      else if op.outliers then outlierPhase s op
      else (s, .done op)

/-! ## Ends (R109, R258, R260) -/

/-- The handle of an operation takes a status, and its flags go to the issuing group. -/
def endMx (s : State) (op : MxOp) (status code state : Nat) (flags : Bool) : State :=
  let s1 := modTeam s op.team fun t => (t.endRace op).completeHandle op.entry op.seq status code
  let s2 := if flags then modGroup s1 op.team 32 fun g => { g with fflags := g.fflags ||| op.flags } else s1
  setProgress s2 op (progressVal op.chunk op.bands code state)

/-- An operation stops for a reason (Table 15.4). -/
def stopMx (s : State) (id : Nat) (op : MxOp) (why : MxStop) : State :=
  match why with
  | .wait => s
  | .failed code tok =>
    let s1 := endMx { s with mxops := merase id s.mxops } op 3 code 5 true
    match tok with
    | none => s1
    | some t => modTeam s1 op.team fun x =>
        { x with handles := mmod op.entry (fun e => if e.seq == op.seq then { e with raise := some (t, op.pc) } else e) x.handles }
  | .faulted code va tr kind =>
    let core := (teamOf s op.team).core
    if !faultRoom s core op.cid va then s
    else
      let s1 := openFault s core op.cid op.icn va code kind.code tr.lvl tr.mal false false
      let s2 := endMx s1 op 1 code 2 true
      { s2 with mxops := mput id { op with faulted := some code, blocked := some va, bdata := none, flags := 0 } s2.mxops }

/-- May an operation run: its team is on its core, and no open entry blocks it (R267, R272)? -/
def mxRuns (s : State) (op : MxOp) : Bool :=
  (teamOf s op.team).loc == .resident && op.faulted.isNone &&
  (match op.blocked with
    | some va => (faultEntry s (teamOf s op.team).core op.cid va).isNone
    | none => true)

/-- Has hcancel asked an operation to stop? -/
def mxCancelled (s : State) (op : MxOp) : Bool :=
  match mfind op.entry (teamOf s op.team).handles with
  | some e => e.seq == op.seq && e.cancel
  | none => false

/-- The operation at the head of a core's engine (R256). -/
def mxHead (s : State) (core : Nat) : Option (Nat × MxOp) := (acceptedOn s core).head?

/-- The tiles of a team before a step of its engine are noted for the accesses that race with its operations (R263). -/
def noteTiles (s : State) (tid : Nat) (old : Map (PV Word)) : State :=
  let t := teamOf s tid
  if t.races.isEmpty || t.tiles == old then s
  else
    modTeam s tid fun t =>
      { t with races := t.races.map fun x => if x.running then { x with past := x.past ++ [old] } else x }

/-- What the head of an engine does next: nothing, a stop, or progress. -/
inductive MxNext
  | none
  | stop (s : State)
  | go (s : State)
deriving DecidableEq, Repr

/-- One step of a core's engine. -/
def mxAdvance (s : State) (core : Nat) : MxNext :=
  match (acceptedOn s core).find? fun e => mxCancelled s e.2 && (teamOf s e.2.team).loc == .resident with
  | some (id, op) => .stop (endMx { s with mxops := merase id s.mxops } op 2 0 4 false)
  | none =>
    match mxHead s core with
    | none => .none
    | some (id, op) =>
      if !mxRuns s op then .none
      else
        match op.failed with
        | some c => .stop (stopMx s id op (.failed c none))
        | none =>
          let old := (teamOf s op.team).tiles
          match (fun (r : State × MxRes) => (noteTiles r.1 op.team old, r.2)) (mxStep s { op with blocked := none }) with
          | (t, .running o) => .go (setProgress { t with mxops := mput id o t.mxops } o (progressVal o.chunk o.bands 0 1))
          | (t, .done o) => .go (endMx { t with mxops := merase id t.mxops } o 0 0 3 true)
          | (_, .stop _ .wait) => .none
          | (t, .stop o e) => .stop (stopMx t id o e)

/-- MATRIX_OP_COMPLETE: the operation at the head of a core's engine works through its next band or phase, and its
handle completes after the last (R256, R259, R266). -/
def execMatrixOpComplete (core : Nat) (s : State) : Out := .next <|
  match mxAdvance s core with
  | .go t => t
  | _ => s

/-- MATRIX_OP_STOP: the operation at the head of a core's engine stops at a band boundary: a failed read, or hcancel
(R260, R272). -/
def execMatrixOpStop (core : Nat) (s : State) : Out := .next <|
  match mxAdvance s core with
  | .stop t => t
  | _ => s

/-! ## Lease grants (R255) -/

/-- The effective priority of a team's instance (R129). -/
def eprioOf (s : State) (tid : Nat) : Nat :=
  match mfind (teamOf s tid).bind.ticket s.insts with
  | some i => i.eprio
  | none => 0

/-- The requester to grant: the highest priority, then round-robin in MSLOT order after the last grantee. -/
def nextLease (s : State) (core : Nat) : Option (Nat × Nat) :=
  let c := coreOf s core
  let asks := c.asking.filter fun a => (teamOf s a.1).loc == .resident
  let top := asks.foldl (fun m a => max m (eprioOf s a.1)) 0
  let dist := fun (a : Nat × Nat) => ((teamOf s a.1).bind.mslot + 16 - (c.lastLease + 1) % 16) % 16
  (asks.filter fun a => eprioOf s a.1 == top).foldl (fun b a =>
    match b with
    | none => some a
    | some x => if dist a < dist x then some a else some x) none

/-- LEASE_GRANT: the next lease is granted once the engine has no holder; a waiting mlease then completes (R255, R265). -/
def execLeaseGrant (core : Nat) (s : State) : Out := .next <|
  if (coreOf s core).holder.isSome then s
  else
    match nextLease s core with
    | none => s
    | some (tid, n) =>
      let s1 := grantLease s tid n
      modGroup s1 tid 32 fun g =>
        match (g.livePaths.head?).map fun p => (p, g.waitOf p) with
        | some (p, .lease (some (a, m))) =>
          let g1 := g.putS a m
          (((g1.countIssue p).setWait p .none).pass p (g.pathLanes p) (g.thread 0).pc 8).settle.notePast g (g.pathLanes p)
        | some (p, .lease none) => { g with paths := mmod p (fun x => { x with wait := .none }) g.paths }
        | _ => g

end Sys2Proof.Machine
end

