-- ==== Sys2Proof/Machine/Commit.lean ====
section
/-!
DEFINITION. Commits of paired and contained teams (19_faults.md R352 to R357): the twins, the compare, the items
performed, and what a mismatch does.
-/

namespace Sys2Proof.Machine

open Sys2Proof

/-! ## Performing items (R354, R355) -/

/-- A write at commit that fails a check: a failed translation opens a fault-queue entry where one is free (R222), and its
code reaches the group late, as that of a denied write does (R57, log 85). -/
def commitFail (s : State) (who : Who) (group va : Nat) (c : Check) (k : Kind) (wb : Bool) : State :=
  let s1 := noteTranslation s who va c
  match c with
  | .bad code tr =>
    let s2 := match tr with
      | some e => if faultRoom s1 who.core who.cid va then
          openFault s1 who.core who.cid who.icn va code k.code e.lvl e.mal wb false
        else s1
      | none => s1
    (bothCopies s who.team).foldl (fun u n => reportIf u n group code) s2
  | _ => s1

/-- A write at commit, in copy 0 and, where it passes through a stash window, in the window of each copy. -/
def commitWrite (s : State) (who : Who) (group : Nat) (va : Nat) (bs : List Byte) (ord : MemOrd) (sc : Scope) (hint : Hint) : State :=
  let s1 := if MemOrd.releases ord then release s who sc else s
  match checkAccess s1 who va bs.length .write with
  | .ok p =>
    (match writePlace (noteTranslation s1 who va (.ok p)) who p bs hint with
      | (t, 0) => mirrorThrough t who.team p bs
      | (t, code) => (bothCopies s who.team).foldl (fun u k => reportIf u k group code) t)
  | c => commitFail s1 who group va c .write false

/-- A dirty stash line at commit: its bytes are written with write permission (R187). -/
def commitBack (s : State) (who : Who) (group va : Nat) (bs : List (Nat × Byte)) : State :=
  match checkGlobal s who va 128 .write with
  | .ok p =>
    (match putLine (noteTranslation s who va (.ok p)) who p bs with
      | (t, code) => (bothCopies s who.team).foldl (fun u k => reportIf u k group code) t)
  | c => commitFail s who group (va + bs.foldl (fun m b => min m b.1) 127) c .write true

/-- A copy engine operation at commit: once, completing the handles and reporting to the barriers of both copies; one whose
destination lies in the core in each copy, for itself (R236). -/
def commitCopy (s : State) (c : CopyOp) (twin : Option CopyOp) : State :=
  match twin with
  | none => enqueueCopy s c
  | some d =>
    let own := c.kind != .stamp && c.lanes.any fun l => withinCore l.dst.2
    let mark := fun (ls : List LaneCopy) => ls.map fun l => { l with own := own }
    let s1 := enqueueCopy s { c with handles := c.handles ++ d.handles, twinBar := d.bar, twinSeq := some d.seq, lanes := mark c.lanes }
    if own then enqueueCopy s1 { d with lanes := mark d.lanes } else s1

/-- Perform an item of copy 0, with the item of its twin where the team is paired. -/
def performItem (s : State) (tid : Nat) (i : Item) (twin : Option Item) : State :=
  let who := { whoCore s tid with group := some i.group, threads := [threadKey tid i.group i.thread] }
  match i.eff with
  | .write va bs ord sc hint => commitWrite s who i.group va bs ord sc hint
  | .red va w op val ord sc =>
    let s1 := acquireIf (if MemOrd.releases ord then release s who sc else s) who ord sc
    (match checkAccess s1 who va w .atomic with
      | .ok p =>
        (match atomicPlace (noteTranslation s1 who va (.ok p)) who p w op val 0 with
          | (t, .old ..) => t
          | (t, .report c) => (bothCopies s tid).foldl (fun u k => reportIf u k i.group c) t)
      | c => commitFail s1 who i.group va c .atomic false)
  | .back va bs => commitBack s who i.group va bs
  | .copy c =>
    commitCopy s c (twin.bind fun j => match j.eff with
      | .copy d => some d
      | _ => none)
  | .push p => { s with pushes := mput s.nextId p s.pushes, nextId := s.nextId + 1 }
  | .tid n ws valid => tidWrite s (coreMaster who.core) who.cid who.icn n ws valid
  | .surface o => { s with sfops := mput s.nextId o s.sfops, nextId := s.nextId + 1 }
  | .decl slot tag size rank => performDecl s tid slot tag size rank
  | .coll slot q rank tag p =>
    let hs := match twin with
      | some j => (match j.eff with
        | .coll _ _ _ _ d => d.handles
        | _ => [])
      | none => []
    performColl s tid slot rank q tag { p with handles := p.handles ++ hs }

/-- The items of a thread in their order. -/
def Team.itemsOf (t : Team) (group lane : Nat) : List Item := t.items.filter fun i => i.group == group && i.thread == lane

/-- Perform the items of lanes of a group, the lowest thread first. -/
def performLanes (s : State) (tid : Nat) (twin : Option Nat) (group : Nat) (lanes : List Nat) : State :=
  lanes.foldl (fun t l =>
    let mine := (teamOf s tid).itemsOf group l
    let others := match twin with
      | some k => ((teamOf s k).itemsOf group l).map some
      | none => []
    (mine.mapIdx fun j i => (i, others.getD j none)).foldl (fun u p => performItem u tid p.1 p.2) t) s

/-! ## Twins (R355) -/

/-- Does an item have to wait for its place: a link in Recovery, or a frozen bus? -/
def itemWaits (s : State) (tid : Nat) (i : Item) : Bool :=
  let who := { whoCore s tid with group := some i.group }
  let waits := fun (c : Check) => match c with
    | .wait _ => true
    | _ => false
  match i.eff with
  | .write va bs .. => waits (checkAccess s who va bs.length .write)
  | .red va w .. => waits (checkAccess s who va w .atomic)
  | .back va _ => waits (checkGlobal s who va 128 .write)
  | _ => false

/-- The commit that a path waits for, if it waits for one. -/
def Group.commitOf (g : Group) (path : Nat) : Option Nat :=
  match g.waitOf path with
  | .twin n => some n
  | _ => none

/-- The lanes of a group that stand on paths with any of the lanes. -/
def Group.siblings (g : Group) (lanes : List Nat) : List Nat :=
  g.liveLanes.filter fun l => lanes.any fun k => !(g.thread k).exited && (g.thread k).path == (g.thread l).path

/-- The lanes that commit together: the lanes of the path, and of every path in either copy that shares a lane with
them. -/
def commitLanes (a b : Group) (n : Nat) (lanes : List Nat) : List Nat :=
  match n with
  | 0 => lanes
  | n + 1 =>
    let more := (a.siblings lanes ++ b.siblings lanes).foldl (fun ls l => insertNat l ls) lanes
    if more == lanes then lanes else commitLanes a b n more

/-- The TREC that a lane has reached: region counts its own (R341). -/
def Group.reached (g : Group) (l : Nat) : Nat :=
  (g.thread l).trec + (if g.commitOf (g.thread l).path == some 1 then 1 else 0)

/-- Has the matrix thread operations that may still buffer items? -/
def matrixBusy (s : State) (tid group : Nat) : Bool := group == 32 && s.mxops.any fun o => o.2.team == tid && o.2.kind == .mst

/-- Do the lanes of both copies wait for a commit at the same TREC? -/
def twinsMeet (s : State) (tid group : Nat) (lanes : List Nat) : Bool :=
  let a := (teamOf s tid).group group
  let b := (teamOf s (twinOf tid)).group group
  lanes.all (fun l =>
    !(a.thread l).exited && !(b.thread l).exited && !(a.thread l).held && !(b.thread l).held &&
    (a.commitOf (a.thread l).path).isSome && (b.commitOf (b.thread l).path).isSome && a.reached l == b.reached l) &&
  !matrixBusy s tid group && !matrixBusy s (twinOf tid) group

/-- After a commit the lanes' items are gone from the buffer, their signatures start again, and their paths issue. A
commit at an overflow has committed part of a region (R356). -/
def commitEnd (s : State) (tid group : Nat) (lanes : List Nat) : State :=
  modTeam s tid fun t =>
    { t with
      items := t.items.filter fun i => !(i.group == group && lanes.contains i.thread)
      groups := mmod group (fun g =>
        let ps := lanes.foldl (fun ps l => insertNat (g.thread l).path ps) []
        let part := ps.any fun p => g.commitOf p == some 0 || (g.commitOf p).isNone
        let g1 := g.modThreads lanes fun x => { x with sig := BitVec.allOnes 64 }
        { g1 with
          partly := g.partly || part
          paths := g1.paths.map fun p => if ps.contains p.1 && (g.commitOf p.1).isSome then (p.1, { p.2 with wait := .none, committed := true }) else p })
        t.groups }

/-! ## Mismatches (R356) -/

/-- A mismatch in a group: both copies restart it; the second at the same TREC, one in a region partly committed, or in
a group that cannot restart relaunches the team, or ends it as the fourth relaunch would (R350, R357). -/
def mismatch (s : State) (tid group : Nat) : State :=
  let both := bothCopies s tid
  let g := (teamOf s tid).group group
  let trec := match g.liveLanes with
    | l :: _ => (g.thread l).trec
    | [] => 0
  let count := if g.mismatch.1 == trec then g.mismatch.2 + 1 else 1
  let stuck := g.partly || 2 ≤ count || both.any fun k => !((teamOf s k).group group).restartable
  if stuck then
    match g.livePaths with
    | p :: _ => asPath s tid group p 4 fun r => r.consume r.s { code := 0x15 } 0x15
    | [] => s
  else
    both.foldl (fun t k =>
      modTeam t k fun x =>
        { x with
          items := x.items.filter fun i => i.group != group
          groups := mmod group (fun y => { y.restart with mismatch := (trec, count) }) x.groups }) s

/-! ## Steps -/

/-- Does an mst of the team wait for room in the store buffer (R356)? -/
def mstOverflow (s : State) (tid : Nat) : Bool :=
  let t := teamOf s tid
  !t.items.isEmpty &&
  (match mxHead s t.core with
    | some (_, o) => o.team == tid && o.kind == .mst && mxRuns s o && (match (mstBand s o).2 with
        | .error .wait => true
        | _ => false)
    | none => false)

/-- The lanes that commit with a path, if it may commit now; the matrix thread also commits where its mst waits for
room. -/
def commitSet (s : State) (team group path : Nat) : Option (List Nat) :=
  let t := teamOf s team
  let g := t.group group
  if !teamRuns s team t then none
  else if group == 32 && mstOverflow s team && (!t.paired || mstOverflow s (twinOf team)) then some [0]
  else if (g.commitOf path).isNone then none
  else if t.paired then
    let ls := commitLanes g ((teamOf s (twinOf team)).group group) 32 (g.pathLanes path)
    if twinsMeet s team group ls && !ls.isEmpty then some ls else none
  else if matrixBusy s team group then none
  else some (g.pathLanes path)

/-- REGION_COMMIT: the twins of a path have met at the same TREC. Where every pair of signatures is equal, copy 0
performs the items and both copies go on; where one differs, both restart (R355, R356). A contained team commits
without a compare (R352). -/
def execRegionCommit (team group path : Nat) (s : State) : Out := .next <|
  match commitSet s team group path with
  | none => s
  | some ls =>
    let t := teamOf s team
    if (teamOf s (if t.paired then copy0 team else team)).items.any fun i =>
        i.group == group && ls.contains i.thread && itemWaits s (if t.paired then copy0 team else team) i then s
    else
    if !t.paired then commitEnd (performLanes s team none group ls) team group ls
    else
      let c0 := copy0 team
      let c1 := c0 + copyOne
      let a := (teamOf s c0).group group
      let b := (teamOf s c1).group group
      if ls.all fun l => (a.thread l).sig == (b.thread l).sig then
        commitEnd (commitEnd (performLanes s c0 (some c1) group ls) c0 group ls) c1 group ls
      else mismatch s c0 group

/-- WATCHDOG_EXPIRY: the count of a group has reached its limit: Fault(0x14) at its oldest waiting instruction, or a
mismatch where that is a commit of a paired team (R356, R359). -/
def execWatchdogExpiry (team group : Nat) (s : State) : Out := .next <|
  if !watchdogRuns s team group then s
  else
    let g := (teamOf s team).group group
    match watchdogPath s g with
    | none => s
    | some p =>
      if (teamOf s team).paired && (g.commitOf p).isSome then mismatch s (copy0 team) group
      else watchdogFault s team group p

end Sys2Proof.Machine
end

