-- ==== Sys2Proof/Machine/ContextEv.lean ====
section
/-!
DEFINITION. The context hardware (02_contexts.md R41 to R60): CTXCMD, incarnation updates and their acknowledgements,
QUIET, and the ends of opens, kills and reclaims.
-/

namespace Sys2Proof.Machine

open Sys2Proof

/-! ## CTXCMD (R43) -/

/-- The target number of the PCIe bridge (Table 20.16). -/
def bridgeTarget : Nat := 120

/-- A host write that is refused: counted at the bridge and logged (R373, R374). -/
def refuseHost (s : State) (off value : Nat) : State :=
  logError (countOrphan s bridgeTarget) { kind := 4, addr := off, detail := value }

/-- Any host request restarts the tracking of the debug window's line (R363). -/
def hostTouch (s : State) (host : Bool) : State := if host then { s with hostLine := none } else s

/-- Does the management core, or the package, no longer act (R369, R374)? -/
def halted (s : State) : Bool := bitB s.ctl.bootstat 1 || s.ctl.fatal

/-- A value written to CTXCMD with GO = 1 (Table 2.10). -/
def cmdWord (op cid ien vec : Nat) : Nat :=
  2 ^ 63 + op % 8 * 2 ^ 56 + cid % 1024 * 2 ^ 32 + ien % 2 * 2 ^ 31 + vec % 2048 * 2 ^ 20

/-- Change CTXCMD. -/
def modCmd (s : State) (f : CtxCmd → CtxCmd) : State := { s with ctl := { s.ctl with ctxcmd := f s.ctl.ctxcmd } }

/-- The command under way has its result, which CTXCMD_COMPLETE will write. -/
def endCmd (s : State) (word : Nat) : State := modCmd s fun c => { c with ended := some word, waiting := false }

/-- May the writer start the command (R43)? The host only in host-assisted mode, or for a CID whose kills it serves. -/
def cmdAllowed (s : State) (op cid : Nat) (host : Bool) : Bool :=
  !host || (if op == 1 then bitB s.ctl.hmode 0 else 2 ≤ op && op ≤ 4 && bitB (ctxOf s cid).flags 2)

/-- Every surface of a context becomes FREE and its tiles are discarded (R273). -/
def freeSurfaces (s : State) (cid : Nat) : State :=
  let base := s.ctl.sfbase + cid * 0x10000
  { s with
    mem := s.mem.filter fun e => !(decide (base ≤ e.1) && decide (e.1 < base + 0x10000) && (e.1 - base) % 64 == 0x28)
    tiles := s.tiles.filter fun e => tileKeyCid e.1 != cid
    surf := s.surf.filter fun e => e.1 / 2 ^ 44 / 1024 != cid
    surfBad := s.surfBad.filter fun k => k / 2 ^ 44 / 1024 != cid
    surfPast := s.surfPast.filter fun e => e.1 / 2 ^ 44 / 1024 != cid }

/-- The open of R42: the ICN advances and is broadcast LIVE; identifiers are invalid and surfaces FREE (R237, R273). -/
def startOpen (s : State) (cid : Nat) : State :=
  let c := ctxOf s cid
  let icn := (c.icn + 1) % 256
  let s1 := freeSurfaces (clearIdentifiers (setCtx s cid { c with icn := icn }) cid) cid
  addOp (broadcast s1 cid icn true) cid { kind := 1, cmd := true }

/-- The command in CTXCMD takes its place among the events of its CID (R51). -/
def runCmd (s : State) : State :=
  let c := s.ctl.ctxcmd
  let s0 := modCmd s fun c => { c with waiting := false }
  if c.cid == 0 then endCmd s0 (ctxWord 3 0 0)
  else if inTransition s c.cid then modCmd s fun c => { c with waiting := true }
  else if c.op == 1 then
    if (ctxOf s c.cid).state != 0 then endCmd s0 (ctxResult s c.cid 1) else startOpen s0 c.cid
  else if c.op == 4 then
    match reclaimStep s c.cid with
    | .answer st => endCmd s0 (ctxResult s c.cid st)
    | _ => addOp s0 c.cid { kind := 3, cmd := true }
  else
    match killStep s c.cid with
    | .answer st => endCmd s0 (ctxResult s c.cid st)
    | _ => startKill s0 c.cid (c.op == 3) { kind := 2, cmd := true }

/-- A write of GO = 1 with a command (R43): ignored while GO reads 1 or where the writer may not start it, and counted
then if the host made it. -/
def startCmd (s : State) (op cid ien vec : Nat) (host : Bool) : State :=
  if halted s then s
  else if s.ctl.ctxcmd.go then (if host then countOrphan s bridgeTarget else s)
  else if !cmdAllowed s op (cid % 1024) host then refuseHost s 0x40 (cmdWord op cid ien vec)
  else
    runCmd (modCmd s fun c =>
      { c with go := true, op := op, cid := cid % 1024, ien := ien % 2 == 1, vec := vec % 2048 })

/-- CTXCMD_OPEN (R42). -/
def execCtxcmdOpen (cid ien vec : Nat) (host : Bool) (s : State) : Out := .next <| startCmd (hostTouch s host) 1 cid ien vec host
/-- CTXCMD_KILL (R43). -/
def execCtxcmdKill (cid ien vec : Nat) (host : Bool) (s : State) : Out := .next <| startCmd (hostTouch s host) 2 cid ien vec host
/-- CTXCMD_KILLRETIRE (R43). -/
def execCtxcmdKillretire (cid ien vec : Nat) (host : Bool) (s : State) : Out := .next <| startCmd (hostTouch s host) 3 cid ien vec host
/-- CTXCMD_RECLAIM (R43). -/
def execCtxcmdReclaim (cid ien vec : Nat) (host : Bool) (s : State) : Out := .next <| startCmd (hostTouch s host) 4 cid ien vec host

/-- CTXCMD_RESERVED: `cmd` holds OP in bits 2:0 and the reserved fields above it. A reserved field reports BADCID, a
reserved OP reports BADOP, and neither changes a context (R43). -/
def execCtxcmdReserved (cmd cid ien vec : Nat) (host : Bool) (s0 : State) : Out := .next <|
  let s := hostTouch s0 host
  let op := cmd % 8
  if halted s || (cmd / 8 == 0 && 1 ≤ op && op ≤ 4) then s
  else if s.ctl.ctxcmd.go then (if host then countOrphan s bridgeTarget else s)
  else if !cmdAllowed s op (cid % 1024) host then refuseHost s 0x40 (cmdWord op cid ien vec)
  else
    endCmd (modCmd s fun c =>
      { c with go := true, op := op, cid := cid % 1024, ien := ien % 2 == 1, vec := vec % 2048 })
      (if cmd / 8 != 0 then ctxWord 5 0 0 else ctxResult s (cid % 1024) 6)

/-- CTXCMD_COMPLETE: RESULT is written and GO clears together, and the vector is sent if IEN was set (R43). -/
def execCtxcmdComplete (cid : Nat) (s : State) : Out := .next <|
  let c := s.ctl.ctxcmd
  match c.ended with
  | none => s
  | some w =>
    if c.cid != cid then s
    else
      let s1 := modCmd s fun c => { c with go := false, result := w, ended := none }
      if c.ien then sendIrq s1 c.vec else s1

/-! ## The ends of operations -/

/-- An operation ends with a status: its instruction takes the result and passes, or its command has its result (R43,
R59). -/
def answerOp (s : State) (cid status : Nat) (o : CtxOp) : State :=
  let w := ctxResult s cid status
  let s1 := match o.reg with
    | some (team, group, path, a) => asPath s team group path 4 fun r => r.answerCtx a w
    | none => s
  if o.cmd then endCmd s1 w else s1

/-- A waiting command starts once the event it waited for has ended (R51). -/
def startWaiting (s : State) : State := if s.ctl.ctxcmd.waiting then runCmd s else s

/-- The operations of some kinds end: the rest stay, and each that ends is answered. -/
def endOps (s : State) (cid : Nat) (done : CtxOp → Bool) : State :=
  let ops := opsOf s cid
  let s1 := { s with ctxOps := mset [] cid (ops.filter fun o => !done o) s.ctxOps }
  startWaiting ((ops.filter done).foldl (fun t o => answerOp t cid 0 o) s1)

/-- The last acknowledgement of a CID's update has arrived: an open or reclaim makes it LIVE, a kill takes its other steps
and counts in KILLS (R42, R52, R60). -/
def acksIn (s : State) (cid : Nat) : State :=
  let c := ctxOf s cid
  if inTransition s cid then endOps (setCtx s cid { c with state := 1 }) cid fun o => o.kind == 1 || o.kind == 4
  else if (opsOf s cid).any fun o => o.kind == 2 then
    endOps (killSteps (setCtx s cid { c with kills := min (2 ^ 64 - 1) (c.kills + 1) }) cid) cid fun o => o.kind == 2
  else s

/-! ## Targets (R45, Table 2.2) -/

/-- The brick unit of a surface byte, by its key. -/
def brickOfKey (s : State) (key : Nat) : Nat := brickOf s (key / 2 ^ 44 / 1024) (key / 2 ^ 44 % 1024) (key % 2 ^ 44)

/-- Did a non-current incarnation of a CID make the writes that a note stands for? -/
def Past.stale (p : Past) (cid icn : Nat) : Bool := p.cid == cid && p.icn != icn

/-- Does a target hold something of a non-current incarnation of a CID (Table 2.2)? A slice holds the bytes that it wrote,
and a brick unit those of surfaces. -/
def holdsOld (s : State) (target cid icn : Nat) : Bool :=
  let old := fun (c i : Nat) => c == cid && i != icn
  (s.requests.any fun r => old r.2.cid r.2.icn && (r.2.target == target || 256 + r.2.core == target)) ||
  (s.responses.any fun r => old r.2.cid r.2.icn && 256 + r.2.core == target) ||
  (s.l1.any fun e => 256 + e.1 / 2 ^ 52 == target && e.2.dirty && old e.2.cid e.2.icn) ||
  (s.past.any fun p => Past.stale p.2 cid icn && sliceOf p.1 == target) ||
  (s.surfPast.any fun p => Past.stale p.2 cid icn && brickOfKey s p.1 == target)

/-- INCARNATION_UPDATE: the target applies the message, and its acknowledgement is on its way (R45). -/
def execIncarnationUpdate (id : Nat) (s : State) : Out := .next <|
  match mfind id s.updates with
  | none => s
  | some u =>
    if u.applied then s
    else
      { s with
        lit := mset {} (u.target * 1024 + u.cid)
          { quiet := !holdsOld s u.target u.cid u.icn, live := u.live, icn := u.icn } s.lit
        updates := mput id { u with applied := true } s.updates }

/-- INCARNATION_ACK: an acknowledgement arrives, and after the last of its CID the operation goes on (R42, R52,
R60). -/
def execIncarnationAck (id : Nat) (s : State) : Out := .next <|
  match mfind id s.updates with
  | none => s
  | some u =>
    if !u.applied then s
    else
      let s1 := { s with updates := merase id s.updates }
      if s1.updates.any fun e => e.2.cid == u.cid then s1 else acksIn s1 u.cid

/-- What a target does with the writes of old incarnations of a CID that it holds: each byte keeps what it holds, or what
it held before one of them (R53, R54); dirty bytes of a first-level cache go. -/
def dropOld (s : State) (target cid icn : Nat) : State :=
  let mem := s.past.filter fun p => Past.stale p.2 cid icn && sliceOf p.1 == target
  let tiles := s.surfPast.filter fun p => Past.stale p.2 cid icn && brickOfKey s p.1 == target
  let s1 := tiles.foldl (fun t p => revertSurf t p.1 p.2) (mem.foldl (fun t p => revertByte t p.1 p.2) s)
  { s1 with l1 := s1.l1.filter fun x => !(256 + x.1 / 2 ^ 52 == target && x.2.dirty && x.2.cid == cid && x.2.icn != icn) }

/-- CACHES_REPORT_QUIET: a target that has invalidated what the old incarnation left in it, and holds nothing else of
it, sets QUIET (R52 step 5, Table 2.2). -/
def execCachesReportQuiet (target cid : Nat) (s : State) : Out := .next <|
  let e := litOf s target cid
  let s1 := dropOld s target cid e.icn
  if e.quiet || holdsOld s1 target cid e.icn then s
  else { s1 with lit := mset {} (target * 1024 + cid) { e with quiet := true } s1.lit }

/-- May the waiting reclaims of a CID go on: no message of it is outstanding and every target is QUIET (R60)? -/
def reclaimReady (s : State) (cid : Nat) : Bool :=
  (opsOf s cid).any (fun o => o.kind == 3) && !(opsOf s cid).any (fun o => o.kind != 3) &&
  !(s.updates.any fun u => u.2.cid == cid) && allTargets.all fun t => (litOf s t cid).quiet

/-- RECLAIM_QUIET: every target is QUIET. A CLOSING context becomes CLOSED with its surfaces FREE (R273); a DRAINING
one is broadcast LIVE (R60). -/
def execReclaimQuiet (cid : Nat) (s : State) : Out := .next <|
  if !reclaimReady s cid then s
  else
    let c := ctxOf s cid
    if c.state == 3 then endOps (freeSurfaces (setCtx s cid { c with state := 0 }) cid) cid fun o => o.kind == 3
    else
      let s1 := { s with ctxOps := mset [] cid ((opsOf s cid).map fun o => { o with kind := 4 }) s.ctxOps }
      broadcast s1 cid c.icn true

end Sys2Proof.Machine
end

