-- ==== Sys2Proof/Machine/Footing.lean ====
section
/-!
DEFINITION. The vertical queue at issue (17_footing.md R292 to R298, R306 to R313): vqpush, rsbind, vqfence, tex,
texg, texq and trace.
-/

namespace Sys2Proof.Machine

open Sys2Proof

/-! ## The queue (R292) -/

/-- Is an item of a store buffer a push or a bind? -/
def Item.isPush (i : Item) : Bool :=
  match i.eff with
  | .push _ => true
  | _ => false

/-- Is an entry free: 32 per core, 8 per group? A push in a store buffer holds the entry it took at issue (R354). -/
def Run.vqRoom (r : Run) : Bool :=
  let kept := (r.s.teams.filter fun t => t.2.core == r.t.core).flatMap fun t =>
    (t.2.items.filter Item.isPush).map fun i => (t.1, i.group)
  let tex := (r.s.texops.filter fun e => e.2.core == r.t.core).map fun e => (e.2.team, e.2.group)
  let push := (r.s.pushes.filter fun e => e.2.core == r.t.core).map fun e => (e.2.team, e.2.group)
  let all := tex ++ push ++ kept
  decide (all.length < 32) && decide ((all.filter fun e => e == (r.tid, r.gnum)).length < 8)

/-! ## Pushes and binds (R295, R298) -/

/-- The draw instance of a geometry team. -/
def Run.drawOf (r : Run) : Option Draw :=
  if bitB r.t.bind.tx 31 then none else (mfind r.t.bind.ticket r.s.insts).bind Inst.draw

/-- Is a path waiting for its push to leave the vertical queue? -/
def Wait.isPush : Wait → Bool
  | .pushed _ => true
  | _ => false

/-- vqpush and rsbind: the checks, the 64 bytes as they stand at issue, and the push on its way to the sequencer. The path
passes the instruction once its ordinal is below NEXT + 1024 (R296); then the push has left the queue. -/
def Run.push (r : Run) (i : Instr) (x : Std) (bind : Bool) : State :=
  if (r.g.waitOf r.path).isPush then r.done r.g
  else if !r.vqRoom then r.waitIn r.s .room
  else
    match firstTok [r.uB x.b 64, r.src x.c 64 0] with
    | some t => r.raise t
    | none =>
      match r.drawOf with
      | none => r.fault 0xB
      | some d =>
        let va := (r.uB x.b 64).val % 2 ^ 56
        let k := (r.src x.c 64 0).val % 2 ^ 32
        if va % 64 != 0 then r.fault 4 va
        else
          match r.readOwn r.s va 8 with
          | (t, .error (a, c)) => r.failAt t a c .read
          | (t, .ok ws) =>
            let p : Push := { team := r.tid, group := r.gnum, core := r.t.core, ticket := r.t.bind.ticket, ordinal := k
                              data := ofBytes (ws.flatMap fun w => toBytes 8 w.toNat), bind := bind }
            if r.t.buffers then
              if r.t.overflows [64] then r.waitIn r.s (.twin 0)
              else
                let b := r.buffer t r.g [(r.lanes.headD 0, .push p, feedOther 2 15 va i [va, k])]
                r.doneIn b.1 b.2
            else
              let u := { t with pushes := mput t.nextId p t.pushes, nextId := t.nextId + 1 }
              if d.next + 1024 ≤ k then r.waitIn u (.pushed t.nextId) else r.doneIn u r.g

/-- vqpush (R295). -/
def execVqpush (x : Std) (s : State) : Out := .next <| gate (.vqpush x) s fun r => r.push (.vqpush x) x false
/-- rsbind (R298). -/
def execRsbind (x : Std) (s : State) : Out := .next <| gate (.rsbind x) s fun r => r.push (.rsbind x) x true

/-! ## vqfence (R293) -/

/-- Has the group footing work that is not finished, in a store buffer or on its way (R293, R354)? -/
def groupFooting (s : State) (tid gnum : Nat) : Bool :=
  (s.sfops.any fun e => e.2.team == tid && e.2.group == gnum) ||
  (s.pushes.any fun e => e.2.team == tid && e.2.group == gnum) ||
  (s.texops.any fun e => e.2.team == tid && e.2.group == gnum) ||
  ((teamOf s tid).items.any fun i => i.group == gnum && (i.isPush || (match i.eff with
    | .surface _ => true
    | _ => false)))

/-- vqfence: the group's footing work is awaited; then a surface code that is recorded is taken (R288, R293). -/
def execVqfence (x : One) (s : State) : Out := .next <| gate (.vqfence x) s fun r =>
  if groupFooting r.s r.tid r.gnum then r.waitIn r.s .footing
  else
    let s1 := collectReports r.s r.tid r.gnum
    if (r.groupIn s1).reportCode == 5 then r.takeDeferred s1 false 5 else r.doneWith s1

/-! ## Texture descriptors (Table 17.8) -/

/-- KIND of a descriptor. -/
def texKindOf (d : Nat) : Nat := fieldAt d 9 1 % 4

/-- Does a descriptor break Table 17.8? -/
def texMalformed (d : Nat) : Bool :=
  let k := texKindOf d
  let base := fieldAt d 0 8
  let dim := fun (x m : Nat) => x == 0 || decide (m < x)
  decide (2 ^ 56 ≤ base) || (k == 2 && decide (1024 ≤ base)) || (k == 0 && base % 16 != 0) || k == 3 ||
  decide (4 ≤ fieldAt d 9 1) ||
  (k != 2 && (decide (10 < fieldAt d 8 1) || dim (fieldAt d 0xA 2) 16384 || dim (fieldAt d 0xC 2) 16384 || dim (fieldAt d 0xE 2) 2048)) ||
  dim (fieldAt d 0x10 1) 15 || (k != 0 && fieldAt d 0x10 1 != 1) || decide (8 ≤ fieldAt d 0x11 1) ||
  decide (16 ≤ fieldAt d 0x12 1) || fieldAt d 0x13 1 != 0 || fieldAt d 0x16 10 != 0

/-- The descriptor at an address: eight plain reads of four bytes by the path (R311). -/
def readDesc (s : State) (who : Who) (va : Nat) : List Nat → State × Except (Nat × Check) (List Byte)
  | [] => (s, .ok [])
  | i :: is =>
    let a := (va + 4 * i) % 2 ^ 56
    match checkAccess s who a 4 .read with
    | .ok p =>
      match readPlace (noteTranslation s who a (.ok p)) who p 4 with
      | (t, .report c) => (t, .error (a, .bad c none))
      | (t, .bytes bs) =>
        match readDesc t who va is with
        | (u, .ok cs) => (u, .ok (bs ++ cs))
        | e => e
    | c => (s, .error (a, c))

/-! ## tex, texg, texq, trace at issue (R309 to R311) -/

/-- Every active lane's result registers take a token. -/
def Run.tokens (r : Run) (a k : Nat) (tok : Nat → Word) : State := r.lanesV a k fun l => .bad (tok l)

/-- Put an operation into the vertical queue; its path waits for the results. -/
def Run.enqueueTex (r : Run) (s : State) (o : TexOp) : State :=
  r.waitIn { s with texops := mput s.nextId o s.texops, nextId := s.nextId + 1 } (.result s.nextId)

/-- An operation of the path, without its operands. -/
def Run.texOp (r : Run) (k : TexKind) (x : Std) : TexOp :=
  { team := r.tid, group := r.gnum, path := r.path, core := r.t.core, kind := k, a := x.a.toNat, spec := x.spec, f := x.f.toNat }

/-- The record of the identifier that a descriptor of kind 2 names, as the texture sampler reads it once at issue; or why
it has none (R239, R251). -/
def Run.imageTid (r : Run) (d : Nat) : State × Nat × Nat :=
  if texKindOf d != 2 then (r.s, 0, 0)
  else
    match r.tid_ (whoEngine r.s r.tid 3).master (fieldAt d 0 8) with
    | (t, .error c) => (t, 0, c)
    | (t, .ok none) => (t, 0, 1)
    | (t, .ok (some w)) => (t, w, 0)

/-- A sampling or query instruction: room, the descriptor, and the operands of the lanes; `k` registers of results. -/
def Run.texIssue (r : Run) (kind : TexKind) (x : Std) (k : Nat) (ops : Nat → List (PV Nat)) : State :=
  if r.act.isEmpty then r.done r.g
  else if !r.vqRoom then r.waitIn r.s .room
  else
    match r.src x.c 64 0 with
    | .bad t => r.tokens x.a.toNat k fun _ => t
    | .ok v =>
      let va := v % 2 ^ 56
      let spec := fun (s : State) (c : Nat) =>
        Run.tokens { r with s := s } x.a.toNat k fun l => mkToken c l false false r.pc
      if va % 32 != 0 then (if x.spec then spec r.s 4 else r.fault 4 va)
      else
        match readDesc r.s r.who va (List.range 8) with
        | (t, .error (a, .bad c tr)) => if x.spec then spec t c else r.failAt t a (.bad c tr) .read
        | (t, .error (a, c)) => r.failAt t a c .read
        | (t, .ok bs) =>
          let d := ofBytes (r.overlay r.act va bs)
          if texMalformed d then (if x.spec then spec t 0xB else r.faultIn t { code := 0xB, addr := va })
          else
            let i := ({ r with s := t }).imageTid d
            r.enqueueTex i.1 { r.texOp kind x with
              desc := d
              rec_ := i.2.1
              recCode := i.2.2
              lanes := r.act.map fun l =>
                let os := ops l
                (l, match firstTok os with
                  | some tok => .bad tok
                  | none => .ok (os.map PV.val)) }

/-- u, v and the layer of a lane. -/
def Run.coords (r : Run) (x : Std) (l : Nat) : List (PV Nat) :=
  (List.range 3).map fun i => r.g.readV (x.b.toNat + i) l 1

/-- tex: the lane's coordinates, then u and v of the quad's lanes 1, 2 and 0 (R308, R311). -/
def execTex (x : Std) (s : State) : Out := .next <| gate (.tex x) s fun r =>
  r.texIssue .tex x 4 fun l =>
    let q := l / 4 * 4
    let at_ := fun (j : Nat) =>
      [r.g.acrossV r.s.tick r.lanes x.b.toNat j 1, r.g.acrossV r.s.tick r.lanes (x.b.toNat + 1) j 1]
    r.coords x l ++ at_ (q + 1) ++ at_ (q + 2) ++ at_ q

/-- texg: the lane's coordinates, then its gradients. -/
def execTexg (x : Std) (s : State) : Out := .next <| gate (.texg x) s fun r =>
  r.texIssue .texg x 4 fun l =>
    r.coords x l ++ (List.range 4).map fun i => r.g.readV (srcNum x.e + i) l 1

/-- texq: the level. -/
def execTexq (x : Std) (s : State) : Out := .next <| gate (.texq x) s fun r =>
  r.texIssue .texq x 1 fun l => [r.src x.e 32 l]

/-- trace: the ray; a poisoned root poisons every lane (R313). -/
def execTrace (x : Std) (s : State) : Out := .next <| gate (.trace x) s fun r =>
  if r.act.isEmpty then r.done r.g
  else if !r.vqRoom then r.waitIn r.s .room
  else
    let root := r.src x.c 64 0
    r.enqueueTex r.s { r.texOp .trace x with
      desc := root.val % 2 ^ 56
      mask := srcNum x.e
      lanes := r.act.map fun l =>
        let os := (List.range 8).map fun i => r.g.readV (x.b.toNat + i) l 1
        (l, match firstTok (os ++ [root]) with
          | some tok => .bad tok
          | none => .ok (os.map PV.val)) }

end Sys2Proof.Machine
end

