-- ==== Sys2Proof/Machine/SurfaceEv.lean ====
section
/-!
DEFINITION. The bricks and the skimmers at work (16_surfaces.md R280, R283, R287 to R289, R291): surface operations
applied in order, tiles spilled and brought back, evictions ended.
-/

namespace Sys2Proof.Machine

open Sys2Proof

/-! ## Channels and blends (Table 16.2, R288) -/

/-- A channel of a sample: a unorm of so many bits, a floating format, or an integer. -/
inductive Chan
  | unorm (n : Nat)
  | float (f : Fmt)
  | int (n : Nat)
deriving DecidableEq, Repr

/-- Bits of a channel. -/
def Chan.width : Chan → Nat
  | .unorm n => n
  | .float f => f.width
  | .int n => n

/-- The channels of a format, lowest bits first. -/
def channels (fmt : Nat) : List Chan :=
  match fmt with
  | 0 => List.replicate 4 (.unorm 8)
  | 1 => [.unorm 10, .unorm 10, .unorm 10, .unorm 2]
  | 2 => [.float fmt16]
  | 3 => List.replicate 2 (.float fmt16)
  | 4 => List.replicate 4 (.float fmt16)
  | 5 => [.float fmt32]
  | 6 => List.replicate 4 (.float fmt32)
  | 7 => List.replicate 4 (.float fmtB16)
  | 8 => List.replicate 4 (.float fmtE4)
  | 9 => [.float fmt32]
  | _ => [.int 8]

/-- Channels with their lowest bits. -/
def chanPlaces : Nat → List Chan → List (Nat × Chan)
  | _, [] => []
  | o, c :: cs => (o, c) :: chanPlaces (o + c.width) cs

/-- Decode of R288: the value of a channel, a unorm rounded to f32. -/
def Chan.decode (c : Chan) (x : Nat) : FV :=
  match c with
  | .unorm n => if x % 2 ^ n == 0 then .fin false 0 0 else fmt32.decode (fmt32.round .rne false false (x % 2 ^ n) (2 ^ n - 1) 0).1
  | .float f => f.decode (x % 2 ^ f.width)
  | .int n => .fin false (x % 2 ^ n) 0

/-- A value times a number, rounded RNE to an integer. -/
def timesRounded (m : Nat) (e : Int) (k : Nat) : Nat :=
  match e with
  | .ofNat j => m * k * 2 ^ j
  | .negSucc j =>
    let d := 2 ^ (j + 1)
    let q := m * k / d
    let r := m * k % d
    if d < 2 * r || (2 * r == d && q % 2 == 1) then q + 1 else q

/-- Encode of R288: NaN becomes 0 in a unorm, and values are clamped to [0, 1]. -/
def Chan.encode (c : Chan) (v : FV) : Nat :=
  match c with
  | .unorm n =>
    match v with
    | .nan _ => 0
    | .inf s => if s then 0 else 2 ^ n - 1
    | .fin s m e => if s then 0 else min (2 ^ n - 1) (timesRounded m e (2 ^ n - 1))
  | .float f => (f.roundFV .rne false v).1
  | .int n => match v with
    | .fin false m e => timesRounded m e 1 % 2 ^ n
    | _ => 0

/-- A value rounded once to f32. -/
def toF32 (v : FV) : FV := fmt32.decode (fmt32.roundFV .rne false v).1

/-- The blend of one channel: source s, destination d and source alpha a (R288). -/
def blendOne (f : Nat) (s d a : FV) : FV :=
  let one : FV := .fin false 1 0
  match f with
  | 0 => s
  | 1 => toF32 (FV.sum .rne [(s.mul a).1, (d.mul (FV.sum .rne [one, a.negate]).1).1]).1
  | 2 => toF32 (FV.sum .rne [s, d]).1
  | 3 => toF32 (s.mul d).1
  | 4 => FV.pick false s d
  | _ => FV.pick true s d

/-- A whole sample blended: `src` holds four f32 values. -/
def blendSample (fmt f src dst : Nat) : Nat :=
  let s := fun (k : Nat) => fmt32.decode (bits src (32 * k + 31) (32 * k))
  ((chanPlaces 0 (channels fmt)).mapIdx fun k p => (k, p)).foldl (fun n e =>
    let c := e.2.2
    n + c.encode (blendOne f (s e.1) (c.decode (dst / 2 ^ e.2.1)) (s 3)) * 2 ^ e.2.1) 0

/-- The comparison of sfdepth as a code of fcmp, none for .never and .always (R289). -/
def depthCond (f : Nat) : Option Nat :=
  match f % 8 with
  | 1 => some 2 | 2 => some 0 | 3 => some 3 | 4 => some 4 | 5 => some 1 | 6 => some 5 | _ => none

/-- Does a depth pass, under the FTZ of its group (R94, R289)? -/
def depthPass (f : Nat) (ftz : Bool) (z d : Nat) : Bool :=
  match depthCond f with
  | some c => (fcmpOf fmt32 c ftz z d).1
  | none => f % 8 == 7

/-! ## Which operation is applied next (R283) -/

/-- May a lane of an earlier operation of the same group come after a lane: they share no sample and, in a sequence,
no tile? -/
def lanesOrdered (s : State) (cid : Nat) (sequenced : Bool) (a b : SurfLane) : Bool :=
  a.sid == b.sid && (if sequenced then a.tile s cid == b.tile s cid
    else a.x == b.x && a.y == b.y && a.smp == b.smp && a.layer == b.layer)

/-- The lanes of an operation still to be applied. -/
def SurfOp.rest (o : SurfOp) : List SurfLane := o.lanes.filter fun l => !l.done && !l.idle

/-- The lanes of the next tile of an operation. -/
def SurfOp.nextTile (o : SurfOp) (s : State) : List SurfLane :=
  match o.rest with
  | [] => []
  | l :: ls => (l :: ls).filter fun m => m.sid == l.sid && m.tile s o.cid == l.tile s o.cid

/-- Has the turn of an operation come: its batch is the oldest unfinished one, and no earlier operation of its group
still has to reach the same tile or sample (R283)? -/
def surfTurn (s : State) (id : Nat) (o : SurfOp) : Bool :=
  (match o.order with
    | some (t, tile, b) => (match unfinishedBatches s t tile with
      | h :: _ => h == b
      | [] => true)
    | none => true) &&
  !(s.sfops.any fun e => decide (e.1 < id) && e.2.team == o.team && e.2.group == o.group &&
      e.2.rest.any fun l => (o.nextTile s).any fun m => lanesOrdered s o.cid o.order.isSome l m)

/-- The tile that an operation touches next: surface and tile. -/
def SurfOp.touches (o : SurfOp) (s : State) : Option (Nat × Nat) := (o.nextTile s).head?.map fun l => (l.sid, l.tile s o.cid)

/-- May an operation be applied: its turn has come and its tile is resident, or can never be? -/
def surfReady (s : State) (id : Nat) (o : SurfOp) : Bool :=
  surfTurn s id o && !busFrozen s (teamOf s o.team).core &&
  (match o.touches s with
    | none => true
    | some (sid, tile) => !(dieOf s (stackOfTile s o.cid sid tile)).vbusFrozen && ((tileOf s o.cid sid tile).resident || (tileFail s o.cid sid tile).isSome))

/-! ## Applying (R287 to R289) -/

/-- The bytes of a lane's sample as the tile holds them. -/
def sampleRaw (s : State) (o : SurfOp) (l : SurfLane) : Nat :=
  ofBytes ((range' (surfOffset s o.cid l.sid l.x l.y l.layer l.smp) (formatBytes (sfField s o.cid l.sid 0x0F 1))).map
    (surfByte s o.cid l.sid))

/-- The bytes of a lane's sample as sfld and sfdepth return them, with the thread's own buffered writes over them (R354). -/
def sampleNow (s : State) (o : SurfOp) (l : SurfLane) : Nat :=
  let n := formatBytes (sfField s o.cid l.sid 0x0F 1)
  let fmt := sfField s o.cid l.sid 0x0F 1
  let t := teamOf s o.team
  let here := fun (m : SurfLane) => m.sid == l.sid && m.x == l.x && m.y == l.y && m.layer == l.layer && m.smp == l.smp
  let own := if t.buffers then t.items.filter fun i => i.group == o.group && i.thread == l.lane else []
  own.foldl (fun x i =>
    match i.eff with
    | .surface p =>
      match p.lanes.find? here with
      | some m => if p.kind == .blend then blendSample fmt p.f m.data x else m.data % 2 ^ (8 * n)
      | none => x
    | _ => x) (sampleRaw s o l)

/-- Apply one lane at its brick: the state and the lane's result. -/
def applyLane (s : State) (o : SurfOp) (l : SurfLane) : State × SurfLane :=
  let fmt := sfField s o.cid l.sid 0x0F 1
  let n := formatBytes fmt
  let off := surfOffset s o.cid l.sid l.x l.y l.layer l.smp
  let tile := tileAt s o.cid l.sid off
  let done := { l with done := true }
  let put := fun (x : Nat) => noteTouch (writeSurf s o.cid o.icn l.sid off (toBytes n x)) o.cid l.sid tile true
  let look := noteTouch s o.cid l.sid tile false
  let poisoned := surfPoisoned s o.cid l.sid off n
  let token : PV Nat := .bad (mkToken 5 l.lane false false (((teamOf s o.team).group o.group).thread l.lane).pc)
  match o.kind with
  | .store => (put l.data, done)
  | .blend =>
    if poisoned then (addReport s o.team o.group 5, done) else (put (blendSample fmt o.f l.data (sampleRaw s o l)), done)
  | .load => (look, { done with res := some (if poisoned then token else .ok (sampleNow s o l)) })
  | .depth =>
    if poisoned then (look, { done with res := some token })
    else
      let pass := depthPass o.f o.ftz l.data (sampleNow s o l)
      let writes := pass && !bitB o.f 3 && !(teamOf s o.team).buffers
      (if writes then put l.data else look, { done with res := some (.ok (b2n pass)) })

/-- The lanes of one tile, applied as one. -/
def applyTile (s : State) (o : SurfOp) (ls : List SurfLane) : State × SurfOp :=
  ls.foldl (fun acc l =>
    match applyLane acc.1 acc.2 l with
    | (t, m) => (t, { acc.2 with lanes := acc.2.lanes.map fun x => if x.lane == m.lane then m else x })) (s, o)

/-- The stores that the passing lanes of sfdepth buffer in a team that buffers its effects (R289, R354). -/
def Run.depthItems (r : Run) (o : SurfOp) : State × Group :=
  if r.t.buffers && !bitB o.f 3 then
    r.buffer r.s r.g ((o.lanes.filter fun l => !l.idle && l.res == some (.ok 1)).map fun l =>
      (l.lane, Effect.surface { o with kind := .store, lanes := [{ l with done := false, res := none }] },
        (2 * 2 ^ 60 + 15 * 2 ^ 56) :: (o.words ++
          [l.x + l.y * 2 ^ 14 + l.smp * 2 ^ 28, l.sid + l.layer * 2 ^ 16, l.data])))
  else (r.s, r.g)

/-- The results of sfld and sfdepth reach their path (R287, R289); a poisoned sample without .spec is Fault(0x05). -/
def deliverSurface (s : State) (o : SurfOp) : State :=
  let bad := fun (l : SurfLane) => l.done && (l.res.bind PV.tok?).isSome
  asPath s o.team o.group o.path 8 fun r =>
    if o.kind == .load && !o.spec && o.lanes.any bad then r.fault 5
    else
      let b := if o.kind == .depth then r.depthItems o else (r.s, r.g)
      let put := fun (g : Group) (l : SurfLane) =>
        let v := l.res.getD (.ok 0)
        if o.kind == .depth then g.setP o.a l.lane (v.map (· != 0)) else g.writeV o.a l.lane o.regs v
      r.doneIn b.1 (o.lanes.foldl put b.2)

/-- The end of an operation: its results, if it has any. -/
def endSurface (s : State) (id : Nat) (o : SurfOp) : State :=
  let s1 := { s with sfops := merase id s.sfops }
  if o.kind == .load || o.kind == .depth then deliverSurface s1 o else s1

/-- What a tile that can never be brought in does to an operation: sfld and sfdepth fault, and the writes of the
others are reported late. -/
def failSurface (s : State) (id : Nat) (o : SurfOp) (code : Nat) : State :=
  let ls := o.nextTile s
  if o.kind == .load || o.kind == .depth then
    asPath { s with sfops := merase id s.sfops } o.team o.group o.path 8 fun r => r.fault code
  else
    let o1 := { o with lanes := o.lanes.map fun l => if ls.any fun m => m.lane == l.lane then { l with done := true } else l }
    let s1 := addReport s o.team o.group code
    if o1.rest.isEmpty then { s1 with sfops := merase id s1.sfops } else { s1 with sfops := mput id o1 s1.sfops }

/-- The kinds of access of an operation at its brick unit (R56). -/
def SurfOp.accesses (o : SurfOp) : List Access :=
  match o.kind with
  | .load => [.read]
  | .store => [.write]
  | .blend => [.read, .write]
  | .depth => if bitB o.f 3 then [.read] else [.read, .write]

/-- The state that logs the denial of an operation at the brick unit of a surface's tile; none where it is allowed (R56,
R57). -/
def SurfOp.denied (o : SurfOp) (s : State) (sid tile : Nat) : Option State :=
  let who : Who := { whoCore s o.team with cid := o.cid, icn := o.icn }
  o.accesses.findSome? fun k =>
    match askPlace s who (.surface sid (tile * tileBytes s o.cid sid)) k with
    | (t, false) => some t
    | _ => none

/-- SURFACE_OP_APPLY: the lanes of an operation's next tile are applied; past the last, the operation ends. -/
def execSurfaceOpApply (id : Nat) (s : State) : Out := .next <|
  match mfind id s.sfops with
  | none => s
  | some o =>
    if !surfReady s id o then s
    else
      match o.touches s with
      | none => endSurface s id o
      | some (sid, tile) =>
        match o.denied s sid tile with
        | some t => failSurface t id o 3
        | none =>
        if !(tileOf s o.cid sid tile).resident then failSurface s id o ((tileFail s o.cid sid tile).getD 0xB)
        else
          match applyTile s o (o.nextTile s) with
          | (t, o1) => if o1.rest.isEmpty then endSurface t id o1 else { t with sfops := mput id o1 t.sfops }

/-! ## The skimmers (R280) -/

/-- Tiles that operations whose turn has come wait for: context, surface and tile. -/
def wantedTiles (s : State) : List (Nat × Nat × Nat) :=
  s.sfops.filterMap fun e =>
    match e.2.touches s with
    | some (sid, tile) =>
      if surfTurn s e.1 e.2 && !(tileOf s e.2.cid sid tile).resident then some (e.2.cid, sid, tile) else none
    | none => none

/-- The next tile of an eviction: still resident, written and unpinned (R291). -/
def evictNext (s : State) (e : Evict) : Option Nat := e.left.find? fun t => (evictable s e.cid e.sid).contains t

/-- Is a tile to be spilled: an eviction has come to it, or a touch needs its room? -/
def spillWanted (s : State) (cid sid tile : Nat) : Bool :=
  (s.evicts.any fun e => e.2.cid == cid && e.2.sid == sid && evictNext s e.2 == some tile) ||
  (wantedTiles s).any fun w => touchTile s w.1 w.2.1 w.2.2 == .spill cid sid tile

/-- The code of the backing fault that a spill would meet, 0 for none. -/
def spillCode (s : State) (cid sid tile : Nat) : Nat :=
  if !(tileOf s cid sid tile).written then 0
  else
    match tilePieces s cid sid tile .write with
    | .error c => c.1
    | .ok _ => 0

/-- TILE_SPILL: the skimmer spills a tile (R280); evictions that had come to it go on. -/
def execTileSpill (cid sid tile : Nat) (s : State) : Out := .next <|
  if !spillWanted s cid sid tile then s
  else
    let code := spillCode s cid sid tile
    let s1 := spillTile s cid sid tile
    { s1 with evicts := s1.evicts.map fun e =>
        if e.2.cid == cid && e.2.sid == sid then
          (e.1, { e.2 with left := e.2.left.filter (· != tile), code := if e.2.code == 0 then code else e.2.code })
        else e }

/-- TILE_RETURN: a touched tile for which there is room is brought in (R280). -/
def execTileReturn (cid sid tile : Nat) (s : State) : Out := .next <|
  if (wantedTiles s).contains (cid, sid, tile) && touchTile s cid sid tile == .bring then (returnTile s cid sid tile).1 else s

/-- Has hcancel asked an eviction to stop? -/
def evictCancelled (s : State) (e : Evict) : Bool :=
  match mfind e.entry (teamOf s e.team).handles with
  | some h => h.seq == e.seq && h.cancel
  | none => false

/-- SFEVICT_COMPLETE: the handle of an eviction completes once its tiles are spilled, or at a tile boundary once it is
cancelled (R163, R291). -/
def execSfevictComplete (id : Nat) (s : State) : Out := .next <|
  match mfind id s.evicts with
  | none => s
  | some e =>
    let end_ := fun (st c : Nat) =>
      modTeam { s with evicts := merase id s.evicts } e.team fun t => t.completeHandle e.entry e.seq st c
    if (evictNext s e).isNone then (if e.code == 0 then end_ 0 0 else end_ 3 e.code)
    else if evictCancelled s e then end_ 2 0
    else s

end Sys2Proof.Machine
end

