-- ==== Sys2Proof/Machine/TextureEv.lean ====
section
/-!
DEFINITION. The texture sampler at work (17_footing.md R307 to R311): texels, levels of detail, filters, and the
results of tex, texg and texq.
-/

namespace Sys2Proof.Machine

open Sys2Proof

/-! ## Sampled images (R307) -/

/-- What a descriptor resolves to: the extents, the levels, and how a texel is found. -/
structure Image where
  desc : Nat
  width : Nat
  height : Nat
  layers : Nat
  levels : Nat
  /-- surface number of kind 1 -/
  sid : Nat := 0
  /-- record of the identifier of kind 2 -/
  rec_ : Nat := 0
deriving DecidableEq, Repr

/-- The texture sampler of a core as requester (Table 2.8). -/
def TexOp.who (s : State) (o : TexOp) : Who := { whoEngine s o.team 3 with group := some o.group }

/-- The surface that a page of type surface at an address names, or the failure. -/
def surfaceAt (s : State) (who : Who) (va : Nat) : Except Check Nat :=
  match lookup s who.core who.master who.cid va with
  | .fail c mal l => .error (.bad c (some { mal := mal, lvl := l }))
  | .page pte l => if pteType pte == 2 then .ok (bits (leafPa pte l va) 51 42) else .error (.bad 0xB none)

/-- May a tensor identifier be sampled (R307)? -/
def texTensorOk (rec : Nat) : Bool :=
  tKind rec == 0 && (tRank rec == 2 || tRank rec == 3) &&
  (match tType rec with
    | .f32 | .f16 | .bf16 | .e4m3 | .e5m2 | .l6 | .i8 | .n8 => true
    | _ => false)

/-- The image of an operation's descriptor, or the failure of its reads. -/
def imageOf (s : State) (who : Who) (o : TexOp) : Except Check Image :=
  let d := o.desc
  let fld := fieldAt d
  match texKindOf d with
  | 0 => .ok { desc := d, width := fld 0xA 2, height := fld 0xC 2, layers := fld 0xE 2, levels := fld 0x10 1 }
  | 1 =>
    match surfaceAt s who (fld 0 8) with
    | .error c => .error c
    | .ok sid =>
      let e := sfField s who.cid sid
      let c := sfReadCode s who.table who.cid sid
      if c != 0 then .error (.bad c none)
      else if sfLive s who.cid sid && e 0x0F 1 == fld 8 1 && e 0x08 2 == fld 0xA 2 && e 0x0A 2 == fld 0xC 2 && e 0x0C 2 == fld 0xE 2 then
        .ok { desc := d, width := e 0x08 2, height := e 0x0A 2, layers := e 0x0C 2, levels := 1, sid := sid }
      else .error (.bad 0xB none)
  | _ =>
    -- an identifier that is not valid fails with R307's code, which R311 cites R239 for (log 79)
    if o.recCode != 0 then .error (.bad (if o.recCode == 1 then 0xB else o.recCode) none)
    else if texTensorOk o.rec_ then
      .ok { desc := d, width := tDim o.rec_ 0, height := tDim o.rec_ 1, layers := tDim o.rec_ 2, levels := 1, rec_ := o.rec_ }
    else .error (.bad 0xB none)

/-- Width of a level. -/
def Image.wAt (i : Image) (n : Nat) : Nat := max 1 (i.width / 2 ^ n)
/-- Height of a level. -/
def Image.hAt (i : Image) (n : Nat) : Nat := max 1 (i.height / 2 ^ n)

/-- Bytes of a texel. -/
def Image.bytes (i : Image) : Nat :=
  if texKindOf i.desc == 2 then typeSize (tTypeCode i.rec_) else formatBytes (fieldAt i.desc 8 1)

/-- Row pitch of a level of kind 0. -/
def Image.pitch (i : Image) (n : Nat) : Nat := 16 * ceilDiv (i.wAt n * i.bytes) 16

/-- Bytes of the first `n` levels of kind 0. -/
def Image.below (i : Image) (n : Nat) : Nat := (List.range n).foldl (fun t j => t + i.pitch j * i.hAt j) 0

/-- The address of a texel (R307). -/
def Image.texelVa (i : Image) (s : State) (cid n x y m : Nat) : Nat :=
  let base := fieldAt i.desc 0 8
  match texKindOf i.desc with
  | 0 => (base + m * i.below i.levels + i.below n + i.pitch n * y + i.bytes * x) % 2 ^ 56
  | 1 => (base + surfOffset s cid i.sid x y m 0) % 2 ^ 56
  | _ => elemVa s cid i.rec_ 0 x y m 0

/-- A channel value over the denominator of its format. -/
abbrev Texel := List FV

/-- The denominator and the value of a channel: a unorm counts in units of 1 / (2^n - 1). -/
def Chan.exact (c : Chan) (x : Nat) : Nat × FV :=
  match c with
  | .unorm n => (2 ^ n - 1, .fin false (x % 2 ^ n) 0)
  | c => (1, c.decode x)

/-- A value under a block scale (R98, R244). -/
def scaledFV (k : Nat) (v : FV) : FV :=
  if k == 255 then .nan false
  else
    match v with
    | .fin n m e => .fin n m (e + ((k : Int) - 127))
    | v => v

/-- The four channels of a texel, with their denominators; missing ones read 0, and channel 3 reads 1. A scaled element of
an identifier takes its scale (R244). -/
def Image.decode (i : Image) (x : Nat) (scale : Nat := 127) : List (Nat × FV) :=
  let have_ : List (Nat × FV) :=
    if texKindOf i.desc == 2 then [(1, scaledFV scale (sourceFV (tType i.rec_) false x))]
    else (chanPlaces 0 (channels (fieldAt i.desc 8 1))).map fun p => p.2.exact (x / 2 ^ p.1)
  (List.range 4).map fun k => have_.getD k (1, .fin false (if k == 3 then 1 else 0) 0)

/-! ## Coordinates and levels (R308) -/

/-- A finite f32 as a whole number of 2^-149; 0 for a NaN or an infinity. -/
def coordFx (x : Nat) : Int :=
  match fmt32.decode x with
  | .fin n m e => FV.at (-149) (.fin n m e)
  | _ => 0

/-- The layer of an f32: RNE to an integer, clamped. Of a NaN the spec states none, and the layer is free (log 30). -/
def layerOf (i : Image) (free x : Nat) : Nat :=
  match fmt32.decode x with
  | .nan _ => free % i.layers
  | .inf n => if n then 0 else i.layers - 1
  | .fin n m e => if n then 0 else min (i.layers - 1) (timesRounded m e 1)

/-- A level of detail in units of 2^-16; none for one beyond every level. -/
inductive Lod
  | low
  | fx (n : Int)
  | high
deriving DecidableEq, Repr

/-- log2 of a positive number m * 2^e, in units of 2^-17. -/
def log2Units (m : Nat) (e : Int) : Int :=
  let k := Nat.log2 m
  ((k : Int) + e) * 2 ^ 17 + ((log2Fx (m * fx1 / 2 ^ k) * 2 ^ 17 / fx1 : Nat) : Int)

/-- The level of detail of finite gradients in units of 2^-149: half of log2 of the larger squared length, within 2^-8
of its exact value, and one fixed function of its inputs on a device (R308). -/
def lodOf (i : Image) (g : List Int) (bias : Int) : Lod :=
  let sq := fun (a b : Nat) =>
    let x := g.getD a 0 * (i.width : Int)
    let y := g.getD b 0 * (i.height : Int)
    (x * x + y * y).natAbs
  let r := max (sq 0 1) (sq 2 3)
  if r == 0 then .low
  else
    let err := ((Config.lodError (g ++ [(i.width : Int), (i.height : Int), bias]) % 511 : Nat) : Int) - 255
    .fx (log2Units r (-298) / 4 + bias * 256 + err)

/-- The gradients of an operand list: of tex from the quad's coordinates, of texg as given; none where one is
infinite, `nan` where one is NaN. -/
def gradientsOf (kind : TexKind) (ops : List Nat) : List Int × Bool × Bool :=
  let c := fun (k : Nat) => coordFx (ops.getD k 0)
  match kind with
  | .texg =>
    let gs := (ops.drop 3).map fun x => fmt32.decode x
    ((range' 3 4).map c, gs.any FV.isNaN, gs.any FV.isInf)
  | _ => ([c 3 - c 7, c 4 - c 8, c 5 - c 7, c 6 - c 8], false, false)

/-- BIAS in units of 1/256. -/
def texBias (d : Nat) : Int := toSigned 16 (fieldAt d 0x14 2)

/-- The level of detail of a lane. -/
def laneLod (i : Image) (kind : TexKind) (ops : List Nat) : Lod :=
  match gradientsOf kind ops with
  | (g, nan, inf) =>
    if nan then .fx (texBias i.desc * 256) else if inf then .high else lodOf i g (texBias i.desc)

/-- A fraction num / 2^k rounded RNE to 256ths. -/
def frac256 (num : Int) (k : Nat) : Nat := timesRounded (num % 2 ^ k).toNat (-(k : Int)) 256

/-- The levels sampled with their weights in 256ths, and whether the filter is linear (R308). -/
def levelsOf (i : Image) (l : Lod) : List (Nat × Nat) × Bool :=
  let d := fieldAt i.desc 0x11 1
  let top := i.levels - 1
  let clampI := fun (n : Int) => min top n.toNat
  match l with
  | .low => ([(0, 256)], bitB d 0)
  | .high => ([(top, 256)], bitB d 1)
  | .fx n =>
    if n ≤ 0 then ([(0, 256)], bitB d 0)
    else if !bitB d 2 then ([(clampI ((n + 2 ^ 15) / 2 ^ 16), 256)], bitB d 1)
    else
      let d0 := clampI (n / 2 ^ 16)
      let b := frac256 n 16
      ([(d0, 256 - b), (min (d0 + 1) top, b)], bitB d 1)

/-- A wrapped index, none for the border (R308). -/
def wrapIndex (mode w : Nat) (i : Int) : Option Nat :=
  match mode with
  | 0 => some (i % (w : Int)).toNat
  | 1 => some (min (w - 1) i.toNat)
  | 2 =>
    let m := (i % ((2 * w : Nat) : Int)).toNat
    some (if m < w then m else 2 * w - 1 - m)
  | _ => if 0 ≤ i && i < (w : Int) then some i.toNat else none

/-- Indices along one axis with their weights in 256ths. -/
def axisTaps (linear : Bool) (mode w : Nat) (u : Int) : List (Option Nat × Nat) :=
  let t := u * (w : Int)
  if linear then
    let t1 := t - 2 ^ 148
    let i0 := t1 / 2 ^ 149
    let a := frac256 t1 149
    [(wrapIndex mode w i0, 256 - a), (wrapIndex mode w (i0 + 1), a)]
  else [(wrapIndex mode w (t / 2 ^ 149), 256)]

/-- The texels of a lane: level, position, and weight in units of 2^-24. -/
def tapsOf (i : Image) (kind : TexKind) (ops : List Nat) : List (Nat × Option (Nat × Nat) × Nat) :=
  let lv := levelsOf i (laneLod i kind ops)
  let wrap := fieldAt i.desc 0x12 1
  lv.1.flatMap fun l =>
    (axisTaps lv.2 (bits wrap 3 2) (i.hAt l.1) (coordFx (ops.getD 1 0))).flatMap fun y =>
      (axisTaps lv.2 (bits wrap 1 0) (i.wAt l.1) (coordFx (ops.getD 0 0))).map fun x =>
        (l.1, (match x.1, y.1 with
          | some a, some b => some (a, b)
          | _, _ => none), l.2 * x.2 * y.2)

/-! ## Lanes (R310, R311) -/

/-- The outcome of a lane: its result words, the failure of a read, or a wait. -/
inductive LaneOut
  | vals (xs : List Nat)
  | tok (t : Word)
  | fails (va : Nat) (c : Check)
deriving DecidableEq, Repr

/-- An engine's plain read for a thread of the group, as a number: the number, with the thread's own buffered writes (R354),
or the failure. -/
def readNum (s : State) (who : Who) (va n : Nat) : State × Except Check Nat :=
  match checkAccess s who va n .read with
  | .ok p =>
    match readPlace (noteTranslation s who va (.ok p)) who p n with
    | (t, .bytes bs) =>
      let own := overItems (teamOf t who.team).items (who.group.getD 0) (who.threads.map fun k => k % 64) va bs
      (t, .ok (ofBytes own))
    | (t, .report c) => (t, .error (.bad c none))
  | c => (s, .error c)

/-- Weighted texels, and the failure of a read. -/
def readTaps (who : Who) (i : Image) (m : Nat) :
    State → List (Nat × Option (Nat × Nat) × Nat) → State × Except (Nat × Check) (List (Nat × List (Nat × FV)))
  | s, [] => (s, .ok [])
  | s, (n, pos, w) :: ts =>
    let next := fun (t : State) (v : List (Nat × FV)) =>
      match readTaps who i m t ts with
      | (u, .ok vs) => (u, .ok ((w, v) :: vs))
      | e => e
    match pos with
    | none => next s (List.replicate 4 (1, .fin false 0 0))
    | some (x, y) =>
      let va := i.texelVa s who.cid n x y m
      match readNum s who va i.bytes with
      | (t, .error c) => (t, .error (va, c))
      | (t, .ok v) =>
        if texKindOf i.desc == 2 && tScaled i.rec_ then
          match readNum t who (scaleVa i.rec_ x y m 0) 1 with
          | (u, .error c) => (u, .error (scaleVa i.rec_ x y m 0, c))
          | (u, .ok k) => next u (i.decode v k)
        else next t (i.decode v)

/-- One channel of the result: the exact weighted sum, rounded once (R308). -/
def sumChannel (vs : List (Nat × List (Nat × FV))) (k : Nat) : Nat :=
  let es := vs.map fun v => (v.1, v.2.getD k (1, .fin false 0 0))
  let den := es.foldl (fun d e => max d e.2.1) 1
  let terms := es.map fun e =>
    -- a border texel, of denominator 1, is zero
    (FV.mul (.fin false e.1 (-24)) e.2.2).1
  match (FV.sum .rne terms).1 with
  | .fin n m e => if m == 0 then (if n then 2 ^ 31 else 0) else (fmt32.round .rne false n m den e).1
  | v => (fmt32.roundFV .rne false v).1

/-- The requester of a lane of the operation. -/
def TexOp.whoLane (s : State) (o : TexOp) (l : Nat) : Who := { o.who s with threads := [threadKey o.team o.group l] }

/-- The results of one lane of tex, texg or texq. -/
def texLane (s : State) (o : TexOp) (l : Nat) (ops : PV (List Nat)) : State × LaneOut :=
  let who := o.whoLane s l
  match ops with
  | .bad t => (s, .tok t)
  | .ok xs =>
    match imageOf s who o with
    | .error c => (s, .fails (if texKindOf o.desc == 2 then 0 else fieldAt o.desc 0 8) c)
    | .ok i =>
      if o.kind == .texq then
        let n := xs.getD 0 0
        let v := match o.f with
          | 0 => i.wAt n
          | 1 => i.hAt n
          | _ => i.layers
        (s, .vals [if o.f == 3 then i.levels else if i.levels ≤ n then 0 else v])
      else
        match readTaps who i (layerOf i (Config.freeNat s.tick (2 ^ 47 + l)) (xs.getD 2 0)) s (tapsOf i o.kind xs) with
        | (t, .error (va, c)) => (t, .fails va c)
        | (t, .ok vs) => (t, .vals ((List.range 4).map (sumChannel vs)))

/-- The outcomes of the lanes in rising order. -/
def texLanes (f : State → Nat → PV (List Nat) → State × LaneOut) : State → Map (PV (List Nat)) → State × List (Nat × LaneOut)
  | s, [] => (s, [])
  | s, (l, ops) :: ls =>
    match f s l ops with
    | (t, out) =>
      match texLanes f t ls with
      | (u, outs) => (u, (l, out) :: outs)

/-- Does the failure of a lane pass by itself? -/
def LaneOut.waits : LaneOut → Bool
  | .fails _ (.wait _) => true
  | _ => false

/-- A failing lane's address and check. -/
def LaneOut.bad? : LaneOut → Option (Nat × Check)
  | .fails va c => some (va, c)
  | _ => none

/-- All lanes have finished: the results are written, or the lowest failing lane's fault is taken, or under .spec its
results are poisoned (R311). -/
def deliverTex (s : State) (id : Nat) (o : TexOp) (k : Nat) (outs : List (Nat × LaneOut)) : State :=
  asPath { s with texops := merase id s.texops } o.team o.group o.path 8 fun r =>
    let bad := outs.findSome? fun e => e.2.bad?
    match if o.spec then none else bad with
    | some (va, c) => r.failAt r.s va c .read
    | none =>
      let put := fun (g : Group) (e : Nat × LaneOut) =>
        match e.2 with
        | .vals xs => g.writeV o.a e.1 k (.ok (xs.foldr (fun x n => x % 2 ^ 32 + 2 ^ 32 * n) 0))
        | .tok t => g.writeV o.a e.1 k (.bad t)
        | .fails _ (.bad c _) => g.writeV o.a e.1 k (.bad (mkToken c e.1 false false r.pc))
        | .fails _ _ => g
      r.done (outs.foldl put r.g)

/-- TEXTURE_RESULT: a sampling or query operation ends, once none of its reads has to wait. -/
def execTextureResult (id : Nat) (s : State) : Out := .next <|
  match mfind id s.texops with
  | none => s
  | some o =>
    if o.kind == .trace || busFrozen s o.core then s
    else
      match texLanes (fun t l ops => texLane t o l ops) s o.lanes with
      | (t, outs) =>
        if outs.any fun e => e.2.waits then s else deliverTex t id o (if o.kind == .texq then 1 else 4) outs

end Sys2Proof.Machine
end

