-- ==== Sys2Proof/Machine/RasterEv.lean ====
section
/-!
DEFINITION. The sequencer and the raster units (17_footing.md R294 to R305): admission in ordinal order, clipping,
viewport, cull and scan, the closing of pixel groups and their launch.
-/

namespace Sys2Proof.Machine

open Sys2Proof

/-! ## Counters (Table 17.2) -/

/-- Add to DUP, saturating. -/
def countDup (s : State) (die n : Nat) : State := modDie s die fun d => { d with dup := min 0xFF (d.dup + n) }
/-- Add to BAD, saturating. -/
def countBad (s : State) (die n : Nat) : State := modDie s die fun d => { d with bad := min 0xFF (d.bad + n) }
/-- Add to GAP, saturating. -/
def countGap (s : State) (die n : Nat) : State := modDie s die fun d => { d with gap := min 0xFFFF (d.gap + n) }

/-! ## Exact window positions (R300) -/

/-- A word of a record as a whole number of 2^-149. -/
def recFx (x off : Nat) : Int := coordFx (fieldAt x off 4)

/-- A vertex in clip space: x, y, z, w in units of 2^-149. -/
structure Vert where
  x : Int
  y : Int
  z : Int
  w : Int
deriving DecidableEq, Repr

/-- The vertices of a primitive record (Table 17.1). -/
def primVerts (r : Nat) : List Vert :=
  (List.range 3).map fun i =>
    { x := recFx r (16 * i), y := recFx r (16 * i + 4), z := recFx r (16 * i + 8), w := recFx r (16 * i + 12) }

/-- num / den * 2^e rounded RNE to f32, for den positive. -/
def roundRat (num : Int) (den : Nat) (e : Int) : Nat :=
  if num == 0 then 0 else (fmt32.round .rne false (decide (num < 0)) num.natAbs den e).1

/-- num / den rounded RNE to an integer. -/
def roundDiv (num : Int) (den : Nat) : Int :=
  let n : Int := (roundFrac .rne false num.natAbs den : Nat)
  if num < 0 then -n else n

/-- XSCALE * x + XOFF * w of a vertex, in units of 2^-298. -/
def winX (st : Nat) (v : Vert) : Int := recFx st 0 * v.x + recFx st 4 * v.w
/-- YSCALE * y + YOFF * w of a vertex, in units of 2^-298. -/
def winY (st : Nat) (v : Vert) : Int := recFx st 8 * v.y + recFx st 12 * v.w

/-- MODE of a raster state block. -/
def rsMode (st : Nat) : Nat := fieldAt st 0x25 1
/-- SAMPLES of a raster state block. -/
def rsSamples (st : Nat) : Nat := fieldAt st 0x24 1
/-- SSHADE of a raster state block. -/
def rsShade (st : Nat) : Bool := bitB (rsMode st) 4

/-- A clip plane: the signed distance of a vertex, in one unit per plane, and whether the plane itself is outside. -/
abbrev Plane := (Vert → Int) × Bool

/-- The clip planes in order: w, the guard band, and z with ZCLIP (R300). -/
def clipPlanes (st : Nat) : List Plane :=
  let band := fun (v : Vert) => (2 : Int) ^ 15 * v.w * 2 ^ 149
  [(fun v => v.w - 2 ^ 133, false), (fun v => band v + winX st v, true), (fun v => band v - winX st v, true),
    (fun v => band v + winY st v, true), (fun v => band v - winY st v, true)] ++
  (if bitB (rsMode st) 3 then [(fun v => v.z, false), (fun v => v.w - v.z, false)] else [])

/-- Is a vertex inside a plane? -/
def Plane.inside (p : Plane) (v : Vert) : Bool := if p.2 then decide (0 < p.1 v) else decide (0 ≤ p.1 v)

/-- A new vertex on a plane between two vertices: each coordinate exact, then rounded RNE to f32. -/
def Plane.cut (p : Plane) (a b : Vert) : Vert :=
  let da := p.1 a
  let db := p.1 b
  let den := da - db
  let sg : Int := if den < 0 then -1 else 1
  let at_ := fun (x y : Int) => coordFx (roundRat (sg * (x * den + (y - x) * da)) den.natAbs (-149))
  { x := at_ a.x b.x, y := at_ a.y b.y, z := at_ a.z b.z, w := at_ a.w b.w }

/-- A polygon clipped against one plane; `ps` are its edges. -/
def clipEdges (p : Plane) : List (Vert × Vert) → List Vert
  | [] => []
  | (a, b) :: es =>
    (match p.inside a, p.inside b with
      | true, true => [a]
      | true, false => if p.1 a == 0 then [a] else [a, p.cut a b]
      | false, true => if p.1 b == 0 then [] else [p.cut a b]
      | false, false => []) ++ clipEdges p es

/-- A polygon clipped against one plane. -/
def clipPoly (vs : List Vert) (p : Plane) : List Vert :=
  if vs.all p.inside then vs
  else if vs.all fun v => !p.inside v then []
  else clipEdges p (vs.zip (vs.drop 1 ++ vs.take 1))

/-- A fan triangle in the window: its vertices after clipping and their snapped positions in 1/256 pixel. -/
structure Tri where
  verts : List Vert
  pos : List (Int × Int)
deriving DecidableEq, Repr

/-- A snapped position (R300, step 2). -/
def snap (st : Nat) (v : Vert) : Int × Int :=
  let den := (v.w * 2 ^ 149).toNat
  (roundDiv (256 * winX st v) den, roundDiv (256 * winY st v) den)

/-- E of R301 for an edge from a to b, at p. -/
def edgeAt (a b p : Int × Int) : Int := (b.1 - a.1) * (p.2 - a.2) - (b.2 - a.2) * (p.1 - a.1)

/-- Cull a triangle: none where it is discarded; vertices 1 and 2 exchanged where its area is negative (R300, step 3). -/
def cullTri (st : Nat) (v0 v1 v2 : Vert) : Option Tri :=
  let p0 := snap st v0
  let p1 := snap st v1
  let p2 := snap st v2
  let a := edgeAt p0 p1 p2
  let front := if bitB (rsMode st) 2 then decide (a < 0) else decide (0 < a)
  let cull := rsMode st % 4
  if a == 0 || (cull == 1 && !front) || (cull == 2 && front) then none
  else if a < 0 then some { verts := [v0, v2, v1], pos := [p0, p2, p1] }
  else some { verts := [v0, v1, v2], pos := [p0, p1, p2] }

/-- The fan triangles of a primitive that are drawn: none where its triangle is wholly outside one plane (R300, step 1). -/
def primTris (st r : Nat) : List Tri :=
  let outside := (clipPlanes st).any fun p => (primVerts r).all fun v => !p.inside v
  match if outside then [] else (clipPlanes st).foldl clipPoly (primVerts r) with
  | v0 :: rest => (rest.zip (rest.drop 1)).filterMap fun e => cullTri st v0 e.1 e.2
  | [] => []

/-! ## Coverage (R301) -/

/-- Sample positions in sixteenths of a pixel (Table 17.4). -/
def samplePos (samples i : Nat) : Nat × Nat :=
  match samples with
  | 1 => (8, 8)
  | 2 => if i == 0 then (4, 4) else (12, 12)
  | _ => ([(6, 2), (14, 6), (2, 10), (10, 14)] : List (Nat × Nat)).getD i (0, 0)

/-- A position of a snapped triangle. -/
def Tri.p (t : Tri) (i : Nat) : Int × Int := t.pos.getD i (0, 0)
/-- A vertex of a triangle. -/
def Tri.v (t : Tri) (i : Nat) : Vert := t.verts.getD i ⟨0, 0, 0, 0⟩

/-- The edge opposite vertex i, at a point in 1/256 pixel. -/
def Tri.edge (t : Tri) (i : Nat) (p : Int × Int) : Int := edgeAt (t.p ((i + 1) % 3)) (t.p ((i + 2) % 3)) p

/-- Does an edge's own line count as covered? -/
def Tri.ownsEdge (t : Tri) (i : Nat) : Bool :=
  let a := t.p ((i + 1) % 3)
  let b := t.p ((i + 2) % 3)
  decide (0 < b.2 - a.2) || (b.2 == a.2 && decide (b.1 - a.1 < 0))

/-- A point of a pixel in 1/256 pixel, from sixteenths. -/
def pixelPoint (x y : Nat) (s : Nat × Nat) : Int × Int := ((256 * x + 16 * s.1 : Nat), (256 * y + 16 * s.2 : Nat))

/-- Is a point inside a triangle? -/
def Tri.covers (t : Tri) (p : Int × Int) : Bool :=
  (List.range 3).all fun i => let e := t.edge i p; decide (0 < e) || (e == 0 && t.ownsEdge i)

/-- Is a pixel in the scissor and the target? -/
def pixelIn (st x y : Nat) : Bool :=
  fieldAt st 0x18 2 ≤ x && x < fieldAt st 0x1C 2 && fieldAt st 0x1A 2 ≤ y && y < fieldAt st 0x1E 2 &&
  x < fieldAt st 0x20 2 && y < fieldAt st 0x22 2

/-- The covered samples of a pixel as a mask. -/
def Tri.cover (t : Tri) (st x y : Nat) : Nat :=
  if pixelIn st x y then
    maskOf ((List.range (rsSamples st)).filter fun i => t.covers (pixelPoint x y (samplePos (rsSamples st) i)))
  else 0

/-- The screen tiles that a triangle's bounding box meets, in row-major order. -/
def Tri.tiles (t : Tri) (st : Nat) : List Nat :=
  let lo := fun (f : Int × Int → Int) => (t.pos.foldl (fun m p => min m (f p)) (f (t.p 0))) / 16384
  let hi := fun (f : Int × Int → Int) => (t.pos.foldl (fun m p => max m (f p)) (f (t.p 0))) / 16384
  let top := fun (n : Nat) => ((n - 1) / 64 : Nat)
  let y0 := (lo Prod.snd).toNat
  let x0 := (lo Prod.fst).toNat
  let y1 := min (hi Prod.snd).toNat (top (fieldAt st 0x22 2))
  let x1 := min (hi Prod.fst).toNat (top (fieldAt st 0x20 2))
  if hi Prod.fst < 0 || hi Prod.snd < 0 then []
  else (range' y0 (y1 + 1 - y0)).flatMap fun ty => (range' x0 (x1 + 1 - x0)).map fun tx => screenTile tx ty

/-- The pixels of a quad. -/
def quadPixels (x y : Nat) : List (Nat × Nat) := [(x, y), (x + 1, y), (x, y + 1), (x + 1, y + 1)]

/-- The words of a triangle's vertices, as a quad keeps them. -/
def Tri.words (t : Tri) : List Int := t.verts.flatMap fun v => [v.x, v.y, v.z, v.w]

/-- The quads of a primitive in one screen tile, row by row; a quad that several fan triangles cover is emitted once
for each, in their order. -/
def tileQuads (ordinal st r : Nat) (tris : List Tri) (tile : Nat) : List Quad :=
  let near := tris.filter fun t => (t.tiles st).contains tile
  (List.range 32).flatMap fun qy => (List.range 32).flatMap fun qx =>
    let x := 64 * screenTx tile + 2 * qx
    let y := 64 * screenTy tile + 2 * qy
    near.filterMap fun t =>
      let c := (quadPixels x y).map fun p => t.cover st p.1 p.2
      if c.all (· == 0) then none
      else some { x := x, y := y, ordinal := ordinal, prim := r, state := st, tri := t.words, pos := t.pos, cover := c }

/-! ## Ownership (R299) -/

/-- The core under which a screen tile is owned, none where no core serves. -/
def Draw.owner (d : Draw) (tile : Nat) : Option Nat :=
  let tx := screenTx tile
  let ty := screenTy tile
  let us := if (tx ^^^ ty) % 2 == 0 then (d.ua, d.ub) else (d.ub, d.ua)
  let u := if us.1.isEmpty then us.2 else us.1
  if u.isEmpty then none else u[(ty * 128 + tx / 2) % u.length]?

/-! ## Pixel groups (R302) -/

/-- Change the sequencer of an instance. -/
def modDraw (s : State) (ticket : Nat) (f : Draw → Draw) : State :=
  { s with insts := mmod ticket (fun i => { i with draw := i.draw.map f }) s.insts }

/-- The sequencer of an instance. -/
def drawOf (s : State) (ticket : Nat) : Option Draw := (mfind ticket s.insts).bind Inst.draw

/-- Close the open group of a screen tile: it takes the tile's next batch number and goes on to its pool team. -/
def closeGroup (s : State) (ticket tile : Nat) : State :=
  match drawOf s ticket with
  | none => s
  | some d =>
    match mfind tile d.open_ with
    | none => s
    | some g =>
      let b := mget {} tile d.batches
      let c : ClosedGroup := { ticket := ticket, core := g.core, tile := tile, batch := b.next, sshade := g.sshade
                               samples := g.samples, quads := g.quads }
      let s1 := modDraw s ticket fun d =>
        { d with open_ := merase tile d.open_
                 batches := mput tile { next := (b.next + 1) % 2 ^ 32, unfinished := b.unfinished ++ [b.next] } d.batches }
      { s1 with closed := mput s1.nextId c s1.closed, nextId := s1.nextId + 1 }

/-- Close every open group of an instance. -/
def closeAll (s : State) (ticket : Nat) : State :=
  match drawOf s ticket with
  | none => s
  | some d => d.open_.foldl (fun t e => closeGroup t ticket e.1) s

/-- Quads that a group holds at most. -/
def groupQuads (sshade : Bool) (samples : Nat) : Nat := if sshade then 8 / samples else 8

/-- Do two quads cover a common sample? -/
def quadsMeet (a b : Quad) : Bool := a.x == b.x && a.y == b.y && (a.cover.zip b.cover).any fun c => c.1 &&& c.2 != 0

/-- Append a quad to the open group of its tile. -/
def emitQuad (ticket core tile : Nat) (s : State) (q : Quad) : State :=
  let sshade := rsShade q.state
  let samples := rsSamples q.state
  let clash := fun (g : OpenGroup) =>
    g.sshade != sshade || g.samples != samples || g.quads.any (quadsMeet q)
  let s1 := match (drawOf s ticket).bind fun d => mfind tile d.open_ with
    | some g => if clash g then closeGroup s ticket tile else s
    | none => s
  let s2 := modDraw s1 ticket fun d =>
    let g : OpenGroup := (mfind tile d.open_).getD { core := core, sshade := sshade, samples := samples }
    { d with open_ := mput tile { g with quads := g.quads ++ [q] } d.open_ }
  match (drawOf s2 ticket).bind fun d => mfind tile d.open_ with
  | some g => if groupQuads sshade samples ≤ g.quads.length then closeGroup s2 ticket tile else s2
  | none => s2

/-! ## Admission (R296, R298) -/

/-- Is a record to be ignored: a coordinate that is not finite, or a reserved flag (R300)? -/
def primBad (r : Nat) : Bool := ((List.range 12).any fun i => nonFinite32 (fieldAt r (4 * i) 4)) || 2 ≤ fieldAt r 0x3C 4

/-- Send an admitted primitive to the raster units that own a tile it may touch. -/
def sendPrim (s : State) (ticket : Nat) (d : Draw) (k r : Nat) : State :=
  let tiles := (primTris d.state r).flatMap fun t => t.tiles d.state
  let cores := tiles.foldl (fun cs t => match d.owner t with
    | some c => insertNat c cs
    | none => cs) []
  cores.foldl (fun t c =>
    { t with raster := mput t.nextId { ticket := ticket, core := c, ordinal := k, prim := r, state := d.state } t.raster
             nextId := t.nextId + 1 }) s

/-- Put a raster state block in force; a change of SSHADE or SAMPLES closes every open group (R298, R302). -/
def admitState (s : State) (ticket die : Nat) (d : Draw) (blk : Nat) : State :=
  if !rasterStateOk blk then countBad s die 1
  else
    let s1 := if rsShade blk != rsShade d.state || rsSamples blk != rsSamples d.state then closeAll s ticket else s
    modDraw s1 ticket fun d => { d with state := blk }

/-- Admit the ordinal NEXT with its record: its state block first, then the primitive. -/
def admitOne (s : State) (ticket r : Nat) : State :=
  match mfind ticket s.insts with
  | none => s
  | some i =>
    match i.draw with
    | none => s
    | some d =>
      let k := d.next
      let s1 := modDraw s ticket fun d => { d with next := k + 1, held := merase k d.held, heldBinds := merase k d.heldBinds }
      let s2 := match mfind k d.heldBinds with
        | some blk => admitState s1 ticket i.die d blk
        | none => s1
      if primBad r then countBad s2 i.die 1
      else if bitB (fieldAt r 0x3C 4) 0 then s2
      else
        match drawOf s2 ticket with
        | some d2 => sendPrim s2 ticket d2 k r
        | none => s2

/-- Admit the held pushes whose turn has come. -/
def admitHeld : Nat → State → Nat → State
  | 0, s, _ => s
  | n + 1, s, ticket =>
    match (drawOf s ticket).bind fun d => mfind d.next d.held with
    | some r => admitHeld n (admitOne s ticket r) ticket
    | none => s

/-- May a push be received: its instance is gone, or its ordinal is below NEXT + 1024 (R296)? -/
def pushReady (s : State) (p : Push) : Bool :=
  match drawOf s p.ticket with
  | none => true
  | some d => decide (p.ordinal < d.next + 1024)

/-- A push or bind leaves its core's vertical queue, and the sequencer takes it. -/
def receive (s : State) (id : Nat) (p : Push) (k : State → Inst → Draw → State) : State :=
  let s1 := { s with pushes := merase id s.pushes }
  match mfind p.ticket s.insts with
  | none => s1
  | some i =>
    match i.draw with
    | none => s1
    | some d => if d.next + 1024 ≤ p.ordinal then s else k s1 i d

/-- PUSH_ARRIVAL: a push reaches the sequencer: admitted, held or dropped (R296). -/
def execPushArrival (id : Nat) (s : State) : Out := .next <|
  match mfind id s.pushes with
  | none => s
  | some p =>
    if p.bind || busFrozen s p.core then s
    else
      receive s id p fun t i d =>
        if p.ordinal < d.next || (mfind p.ordinal d.held).isSome then countDup t i.die 1
        else if p.ordinal == d.next then admitHeld 1024 (admitOne t p.ticket p.data) p.ticket
        else modDraw t p.ticket fun d => { d with held := mput p.ordinal p.data d.held }

/-- RSBIND_ARRIVAL: a state block reaches the sequencer and is held for its ordinal, or dropped (R298). -/
def execRsbindArrival (id : Nat) (s : State) : Out := .next <|
  match mfind id s.pushes with
  | none => s
  | some p =>
    if !p.bind || busFrozen s p.core then s
    else
      receive s id p fun t i d =>
        if p.ordinal < d.next || (mfind p.ordinal d.heldBinds).isSome then countDup t i.die 1
        else modDraw t p.ticket fun d => { d with heldBinds := mput p.ordinal p.data d.heldBinds }

/-- Has every geometry team of an instance ended (R296)? -/
def geometryEnded (s : State) (ticket : Nat) (i : Inst) : Bool :=
  (i.bound.filter fun b => !b.1).length == i.gridTeams &&
  !(s.teams.any fun t => t.2.bind.ticket == ticket && !bitB t.2.bind.tx 31)

/-- May the sequencer of an instance be drained? -/
def drainReady (s : State) (ticket : Nat) : Bool :=
  match mfind ticket s.insts with
  | none => false
  | some i =>
    match i.draw with
    | none => false
    | some d => !d.drained && geometryEnded s ticket i && !(s.pushes.any fun p => p.2.ticket == ticket)

/-- Nothing of an instance is on its way to a raster unit. -/
def rasterEmpty (s : State) (ticket : Nat) : Bool := !(s.raster.any fun e => e.2.ticket == ticket)

/-- SEQUENCER_DRAIN: what is held beyond a missing ordinal is discarded and counted in GAP (R296); with nothing on its
way to a raster unit the open groups close. -/
def execSequencerDrain (ticket : Nat) (s : State) : Out := .next <|
  if !drainReady s ticket then s
  else
    match mfind ticket s.insts with
    | none => s
    | some i =>
      let n := match i.draw with
        | some d => d.held.length + d.heldBinds.length
        | none => 0
      let s1 := countGap (modDraw s ticket fun d => { d with held := [], heldBinds := [], drained := true }) i.die n
      if rasterEmpty s1 ticket then closeAll s1 ticket else s1

/-! ## Raster units (R300, R302) -/

/-- Is an item the oldest of its owner, which does not wait to launch a closed group (R300, R303)? -/
def rasterReady (s : State) (id : Nat) (it : RasterItem) : Bool :=
  !(s.raster.any fun e => decide (e.1 < id) && e.2.ticket == it.ticket && e.2.core == it.core) &&
  !(s.closed.any fun e => e.2.ticket == it.ticket && e.2.core == it.core)

/-- PRIMITIVE_RASTER: an owner takes its next primitive and emits its quads (R300 to R302). -/
def execPrimitiveRaster (id : Nat) (s : State) : Out := .next <|
  match mfind id s.raster with
  | none => s
  | some it =>
    if !rasterReady s id it then s
    else
      let s1 := { s with raster := merase id s.raster }
      match drawOf s it.ticket with
      | none => s1
      | some d =>
        let tris := primTris it.state it.prim
        let tiles := (tris.flatMap fun t => t.tiles it.state).foldl (fun ts t => insertNat t ts) []
        let mine := tiles.filter fun t => d.owner t == some it.core
        let s2 := mine.foldl (fun t tile => (tileQuads it.ordinal it.state it.prim tris tile).foldl (emitQuad it.ticket it.core tile) t) s1
        if d.drained && rasterEmpty s2 it.ticket then closeAll s2 it.ticket else s2

/-- PIXEL_GROUP_IDLE: no quad has been appended for 256 footing clocks, and the group of a tile closes (R302). -/
def execPixelGroupIdle (ticket tile : Nat) (s : State) : Out := .next <| closeGroup s ticket tile

/-! ## Pixel group start (R304) -/

/-- A triangle of the words a quad keeps. -/
def Quad.triOf (q : Quad) : Tri :=
  let w := fun (i : Nat) => q.tri.getD i 0
  { verts := (List.range 3).map fun i => { x := w (4 * i), y := w (4 * i + 1), z := w (4 * i + 2), w := w (4 * i + 3) }
    pos := q.pos }

/-- The window depth at a point (Table 17.5, V[3]). -/
def depthAt (q : Quad) (p : Int × Int) : Nat :=
  let t := q.triOf
  let ws := fun (i : Nat) => (t.v i).w
  let a := edgeAt (t.p 0) (t.p 1) (t.p 2)
  let w3 := ws 0 * ws 1 * ws 2
  let sum := t.edge 0 p * (t.v 0).z * (ws 1 * ws 2) + t.edge 1 p * (t.v 1).z * (ws 0 * ws 2) +
    t.edge 2 p * (t.v 2).z * (ws 0 * ws 1)
  roundRat (recFx q.state 0x10 * sum + recFx q.state 0x14 * (a * w3)) (a * w3).toNat (-149)

/-- %bary.u and %bary.v at a point in 1/256 pixel: the weights of vertices 1 and 2 of the unclipped primitive; free
where they have no value (Table 17.5). -/
def baryAt (s : State) (q : Quad) (p : Int × Int) : Nat × Nat :=
  let vs := primVerts q.prim
  let f := fun (i : Nat) =>
    let v := vs.getD i ⟨0, 0, 0, 0⟩
    (256 * winX q.state v - p.1 * v.w * 2 ^ 149, 256 * winY q.state v - p.2 * v.w * 2 ^ 149)
  let cross := fun (i j : Nat) => (f i).1 * (f j).2 - (f j).1 * (f i).2
  let b0 := cross 1 2
  let b1 := cross 2 0
  let b2 := cross 0 1
  let d := b0 + b1 + b2
  if d == 0 then (Config.freeNat s.tick (2 ^ 40 + q.x) % 2 ^ 32, Config.freeNat s.tick (2 ^ 41 + q.x) % 2 ^ 32)
  else
    let sg : Int := if d < 0 then -1 else 1
    (roundRat (sg * b1) d.natAbs 0, roundRat (sg * b2) d.natAbs 0)

/-- The lowest bit of a mask of four, 0 if none. -/
def lowestBit (m : Nat) : Nat := ((List.range 4).find? fun i => bitB m i).getD 0

/-- What a lane of a pixel group is: its quad, its pixel and, with SSHADE, its sample. -/
def laneOf (c : ClosedGroup) (l : Nat) : Option (Quad × Nat × Option Nat) :=
  if c.sshade then
    (c.quads[l / 4 / c.samples]?).map fun q => (q, l % 4, some (l / 4 % c.samples))
  else (c.quads[l / 4]?).map fun q => (q, l % 4, none)

/-- The start of one lane (Table 17.5): V[0] to V[3], and its pixel registers. -/
def laneStart (s : State) (c : ClosedGroup) (l : Nat) : Option (List Nat × PixelLane) :=
  (laneOf c l).map fun (q, p, smp) =>
    let px := (quadPixels q.x q.y).getD p (0, 0)
    let cov := q.cover.getD p 0
    let pt := pixelPoint px.1 px.2 (match smp with
      | none => (8, 8)
      | some i => samplePos c.samples i)
    let own := match smp with
      | none => cov
      | some i => if bitB cov i then 2 ^ i else 0
    let b := baryAt s q pt
    ([fieldAt q.prim 0x30 4, fieldAt q.prim 0x34 4 % 2 ^ 24, fieldAt q.prim 0x38 4, depthAt q pt],
      { x := BitVec.ofNat 32 px.1, y := BitVec.ofNat 32 px.2
        sample := BitVec.ofNat 32 (smp.getD (lowestBit cov)), cover := BitVec.ofNat 32 own
        u := BitVec.ofNat 32 b.1, v := BitVec.ofNat 32 b.2, prim := BitVec.ofNat 32 q.ordinal })

/-- A pixel group at its start. -/
def pixelGroup (s : State) (t : Team) (num : Nat) (c : ClosedGroup) : Group :=
  let ls := (List.range 32).map (laneStart s c)
  let g := startGroup t num .vector t.hdr.vecEntry fun l => (ls.getD l none).isSome
  let g1 := { g with pixel := some { lanes := ls.map fun o => (o.map Prod.snd).getD {}, ticket := c.ticket, tile := c.tile, batch := c.batch } }
  (ls.mapIdx fun l o => (l, (o.map Prod.fst).getD [])).foldl (fun g e =>
    (e.2.mapIdx fun n x => (n, x)).foldl (fun g v => g.setV v.1 e.1 (.ok (BitVec.ofNat 32 v.2))) g) g1

/-- The pool team of an instance on a core. -/
def poolTeam (s : State) (ticket core : Nat) : Option (Nat × Team) :=
  s.teams.find? fun t => t.2.bind.ticket == ticket && bitB t.2.bind.tx 31 && t.2.bind.tx % 2 ^ 31 == core && t.1 < copyOne

/-- Is a pool slot free: never used, or its group has exited with its surface operations applied (R303)? -/
def slotFree (s : State) (tid n : Nat) : Bool :=
  match mfind n (teamOf s tid).groups with
  | none => true
  | some g => g.exited && !groupFooting s tid n

/-- The free slot that a closed group takes: its pool team and the slot. -/
def poolSlot (s : State) (c : ClosedGroup) : Option (Nat × Nat) :=
  match poolTeam s c.ticket c.core with
  | none => none
  | some (tid, t) =>
    if !teamRuns s tid t then none
    else ((List.range t.hdr.vecGroups).find? fun n => slotFree s tid n && (!t.paired || slotFree s (twinOf tid) n)).map fun n => (tid, n)

/-- May a closed group be launched: in batch order of its screen tile, into a free slot (R302, R303)? -/
def launchSlot (s : State) (id : Nat) (c : ClosedGroup) : Option (Nat × Nat) :=
  if s.closed.any fun e => decide (e.1 < id) && e.2.ticket == c.ticket && e.2.tile == c.tile then none else poolSlot s c

/-- Forget the batch of a pixel group whose slot is taken again. -/
def finishBatch (s : State) (tid n : Nat) : State :=
  match (mfind n (teamOf s tid).groups).bind Group.pixel with
  | none => s
  | some p => modDraw s p.ticket fun d =>
      { d with batches := mmod p.tile (fun b => { b with unfinished := b.unfinished.filter (· != p.batch) }) d.batches }

/-- PIXEL_GROUP_LAUNCH: a closed group starts in a free slot of its pool team, in both copies of a paired one (R303,
R304). -/
def execPixelGroupLaunch (id : Nat) (s : State) : Out := .next <|
  match mfind id s.closed with
  | none => s
  | some c =>
    match launchSlot s id c with
    | none => s
    | some (tid, n) =>
      let s1 := { finishBatch s tid n with closed := merase id s.closed }
      let put := fun (u : State) (k : Nat) => modTeam u k fun t => { t with groups := mput n (pixelGroup s t n c) t.groups }
      let s2 := put s1 tid
      if (teamOf s tid).paired then put s2 (twinOf tid) else s2

end Sys2Proof.Machine
end

