-- ==== Sys2Proof/Machine/DispatchEv.lean ====
section
/-!
DEFINITION. Dispatch (07_launch.md R135 to R138): bind records and their checks, starting and restoring teams
(19_faults.md R348, R353), the end of a team with its write-back (10_local.md R188), the churn (08_issue.md R158,
R159), and the marks of the issue order (R141, R145).
-/

namespace Sys2Proof.Machine

open Sys2Proof

/-! ## What teams hold on a core -/

/-- Lane-register granules of a team, satellites at the vector budget. -/
def Hdr.vregGranules (h : Hdr) : Nat := (h.copyGroups * h.copyRegs + (h.vecGroups + h.satellites) * h.vecRegs) / 8

/-- Group entries of a team, satellites counted. -/
def Hdr.entries (h : Hdr) : Nat := h.copyGroups + h.vecGroups + h.satellites

/-- Do two ranges overlap? -/
def rangesMeet (a n b m : Nat) : Bool := n != 0 && m != 0 && decide (a < b + m) && decide (b < a + n)

/-- The teams that hold ranges of a core. -/
def teamsOn (s : State) (core : Nat) : List Team :=
  (s.teams.filter fun e => e.2.slot.isSome && e.2.core == core).map Prod.snd

/-- Does a range of the record overlap the same range of a team on the core? -/
def takes (ts : List Team) (a n : Nat) (f : Team → Nat × Nat) : Bool := ts.any fun t => rangesMeet a n (f t).1 (f t).2

/-- The core-store ranges of a team (R174). -/
def coreRanges (b : Bind) (h : Hdr) : List (Nat × Nat) := [(b.scrBase, h.scratchGr), (b.staBase, h.stashGr)]

/-- Check 0x86: granules within 24, disjoint, and enough left for every first-level cache request (R174). -/
def storeBad (ts : List Team) (b : Bind) (h : Hdr) : Bool :=
  let mine := coreRanges b h
  let others := ts.flatMap fun t => coreRanges t.bind t.hdr
  let used := (mine ++ others).foldl (fun n r => n + r.2) 0
  let most := ts.foldl (fun n t => max n t.hdr.l1Gr) (max 2 h.l1Gr)
  (mine.any fun r => decide (24 < r.1 + r.2)) || rangesMeet b.scrBase h.scratchGr b.staBase h.stashGr ||
  (mine.any fun r => others.any fun o => rangesMeet r.1 r.2 o.1 o.2) || decide (24 < used + most)

/-- Check 0x89: the matrix-thread slot (Table 7.7). -/
def mslotBad (s : State) (core : Nat) (b : Bind) (h : Hdr) : Bool :=
  if !h.matrix then b.mslot != 0xFF
  else
    decide (16 ≤ b.mslot) ||
      s.teams.any fun e => e.2.slot.isSome && e.2.core / 4 == core / 4 && e.2.hdr.matrix && e.2.bind.mslot == b.mslot

/-- Every target that some line of a granule may meet (R56). -/
def granuleTargets : List Nat := range' 0 42 ++ range' 48 8

/-- The addresses at which the answer of the access tables may change within an area. -/
def areaPoints (s : State) (lo n : Nat) : List Nat :=
  lo :: (s.acl.flatMap fun e => [e.2.base * 2 ^ 14, (e.2.limit + 1) * 2 ^ 14]).filter fun a => decide (lo < a) && decide (a < lo + n)

/-- Do the access tables grant a core read and write of an area under CID 0 (check 0x8A, R387)? Where they disagree,
either answer. -/
def areaGranted (s : State) (core lo n : Nat) : Bool :=
  let m := coreMaster core
  let asks := (areaPoints s lo n).flatMap fun pa => ([Access.read, Access.write] : List Access).map fun k => (pa, k)
  let ans := fun (a : Nat × Access) => granuleTargets.map fun t => targetAllows s t m 0 a.1 a.2
  inHbm (lo + n - 1) &&
  (if asks.all fun a => (ans a).all id then true
    else if asks.any fun a => !(ans a).any id then false else Config.freeBool s.tick lo)

/-! ## The checks of Table 7.7 -/

/-- What a record that passes binds. -/
inductive Binding
  /-- a team that starts; copy 1 where the team is paired and its first copy is bound -/
  | fresh (tid : Nat)
  /-- an image to restore (R348) -/
  | restore (tid : Nat)
deriving DecidableEq, Repr

/-- The header of the team of a record. -/
def Bind.hdrOf (b : Bind) (i : Inst) : Hdr := if bitB b.tx 31 then i.pix else i.hdr

/-- A key for a starting team: its SAVE, or where a team is already kept under that SAVE another key of it, since no check
of Table 7.7 forbids it (R137, log 67). -/
def freshKey (s : State) (save : Nat) : Nat :=
  let keys := (List.range 4096).map fun n => save + 2 * copyOne * n
  (keys.find? fun k => (mfind k s.teams).isNone && (mfind (k + copyOne) s.teams).isNone).getD save

/-- What the record binds, none where its team is already bound (check 0x82, R348, R353). A SAVE whose area holds an image
restores it (R348). -/
def bindingOf (s : State) (b : Bind) (i : Inst) (core : Nat) : Option Binding :=
  let image := fun (tid : Nat) (t : Team) => if t.loc == .saved && t.image && !t.held then some (Binding.restore tid) else none
  let kept := s.teams.filter fun e => e.1 % copyOne == b.save && !isCopy1 e.1
  if !i.bound.contains b.coords then
    match kept.find? fun e => e.2.loc == .saved && e.2.image with
    | some e => image e.1 e.2
    | none => some (.fresh (freshKey s b.save))
  else
    match kept.find? fun e => e.2.bind.ticket == b.ticket && e.2.bind.coords == b.coords with
    | none => none
    | some (k, t) =>
      if t.loc == .saved then image k t
      else if !t.paired || t.core / 4 == core / 4 || t.slot.isNone then none
      else
        match mfind (k + copyOne) s.teams with
        | none => some (.fresh (k + copyOne))
        | some u => image (k + copyOne) u

/-- Check 0x82 on the coordinates (Table 7.7). -/
def coordsBad (b : Bind) (i : Inst) (core : Nat) : Bool :=
  let x := b.tx % 2 ^ 31
  if bitB b.tx 31 then
    match i.draw with
    | none => true
    | some d => b.ty != 0 || b.tz != 0 || x != core || !(d.ua ++ d.ub).contains core
  else
    (nodeKind i.node == 1 || nodeKind i.node == 3) &&
    (fieldAt i.node 0x28 4 ≤ x || fieldAt i.node 0x2C 2 ≤ b.ty || fieldAt i.node 0x2E 2 ≤ b.tz)

/-- The code of the first check of Table 7.7 that a record fails, 0 for none. -/
def bindCode (s : State) (b : Bind) (core : Nat) : Nat :=
  if b.cmd != 1 || b.reserved != 0 then 0x81
  else
    match mfind b.ticket s.insts with
    | none => 0x82
    | some i =>
      if coordsBad b i core then 0x82
      else
        match bindingOf s b i core with
        | none => 0x82
        | some _ =>
          let h := b.hdrOf i
          let ts := teamsOn s core
          if b.cid != i.cid || b.icn != i.icn || !isCurrent s b.cid b.icn then 0x83
          else if (coreOf s core).fenced || (coreOf s core).retired then 0x84
          else if 512 < b.vregBase + h.vregGranules || takes ts b.vregBase h.vregGranules (fun t => (t.bind.vregBase, t.hdr.vregGranules)) then 0x85
          else if storeBad ts b h then 0x86
          else if 1024 < b.barBase + h.barriers || takes ts b.barBase h.barriers (fun t => (t.bind.barBase, t.hdr.barriers)) then 0x87
          else if 64 < b.gslot + h.entries || takes ts b.gslot h.entries (fun t => (t.bind.gslot, t.hdr.entries)) then 0x88
          else if mslotBad s core b h then 0x89
          else if !areaGranted s core (saveBase b h false) h.saveBytes ||
              (h.paired && !areaGranted s core (saveBase b h true) h.saveBytes) then 0x8A
          else if nodeKind i.node != 1 && nodeKind i.node != 3 then 0x8B
          else 0

/-! ## Starting and restoring (R137, R175, R348, R353) -/

/-- The scratch image in the save area of a team, which its restore brings back (R178). -/
def scratchImage (s : State) (t : Team) : Map Byte :=
  let lo := t.scratchPa 0
  (s.mem.filter fun e => lo ≤ e.1 && e.1 < lo + t.hdr.scratchBytes).map fun e => (e.1 - lo, e.2)

/-- A restored team on its new core: its image is taken, and resolutions are applied (R348). -/
def restored (s : State) (t : Team) (b : Bind) (slot core : Nat) : Team :=
  Team.applyActions { t with
    bind := b, slot := some slot, core := core, age := s.nextId, loc := .resident, image := false, codeFrom := s.tick
    scratch := scratchImage s t, savedOps := [] }

/-- The matrix operations saved with a team are accepted again in their order (R272). -/
def acceptAgain (s : State) (ops : List MxOp) : State :=
  ops.foldl (fun u o => { u with mxops := mput u.nextId o u.mxops, nextId := u.nextId + 1 }) s

/-- Copy 0 is the copy on the lower cluster (R353): once both are resident, they change places where it is not. -/
def orderCopies (s : State) (save : Nat) : State :=
  match mfind save s.teams, mfind (save + copyOne) s.teams with
  | some a, some b =>
    if b.core / 4 < a.core / 4 && a.loc == .resident && b.loc == .resident then
      let s1 := setTeam s save { a with bind := b.bind, slot := b.slot, core := b.core, age := b.age }
      setTeam s1 (save + copyOne) { b with bind := a.bind, slot := a.slot, core := a.core, age := a.age }
    else s
  | _, _ => s

/-- The first-level cache granules a team takes are written back and invalidated (R175). -/
def clearStore (s : State) (core : Nat) : State :=
  dropClean (flushCore (takeSnoops s fun n => !n.stash && n.who == core) core) core

/-- Bind a team to a core: it starts, or its image is restored. -/
def bindTeam (s : State) (b : Bind) (slot core : Nat) (i : Inst) (k : Binding) : State :=
  let s0 := clearStore s core
  let b1 := { b with result := 1 }
  let s1 :=
    match k with
    | .fresh tid =>
      let t := startTeam s0 b1 slot core i
      let u := setTeam s0 tid { t with copy1 := isCopy1 tid }
      { u with insts := mput b.ticket { i with bound := if i.bound.contains b.coords then i.bound else i.bound ++ [b.coords] } u.insts }
    | .restore tid =>
      let t := restored s0 (teamOf s0 tid) b1 slot core
      let u := acceptAgain ((hwWrite (setTeam s0 tid t) (coreMaster core) (saveBase b1 t.hdr t.copy1 + 6) (toBytes 2 0)).1)
        (teamOf s0 tid).savedOps
      { u with
        copies := u.copies.map fun (c : Nat × CopyOp) => if c.2.team == tid then (c.1, { c.2 with core := core }) else c
        insts := mput b.ticket { i with bound := if i.bound.contains b.coords then i.bound else i.bound ++ [b.coords] } u.insts }
  let key := match k with
    | .fresh tid => copy0 tid
    | .restore tid => copy0 tid
  let s2 := orderCopies { s1 with slots := mset {} slot b1 s1.slots, nextId := s1.nextId + 1 } key
  (bothCopies s2 key).foldl (fun u k => if (teamOf u k).loc == .resident then writeLocator u (teamOf u k) .resident else u) s2

/-- The offset in BAR0 of a slot's bind record (Tables 20.13 and 20.15). -/
def slotOffset (die slot : Nat) : Nat := 0x10000 + 0x40000 * die + 0x10000 + 32 * slot

/-- BIND_SUBMIT: CMD is written in a bind record (R135, R137). -/
def execBindSubmit (die slot cmd : Nat) (host : Bool) (s0 : State) : Out := .next <|
  let s := hostTouch s0 host
  let key := die * 2048 + slot
  if 2 ≤ die || 2048 ≤ slot then s
  else if host && !bitB s.ctl.hmode 0 then refuseHost s (slotOffset die slot) cmd
  else
    let b := { mget {} key s.slots with cmd := cmd }
    let core := 128 * die + slot / 16
    if b.result == 1 then
      let s1 := { s with slots := mset {} key { b with cmd := 0 } s.slots }
      if host && cmd != 0 then logError s1 { kind := 4, addr := slotOffset die slot, detail := cmd } else s1
    else if cmd == 0 then { s with slots := mset {} key b s.slots }
    else
      match bindCode s b core with
      | 0 =>
        (match mfind b.ticket s.insts with
          | none => s
          | some i => (match bindingOf s b i core with
            | none => s
            | some k => bindTeam s b key core i k))
      | c => { s with slots := mset {} key { b with cmd := 0, result := c } s.slots }

/-! ## The end of a team (R138, R188) -/

/-- Has every group and satellite of a team ended, with its spawn memory empty, and for a pool team the draw behind it
(R138, R158, R303)? -/
def Team.finished (t : Team) (s : State) (tid : Nat) : Bool :=
  t.loc == .resident && (t.groups.all fun g => g.2.exited) && t.spawn.isEmpty &&
  (if bitB t.bind.tx 31 then
    match mfind t.bind.ticket s.insts with
    | none => true
    | some i => (match i.draw with
      | none => true
      | some d => d.drained && rasterEmpty s t.bind.ticket && !(s.closed.any fun c => c.2.ticket == t.bind.ticket && c.2.core == t.core) &&
          !(d.open_.any fun g => g.2.core == t.core))
  else true) &&
  !(s.copies.any fun c => c.2.team == tid) && !(s.sfops.any fun o => o.2.team == tid) && !(s.texops.any fun o => o.2.team == tid) &&
  !(s.pushes.any fun p => p.2.team == tid) && !(s.evicts.any fun e => e.2.team == tid) &&
  !(s.mxops.any fun o => o.2.team == tid && o.2.faulted.isNone)

/-- The record and report of a fault at team end (R188, Table 20.12). -/
def teamEndFault (s : State) (t : Team) (group code va : Nat) : State :=
  let f : FaultRec := { code := code, teamend := true, copy1 := t.copy1, group := group, cid := t.bind.cid, icn := t.bind.icn, core := t.core
                        addr := va, save := t.bind.save }
  let s1 := (addRecord s f).1
  logError s1 { kind := 5, code := code, cid := some t.bind.cid, icn := t.bind.icn, addr := va, detail := t.bind.save }

/-- The dirty bytes of a stash line are discarded. -/
def discardLine (s : State) (tid line : Nat) : State :=
  modTeam s tid fun t => { t with dirty := t.dirty.filter fun o => o / 128 != line }

/-- The write-back of one line at team end (R188): a not-present fault is queued and the line waits for its entry; any other
discards the line. -/
def endLine (s : State) (tid : Nat) (l : Nat × Nat) : State :=
  let t := teamOf s tid
  let who := { whoCore s tid with threads := [teamKey tid] }
  let lost := fun (u : State) (code va : Nat) => teamEndFault (discardLine u tid l.2) t 0xFF code va
  match writeBackLine s who l.1 l.2 with
  | (u, none) => u
  | (u, some f) =>
    if f.wait.isSome then u
    else
      match f.tr with
      | some e =>
        if f.code != 1 || t.denied.contains (granuleOf f.va) then lost u f.code f.va
        else if faultRoom u who.core who.cid f.va then
          modTeam (openFault u who.core who.cid who.icn f.va f.code Kind.write.code e.lvl e.mal true true) tid fun x =>
            { x with endWaits := insertNat (granuleOf f.va) x.endWaits }
        else u
      | none => lost u f.code f.va

/-- The lines that the team-end write-back may try now: they do not wait for the release of an entry (R188). -/
def endLines (s : State) (tid : Nat) : List (Nat × Nat) :=
  let t := teamOf s tid
  (t.dirtyLines fun _ => true).filter fun l => !t.endWaits.contains (granuleOf l.1)

/-- Codes recorded or on their way that no fence has taken are reported (R57, R229). -/
def endReports (s : State) (tid : Nat) : State :=
  (teamOf s tid).groups.foldl (fun u g =>
    let v := collectReports u tid g.1
    let h := (teamOf v tid).group g.1
    let t := teamOf v tid
    [h.reportCode, h.copyCode].foldl (fun w c => if c == 0 then w else teamEndFault w t g.1 c 0) v) s

/-- The team is gone: its slot reads 2, its ranges return, and its instance counts it once, a paired one with its last
copy (R138). -/
def retireTeam (s : State) (tid : Nat) : State :=
  let t := teamOf s tid
  let s0 := writeLocator (t.groups.foldl (fun u g => finishBatch u tid g.1) (leaveGroups s tid)) t .ended
  let last := !t.paired || (mfind (twinOf tid) s0.teams).isNone
  { s0 with
    teams := merase tid s0.teams
    slots := match t.slot with
      | some k => mmod k (fun b => { b with result := 2 }) s0.slots
      | none => s0.slots
    mxops := s0.mxops.filter fun o => o.2.team != tid
    snoops := s0.snoops.filter fun e => !(e.2.stash && e.2.who == tid)
    relaunches := if last then merase t.bind.save s0.relaunches else s0.relaunches
    insts := if last then mmod t.bind.ticket (fun i => { i with ended := i.ended + 1 }) s0.insts else s0.insts
    cores := s0.cores.map fun e =>
      (e.1, { e.2 with holder := if e.2.holder == some tid then none else e.2.holder
                       asking := e.2.asking.filter fun a => a.1 != tid }) }

/-- TEAM_END: dispatch writes back the stash, and once no dirty byte is left reports what is left to report and ends
the team (R138, R188). Copy 1 of a paired team writes nothing back: its stash leaves the package through copy 0. -/
def execTeamEnd (team : Nat) (s : State) : Out := .next <|
  match mfind team s.teams with
  | none => s
  | some t =>
    if !t.finished s team then s
    else
      let s1 := if t.copy1 then modTeam s team fun t => { t with dirty := [] } else (endLines s team).foldl (fun u l => endLine u team l) s
      if ((teamOf s1 team).dirtyLines fun _ => true).isEmpty then retireTeam (endReports s1 team) team else s1

/-! ## The churn (R158, R159) -/

/-- Satellite groups that run. -/
def Team.satellitesRunning (t : Team) : Nat := (t.groups.filter fun g => g.2.satellite && !g.2.exited).length

/-- The target for which the churn forms a group now: the first, by oldest record, that may (R158). -/
def Team.churnTarget (t : Team) : Option Nat :=
  let origins := t.groups.filter fun g => !g.2.satellite && g.2.role != .matrix
  let ended := origins.all fun g => g.2.exited
  if t.hdr.satellites ≤ t.satellitesRunning then none
  else
    (t.spawn.find? fun r =>
      let mine := t.spawn.filter fun q => q.target == r.target
      ended || decide (32 ≤ mine.length) || (match mine with
        | q :: _ => q.old
        | [] => false)).map SpawnRec.target

/-- The number of the next satellite group (R123): the first from c + v up that no running group has. -/
def Team.satelliteNum (t : Team) : Nat :=
  let base := t.hdr.copyGroups + t.hdr.vecGroups
  ((range' base t.hdr.satellites).find? fun n => (t.group n).exited).getD base

/-- A satellite group over its records (R159). -/
def satelliteGroup (t : Team) (num target : Nat) (rs : List SpawnRec) : Group :=
  let g := { startGroup t num .vector target fun l => decide (l < rs.length) with satellite := true }
  (rs.mapIdx fun l r => (l, r)).foldl (fun g e =>
    (e.2.vals.mapIdx fun n x => (n, x)).foldl (fun h v => h.setV v.1 e.1 v.2) g) g

/-- The first `n` records of a target, and the records left. -/
def takeRecords (target : Nat) : Nat → List SpawnRec → List SpawnRec × List SpawnRec
  | _, [] => ([], [])
  | n, r :: rs =>
    if r.target == target && n != 0 then
      let p := takeRecords target (n - 1) rs
      (r :: p.1, p.2)
    else
      let p := takeRecords target n rs
      (p.1, r :: p.2)

/-- SATELLITE_FORM: the churn forms a satellite group from up to 32 records of one target (R158, R159). -/
def execSatelliteForm (team : Nat) (s : State) : Out := .next <|
  match mfind team s.teams with
  | none => s
  | some t =>
    match (if teamRuns s team t then t.churnTarget else none) with
    | none => s
    | some target =>
      let p := takeRecords target 32 t.spawn
      let n := t.satelliteNum
      -- the records are read from spawn memory as the core's own requests (R387)
      let s1 := p.1.foldl (fun u r => hwDenied u (coreMaster t.core) (t.spawnPa r)) s
      setTeam s1 team { t with spawn := p.2, groups := mput n (satelliteGroup t n target p.1) t.groups }

/-- The oldest records of each target that wait unmarked: the first record of a target that is not marked is marked. -/
def markOld : List Nat → List SpawnRec → List SpawnRec
  | _, [] => []
  | seen, r :: rs =>
    if r.old || seen.contains r.target then r :: markOld (r.target :: seen) rs else { r with old := true } :: rs

/-- SPAWN_WAIT_TIMEOUT: the oldest record of a target has waited 2048 core clocks (R158). -/
def execSpawnWaitTimeout (team : Nat) (s : State) : Out := .next <|
  modTeam s team fun t => { t with spawn := markOld [] t.spawn }

/-! ## Marks of the issue order (R141, R145) -/

/-- May a path with this wait be ready: it waits for nothing, what it waits for has come, or it waits for a resource that
another instruction may free (R140)? -/
def Wait.mayIssue (s : State) (t : Team) : Wait → Bool
  | .none => true
  | .handle e q => ((mfind e t.handles).map fun h => h.seq != q || h.complete).getD true
  | .handleFree => t.freeHandle.isSome
  | .context cid => !inTransition s cid
  | .pushed id => (mfind id s.pushes).isNone
  | .room | .faultRoom | .translations | .locator _ | .copies | .footing | .drain | .freeing _ | .second => true
  | _ => false

/-- STARVATION_TIMEOUT: a ready group has issued nothing for 4096 core clocks (R141). -/
def execStarvationTimeout (team group : Nat) (s : State) : Out := .next <|
  modGroup s team group fun g =>
    if g.paths.any fun p => p.2.wait.mayIssue s (teamOf s team) then { g with starved := true } else g

/-- PATH_AGEING_EXPIRY: the ageing count of a path has reached 1024 (R145). -/
def execPathAgeingExpiry (team group path : Nat) (s : State) : Out := .next <|
  modGroup s team group fun g =>
    { g with paths := mmod path (fun p => if 1024 ≤ p.age then { p with due := true } else p) g.paths }

end Sys2Proof.Machine
end

