-- ==== Sys2Proof/Machine/FabricEv.lean ====
section
/-!
DEFINITION. Requests and responses on their way: first-level cache evictions, arrivals at targets under the drop rules
and the access tables, responses, reports and snoops (02_contexts.md R44 to R57; 11_memory.md R192; 10_local.md R185),
and the order in which the shared cache slices take requests (18_fabric.md R320).
-/

namespace Sys2Proof.Machine

open Sys2Proof

/-! ## Evictions (R192) -/

/-- The bytes of a core's first-level cache line, by address. -/
def lineCells (s : State) (core line : Nat) : List (Nat × L1Cell) :=
  s.l1.filter fun e => keyCore e.1 == core && keyPa e.1 / 128 == line

/-- L1_EVICTION: the line leaves the core's first-level cache, and its dirty bytes are on their way to its slice, each
writer's as a request of its own (R44, R192). -/
def execL1Eviction (core line : Nat) (s : State) : Out := .next <|
  let s1 := { s with l1 := s.l1.filter fun e => !(keyCore e.1 == core && keyPa e.1 / 128 == line) }
  (backRequests s core line (lineCells s core line)).foldl (fun t q =>
    { t with requests := mput t.nextId q t.requests, nextId := t.nextId + 1 }) s1

/-! ## The order of a slice (R320) -/

/-- The requests waiting at a target, oldest first. -/
def waitingAt (s : State) (target : Nat) : List (Nat × Request) := s.requests.filter fun e => e.2.target == target

/-- The request a slice takes next (R320): the oldest that has waited too long, else the oldest of the highest PRIO. -/
def nextRequest (s : State) (slice : Nat) : Option Nat :=
  let rs := waitingAt s slice
  match rs.find? fun e => e.2.aged with
  | some e => some e.1
  | none =>
    let prio := fun (e : Nat × Request) => classCtl s slice (e.2.cls % 8) 18 16
    match rs with
    | [] => none
    | e :: l => some ((l.foldl (fun a b => if prio a < prio b then b else a) e).1)

/-- SLICE_AGE_TIMEOUT: the oldest request of a slice has waited 4096 core clocks (R320). -/
def execSliceAgeTimeout (slice : Nat) (s : State) : Out := .next <|
  match (waitingAt s slice).find? fun e => !e.2.aged with
  | some e => { s with requests := mput e.1 { e.2 with aged := true } s.requests }
  | none => s

/-! ## Arrivals -/

/-- TARGET_REQUEST: the slice takes its next request. It drops a stale one (R46, R48), checks its access table (R56),
and performs it: a write-back writes, a read sends its line back. A denied write-back is reported to its writer
(R57). -/
def execTargetRequest (id : Nat) (s : State) : Out := .next <|
  match mfind id s.requests with
  | none => s
  | some r =>
    if nextRequest s r.target != some id then s
    else
      let s1 := { s with requests := merase id s.requests }
      if !r.isRead then performBack s1 r
      else if dropped s r.target r.cid r.icn then s1
      else if !lineAllows s (coreMaster r.core) r.cid r.pa .read then logDenial s1 (coreMaster r.core) r.cid r.pa .read
      else
        let s2 := touchSlice s1 r.pa (r.cls % 8) none
        if isMarked s2 r.pa then s2
        else
          { s2 with
            responses := mput s2.nextId { core := r.core, cid := r.cid, icn := r.icn, pa := r.pa, bytes := physBytes s2 r.pa 128 } s2.responses
            nextId := s2.nextId + 1 }

/-- The port at which a response of a stale incarnation is discarded, if any: a mortar module that it crosses, or the core's
network port (R47). Which module carries it is not told. -/
def orphanPort (s : State) (r : Response) : Option Nat :=
  let ways := wayTargets s (coreMaster r.core) r.pa
  let way := (ways[Config.freeNat s.tick (2 ^ 54 + r.pa) % ways.length]?).toList
  (way ++ [256 + r.core]).find? fun t => dropped s t r.cid r.icn

/-- RESPONSE_ARRIVAL: the core discards a response of a stale incarnation and counts it (R47, R48), or fills the
invalid words of the line (R192). A fill that a write has overtaken is not installed (R195). -/
def execResponseArrival (id : Nat) (s : State) : Out := .next <|
  match mfind id s.responses with
  | none => s
  | some r =>
    let s1 := { s with responses := merase id s.responses }
    if let some port := orphanPort s r then countOrphan s1 port
    else if physBytes s r.pa 128 == r.bytes then l1Fill s1 r.core r.cid r.icn r.pa r.bytes
    else s1

/-- STORE_DENIAL_REPORT: a denial or link loss of a write or reduction is recorded for its group's next fence (R57,
R207). -/
def execStoreDenialReport (id : Nat) (s : State) : Out := .next <|
  match mfind id s.reports with
  | none => s
  | some r => modGroup { s with reports := merase id s.reports } r.team r.group fun g => g.noteReport r.code

/-- SNOOP_INVALIDATE: a directory invalidation clears clean words of a stash or first-level cache line (R185). -/
def execSnoopInvalidate (id : Nat) (s : State) : Out := .next <|
  match mfind id s.snoops with
  | none => s
  | some n => applySnoop { s with snoops := merase id s.snoops } n

end Sys2Proof.Machine
end

