-- ==== Sys2Proof/Machine/SaveEv.lean ====
section
/-!
DEFINITION. Pre-emption and saves (19_faults.md R345 to R349): the pre-emption register, the drain, and the image of a
team in its save area (Tables 19.6 and 19.7).
-/

namespace Sys2Proof.Machine

open Sys2Proof

/-! ## The image (R347) -/

/-- A number that an image holds: its offset, its size and its value. A bit of a mask is a number of its own, added to
the mask. -/
abbrev Piece := Nat × Nat × Nat

/-- The bits that a poisoned value's register or element holds. -/
def PV.raw (f : α → Nat) : PV α → Nat
  | .ok a => f a
  | .bad t => t.toNat

/-- A piece that is there only for poison. -/
def ifBad (x : PV α) (off n v : Nat) : List Piece := if x.poisoned then [(off, n, v)] else []

/-- A register address as an image holds it: none is all ones. -/
def addrOr (a : Option Nat) : Nat := a.getD (2 ^ 56 - 1)

/-- The state word of a thread (Table 19.7). -/
def threadState (g : Group) (t : Thread) : Nat :=
  b2n t.exited + 2 * b2n t.held + 4 * b2n t.released + t.path % 256 * 2 ^ 8 + (mget {} t.path g.paths).age * 2 ^ 16 +
    t.loops.length % 8 * 2 ^ 32 + t.rdepth % 8 * 2 ^ 36

/-- The pieces of a thread: its block, its loop stack from the outermost entry in, its signature and TREC. -/
def threadPieces (g : Group) (l : Nat) : List Piece :=
  let t := g.thread l
  let o := 0x9000 + 48 * l
  [(o, 8, t.pc), (o + 8, 8, addrOr t.meet), (o + 16, 8, addrOr t.repc), (o + 24, 8, addrOr t.remeet), (o + 32, 8, threadState g t)] ++
  (t.loops.reverse.mapIdx fun e x =>
    let p := 0x9600 + 96 * l + 24 * e
    [(p, 8, x.start), (p + 8, 8, x.last), (p + 16, 4, x.rem)]).flatten ++
  [(0xA200 + 8 * l, 8, t.sig.toNat), (0xA300 + 4 * l, 4, t.trec)]

/-- A fault record as an image holds it, with its resolution action in byte 0x3F. -/
def recordPiece (off : Nat) (f : Option FaultRec) : List Piece :=
  match f with
  | none => []
  | some f => [(off, 64, ofBytes f.bytes + (f.action.getD 0) * 2 ^ 504)]

/-- The scope code of a monitor (Table 1.7). -/
def monWord (m : Option (Nat × Scope)) : Nat :=
  match m with
  | none => 0
  | some (va, sc) => va + sc.code.toNat * 2 ^ 56 + 2 ^ 63

/-- The pieces of a group block from offset 0x8400 on, those the matrix thread block also holds (Table 19.7). -/
def groupTail (g : Group) : List Piece :=
  (g.s.flatMap fun e => (0x8400 + 8 * e.1, 8, e.2.raw BitVec.toNat) :: ifBad e.2 0x8600 8 (2 ^ e.1)) ++
  (g.pend.map fun n => (0x8608, 8, 2 ^ n)) ++
  (g.q.flatMap fun e =>
    (match e.2 with
      | .ok b => [(0x8610, 4, b2n b * 2 ^ e.1)]
      | .bad t => [(0x8610, 4, 2 ^ (16 + e.1)), (0x8640 + 4 * e.1, 4, t.toNat)])) ++
  [(0x8614, 4, g.fflags.toNat), (0x8618, 4, g.gstat.toNat), (0x861C, 4, g.recN.toNat), (0x8620, 4, g.urgent % 2 ^ 32),
   (0x8624, 4, g.copyCode + g.reportCode * 2 ^ 8 + b2n g.exited * 2 ^ 16 + b2n g.satellite * 2 ^ 17 + b2n g.reportFirst * 2 ^ 18 +
      b2n g.copyLost * 2 ^ 19), (0x8628, 8, monWord g.mon)] ++
  (g.p.flatMap fun e =>
    let n := e.1 / 32
    let l := e.1 % 32
    match e.2 with
    | .ok b => [(0x8680 + 4 * n, 4, b2n b * 2 ^ l)]
    | .bad t => [(0x86C0 + 4 * n, 4, 2 ^ l), (0x8700 + 128 * n + 4 * l, 4, t.toNat)]) ++
  ((List.range g.threads.length).flatMap (threadPieces g)) ++ recordPiece 0xA380 g.redirected

/-- The pieces of a group block (Table 19.7). -/
def groupPieces (g : Group) : List Piece :=
  (g.v.flatMap fun e =>
    (128 * (e.1 / 32) + 4 * (e.1 % 32), 4, e.2.raw BitVec.toNat) :: ifBad e.2 (0x8000 + 4 * (e.1 / 32)) 4 (2 ^ (e.1 % 32))) ++ groupTail g

/-- The matrix thread block: thread 0 alone, moved to 0x5000. -/
def matrixPieces (g : Group) : List Piece :=
  (groupTail { g with threads := g.threads.take 1 }).filterMap fun p =>
    if 0x8400 ≤ p.1 && p.1 < 0xA380 then some (0x5000 + (p.1 - 0x8400), p.2.1, p.2.2) else none

/-- A barrier as 128 bits (Table 9.1). -/
def barrierWord (b : Barrier) : Nat :=
  b.tx + b.pending * 2 ^ 40 + b.count * 2 ^ 52 + b2n b.valid * 2 ^ 64 + b.epoch * 2 ^ 88 + b.phase * 2 ^ 96

/-- A ring as 32 bits (Table 9.2). -/
def ringWord (g : Ring) : Nat := g.full + g.depth * 2 ^ 16

/-- The pieces of a save area (Table 19.6). The layouts that the spec does not give are left zero (log 18). -/
def imagePieces (s : State) (t : Team) : List Piece :=
  [(0, 4, 0x53415631), (4, 2, 1), (6, 2, t.sflags), (8, 4, relaunchCount s t.bind), (0x10, 16, t.locator .saved),
   (0xC0, 4, t.cls)] ++
  recordPiece 0x40 t.heldRecord ++
  (t.conts.map fun c => (0x80 + 8 * c.1, 8, c.2.pc + c.2.base * 2 ^ 56 + 2 ^ 63)) ++
  (t.rings.map fun g => (0xA0 + 4 * g.1, 4, ringWord g.2)) ++
  (t.windows.flatMap fun w => [(0x200 + 16 * w.1, 8, w.2.base), (0x208 + 16 * w.1, 8, w.2.len + w.2.soff * 2 ^ 32 + w.2.mode * 2 ^ 62)]) ++
  (t.barriers.map fun b => (0x1000 + 16 * b.1, 16, barrierWord b.2)) ++
  (t.groups.flatMap fun g =>
    if g.1 == 32 then matrixPieces g.2 else (groupPieces g.2).map fun p => (0x10000 + 0xC000 * g.1 + p.1, p.2.1, p.2.2)) ++
  (t.scratch.map fun b => (0x190000 + b.1, 1, b.2.toNat)) ++
  (t.stash.map fun b => (0x240000 + b.1, 1, b.2.toNat)) ++
  (t.valid.map fun w => (0x2F0000 + 32 * (w / 32), 4, 2 ^ (w % 32))) ++
  (t.dirty.map fun o => (0x2F0004 + 32 * (o / 128), 16, 2 ^ (o % 128))) ++
  (t.tiles.flatMap fun e =>
    let tile := e.1 / 8192
    let row := e.1 / 64 % 128
    let col := e.1 % 64
    (0x320000 + 32768 * tile + 256 * row + 4 * col, 4, e.2.raw BitVec.toNat) :: ifBad e.2 (0x380000 + 1024 * tile + 8 * row) 8 (2 ^ col))

/-- The pieces of spawn memory (R157, Table 19.6). -/
def spawnPieces (t : Team) : List Piece :=
  t.spawn.map fun r => (0x400000 + r.at_ * (12 + 4 * t.hdr.live), 12 + 4 * t.hdr.live, ofBytes r.bytes)

/-- Write a piece over what the area holds of its mask. -/
def putPart (s : State) (base : Nat) (p : Piece) : State :=
  if p.2.2 == 0 then s else setPhysNat s (base + p.1) p.2.1 (physNat s (base + p.1) p.2.1 + p.2.2)

/-- Write the image of a team: the area is zero but for its pieces (R347). -/
def writeImage (s : State) (t : Team) : State :=
  let base := saveBase t.bind t.hdr t.copy1
  let n := t.hdr.saveBytes
  let s1 := { s with mem := s.mem.filter fun e => !(decide (base ≤ e.1) && decide (e.1 < base + n)) }
  (imagePieces s t ++ spawnPieces t).foldl (fun u p => putPart u base p) s1

/-! ## Starting a save (R345, R346) -/

/-- The locator of a resident team goes to SAVING, for both copies of a paired team. -/
def startSave (s : State) (tid : Nat) : State :=
  (bothCopies s tid).foldl (fun u k =>
    if (teamOf u k).loc == .resident then modTeam (writeLocator u (teamOf u k) .saving) k fun t => { t with loc := .saving } else u) s

/-- The team in a slot. -/
def teamInSlot (s : State) (key : Nat) : Option Nat := (s.teams.find? fun e => e.2.slot == some key).map Prod.fst

/-- The offset in BAR0 of a die's pre-emption register (Table 20.15). -/
def preemptOffset (die : Nat) : Nat := 0x10028 + 0x40000 * die

/-- PREEMPT_SAVE: GO = 1 is written to a die's pre-emption register and the team in SLOT is saved (R345). -/
def execPreemptSave (die slot : Nat) (host : Bool) (s0 : State) : Out := .next <|
  let s := hostTouch s0 host
  if 2 ≤ die then s
  else if host && !bitB s.ctl.hmode 0 then refuseHost s (preemptOffset die) (2 ^ 31 + slot % 2048)
  else if bitB (dieOf s die).preempt 31 then s
  else
    let k := slot % 2048
    match teamInSlot s (die * 2048 + k) with
    | none => modDie s die fun d => { d with preempt := 2 * 2 ^ 24 + k }
    | some tid =>
      let s1 := modDie s die fun d => { d with preempt := 2 ^ 31 + k }
      startSave (modTeam s1 tid fun t => { t with preempt := some die }) tid

/-! ## The end of a save (R346) -/

/-- Has the team drained (R236, R272, R314, R346)? -/
def drained (s : State) (tid : Nat) : Bool :=
  !(s.copies.any fun c => c.2.team == tid && (c.2.kind != .cpw || c.2.line.isSome)) && !(s.texops.any fun o => o.2.team == tid) &&
  !(s.sfops.any fun o => o.2.team == tid) && !(s.pushes.any fun p => p.2.team == tid && !p.2.waits s) &&
  !(s.ctxOps.any fun e => e.2.any fun o => o.kind != 3 && (match o.reg with
    | some (t, _) => t == tid
    | none => false))

/-- The pushes of a team that wait in the vertical queue are called off: their instructions are not yet issued (R314). -/
def callOffPushes (s : State) (tid : Nat) : State :=
  (teamOf s tid).groups.foldl (fun u e => e.2.paths.foldl (fun v p =>
    match p.2.wait with
    | .pushed id =>
      if (mfind id v.pushes).isSome then
        modGroup { v with pushes := merase id v.pushes } tid e.1 fun g => { g with paths := mmod p.1 (fun x => { x with wait := .none }) g.paths }
      else v
    | _ => v) u) s

/-- A path as it is saved: what it waits for is called off, and its instruction issues again on restore (R60, R173, R346).
A barw that has arrived keeps its token, a held fault stays (R173, R337), and a push that has left its queue is not repeated. -/
def PathSt.saved (p : PathSt) : PathSt :=
  match p.wait with
  | .fault => p
  | .pushed _ => p
  | .barrier .. => if p.arrived then p else { p with wait := .none }
  | _ => { p with wait := .none }

/-- A team as it is kept while it is saved: its lease ends (R255), its matrix operations are saved (R272), and clean stash
words will come back invalid (R189). -/
def Team.asSaved (t : Team) (ops : List MxOp) : Team :=
  { t with
    groups := t.groups.map fun g => (g.1, { g.2 with paths := g.2.paths.map fun p => (p.1, p.2.saved) })
    lease := none, savedOps := ops, loc := .saved, image := true, slot := none, preempt := none
    valid := t.valid.filter fun w => (range' (4 * w) 4).all t.dirty.contains
    stashPa := [] }

/-- The team's state is written and it leaves its core. -/
def saveTeam (s : State) (tid : Nat) : State :=
  let s0 := (teamOf s tid).groups.foldl (fun u g => collectReports u tid g.1) (callOffPushes s tid)
  let t0 := teamOf s0 tid
  let mine := s0.mxops.filter fun o => o.2.team == tid && o.2.faulted.isNone
  let t := t0.asSaved (mine.map Prod.snd)
  let s1 := { s0 with
    slots := match t0.slot with
      | some k => mset {} k {} s0.slots
      | none => s0.slots
    mxops := s0.mxops.filter fun o => !(o.2.team == tid && o.2.faulted.isNone)
    ctxOps := (s0.ctxOps.map fun e => (e.1, e.2.filter fun o => match o.reg with
      | some (k, _) => k != tid
      | none => true)).filter fun e => !e.2.isEmpty
    snoops := s0.snoops.filter fun n => !(n.2.stash && n.2.who == tid)
    cores := s0.cores.map fun e =>
      (e.1, { e.2 with holder := if e.2.holder == some tid then none else e.2.holder
                       asking := e.2.asking.filter fun a => a.1 != tid }) }
  -- the image has the valid bits of clean words too (R189)
  let s2 := writeImage (flushTeam (setTeam s1 tid t) t0.core tid) { t with valid := t0.valid }
  -- the pre-emption register ends with the last copy
  match t0.preempt with
  | none => s2
  | some d =>
    if (bothCopies s2 tid).all fun k => (teamOf s2 k).loc == .saved then endPreempt s2 (some d) 1
    else modTeam s2 (twinOf tid) fun u => { u with preempt := some d }

/-- SAVE_COMPLETE: the team has drained; its state is written to its save area, its bind record is cleared and the
locator goes to SAVED (R346). -/
def execSaveComplete (team : Nat) (s : State) : Out := .next <|
  match mfind team s.teams with
  | none => s
  | some t => if t.loc == .saving && drained s team then saveTeam s team else s

end Sys2Proof.Machine
end

