-- ==== Sys2Proof/Machine/ServiceEv.lean ====
section
/-!
DEFINITION. In-service retirement, power and cooling (20_outside.md R376, R377): the service command register and its
effects, the remapping step (16_surfaces.md R279), class control registers (18_fabric.md R318), the power limit and
the clocks.
-/

namespace Sys2Proof.Machine

open Sys2Proof

/-! ## The remapping step (R279) -/

/-- Banks of a stack (R279): a map of 1 KiB. -/
def banksPerStack : Nat := 8192

/-- Does a surface's bank set include the bank (R278)? -/
def inBankSet (s : State) (cid sid bank : Nat) : Bool :=
  let b := 8 * sfField s cid sid 0x10 2
  decide (b ≤ bank) && decide (bank < b + 8 * sfField s cid sid 0x12 2)

/-- The tiles resident on either stack, of LIVE surfaces whose bank set includes the bank. -/
def affectedTiles (s : State) (bank : Nat) : List Nat :=
  (s.tiles.filter fun e => e.2.resident && inBankSet s (tileKeyCid e.1) (tileKeySid e.1) bank).map Prod.fst

/-- The LIVE surfaces of every context, found by the STATE bytes that the table holds. -/
def liveSurfaces (s : State) : List (Nat × Nat) :=
  s.mem.filterMap fun e =>
    let o := e.1 - s.ctl.sfbase
    if s.ctl.sfbase ≤ e.1 && decide (o / 0x10000 < 1024) && o % 64 == 0x28 && e.2 == 1#8 then some (o / 0x10000, o % 0x10000 / 64)
    else none

/-- The pins of an affected surface are cleared: PINNED := 0 and UNPINNED := 1. The skimmer of the stack writes its
entry, as CID 0 (R273, R387, log 58). -/
def unpin (s : State) (stack cid sid : Nat) : State :=
  let f := sfField s cid sid 0x29 1
  (hwWrite s (skimmer stack) (sfEntry s cid sid + 0x29) (toBytes 1 (setBits f 1 0 2))).1

/-- The remapping step after a change of a bank's availability (R279). Every affected tile is spilled before the
interleave changes. -/
def remap (s : State) (stack bank : Nat) (live : Bool) : State :=
  let s1 := modDie s stack fun d => { d with remapGen := (d.remapGen + 1) % 2 ^ 32 }
  let s2 := ((liveSurfaces s1).filter fun p => inBankSet s1 p.1 p.2 bank).foldl (fun t p => unpin t stack p.1 p.2) s1
  let s3 := (affectedTiles s2 bank).foldl (fun t k => spillTile t (tileKeyCid k) (tileKeySid k) (tileKeyTile k)) s2
  modDie s3 stack fun d =>
    { d with deadBanks := if live then d.deadBanks.filter (· != bank) else insertNat bank d.deadBanks }

/-- Retire a bank of the package, or return it to service: nothing where it is so already (R279, R376). -/
def changeBank (s : State) (n : Nat) (live : Bool) : State :=
  let stack := n / banksPerStack
  let bank := n % banksPerStack
  if 2 ≤ stack || (dieOf s stack).deadBanks.contains bank != live then s else remap s stack bank live

/-- Note whether a bank is out of service because it overheated. -/
def setHot (s : State) (n : Nat) (hot : Bool) : State :=
  modDie s (n / banksPerStack) fun d =>
    { d with hotBanks := if hot then insertNat (n % banksPerStack) d.hotBanks else d.hotBanks.filter (· != n % banksPerStack) }

/-- BANK_OVERHEAT: a bank that overheats is retired under R279 (R377). -/
def execBankOverheat (bank : Nat) (s : State) : Out := .next <|
  if 2 * banksPerStack ≤ bank || (dieOf s (bank / banksPerStack)).deadBanks.contains (bank % banksPerStack) then s
  else setHot (changeBank s bank false) bank true

/-- BANK_COOLED: it has cooled and returns to service (R377). -/
def execBankCooled (bank : Nat) (s : State) : Out := .next <|
  if (dieOf s (bank / banksPerStack)).hotBanks.contains (bank % banksPerStack) then setHot (changeBank s bank true) bank false else s

/-! ## Link ports (R368) -/

/-- A port. -/
def portOf (s : State) (p : Nat) : PortSt := mget {} p s.ports
/-- Change a port. -/
def modPort (s : State) (p : Nat) (f : PortSt → PortSt) : State := { s with ports := mset {} p (f (portOf s p)) s.ports }

/-- The width at which a port with so many usable lanes runs: 4, 2 or 1 lanes, 0 for none (Table 20.8). -/
def linkWidth (usable : Nat) : Nat := if 4 ≤ usable then 4 else if 2 ≤ usable then 2 else usable

/-- The width left to a port. -/
def PortSt.width (p : PortSt) : Nat := linkWidth (4 - p.out.length)

/-- The blocked monw on a remote word whose route is gone issues again, and then faults with 0x13 (R213, R368). -/
def wakeRemote (s : State) : State :=
  s.teams.foldl (fun u e =>
    e.2.groups.foldl (fun v g =>
      match g.2.mon with
      | none => v
      | some (va, _) =>
        match checkAccess v (whoCore v e.1) va 8 .read with
        | .bad 0x13 _ =>
          modGroup v e.1 g.1 fun h =>
            { h with paths := h.paths.map fun (p : Nat × PathSt) => match p.2.wait with
                | .monitor _ => (p.1, { p.2 with wait := .none })
                | _ => p }
        | _ => v) u) s

/-- The writes to a peer that are outstanding when its last port goes Down: the latest, as many as the spec leaves open, do
not reach it, and each that may not have is reported with 0x13 (R207, R368, log 3). -/
def losePeer (s : State) (dev : Nat) : State :=
  let mine := (s.peerWrites.filter fun w => w.dev == dev).mapIdx fun i w => (i, w)
  let kept := mine.length - Config.freeNat s.tick (2 ^ 49 + dev) % (mine.length + 1)
  let gone := fun (e : Nat × PeerWrite) => decide (kept ≤ e.1)
  let s1 := (mine.filter gone).reverse.foldl (fun t e => setPeer t e.2.dev e.2.pa e.2.old) s
  let s2 := mine.foldl (fun t e =>
    if gone e || Config.freeBool s.tick (2 ^ 49 + 1024 * e.1 + dev) then addReport t e.2.team e.2.group 0x13 else t) s1
  { s2 with peerWrites := s2.peerWrites.filter fun w => w.dev != dev }

/-- A port goes Down: it is logged, and what waits on a route that has no other port, or is outstanding there, ends with
0x13 (R368). -/
def linkDown (s : State) (p : Nat) : State :=
  if (portOf s p).st == 0 then s
  else
    let s1 := modPort s p fun x => { x with st := 0 }
    let devs := s1.peerWrites.foldl (fun l w => if routeState s1 w.dev == 0 then insertNat w.dev l else l) []
    wakeRemote (logError (devs.foldl losePeer s1) { kind := 8, unit := 96 + p })

/-- The lanes of a port have changed: it trains again, or with its last lane goes Down (Table 20.8). -/
def relane (s : State) (p : Nat) (out : List Nat) : State :=
  let s1 := modPort s p fun x => { x with out := out }
  if (portOf s1 p).width == 0 then linkDown s1 p
  else if (portOf s1 p).st == 1 then modPort s1 p fun x => { x with st := 2, lanes := x.width }
  else modPort s1 p fun x => { x with lanes := min x.lanes x.width }

/-! ## The vertical bus (R323) -/

/-- A core is fenced (R137 code 0x84). -/
def fence (s : State) (core : Nat) : State := modCore s core fun c => { c with fenced := true }

/-- A lane of the vertical bus is lost: the bus freezes while a spare takes over; without one the core is fenced
(Table 18.3). -/
def loseLane (s : State) (lane : Nat) : State :=
  let core := Config.laneCore lane % Config.cores
  let die := dieOfCore core
  let d := dieOf s die
  if d.vbusOut.contains lane then s
  else
    let s1 := modDie s die fun d => { d with vbusOut := insertNat lane d.vbusOut }
    if d.vbusOut.length < Config.spareLanes die then modDie s1 die fun d => { d with vbusFrozen := true }
    else logError (fence s1 core) { kind := 7, unit := core }

/-! ## The service command register (R376) -/

/-- BUSY. -/
def serviceBusy (s : State) : Bool := bitB s.ctl.service 31

/-- The offset of the service command register in BAR0 (Table 20.14). -/
def serviceOffset : Nat := 0x48

/-- The word that gives a service command (Table 20.7). -/
def serviceWord (ret : Bool) (unit index : Nat) : Nat := b2n ret * 2 ^ 29 + unit % 8 * 2 ^ 26 + index % 2 ^ 24

/-- GO = 1 is written with a command: the host may do so only in host-assisted remapping (R373), and only one command
runs at a time (R376). -/
def startService (s0 : State) (ret : Bool) (unit index : Nat) (host : Bool) (k : State → State) : State :=
  let s := hostTouch s0 host
  if halted s then s
  else if host && !bitB s.ctl.hmode 1 then refuseHost s serviceOffset (2 ^ 30 + serviceWord ret unit index)
  else if serviceBusy s then s
  else k { s with ctl := { s.ctl with service := 2 ^ 31 + serviceWord ret unit index } }

/-- A core is retired: it is fenced first, then every resident team is saved (Table 20.8). -/
def retireCore (s : State) (core : Nat) : State :=
  let s1 := fence s core
  (s1.teams.filter fun e => e.2.slot.isSome && e.2.core == core).foldl (fun t e => startSave t e.1) s1

/-- A core returns to service. -/
def returnCore (s : State) (core : Nat) : State := modCore s core fun c => { c with fenced := false, retired := false }

/-- The cores that a core or cluster number names. -/
def coresOf (unit index : Nat) : List Nat :=
  if unit == 3 then (if index < Config.cores then [index] else [])
  else if index < Config.cores / 4 then range' (4 * index) 4 else []

/-- SERVICE_RETIRE_BANK (R376, R279). -/
def execServiceRetireBank (arg : Nat) (host : Bool) (s : State) : Out := .next <|
  startService s true 0 arg host fun t => if 2 * banksPerStack ≤ arg then t else setHot (changeBank t arg false) arg false
/-- SERVICE_RETURN_BANK (R376, R279). -/
def execServiceReturnBank (arg : Nat) (host : Bool) (s : State) : Out := .next <|
  startService s false 0 arg host fun t => if 2 * banksPerStack ≤ arg then t else setHot (changeBank t arg true) arg false
/-- SERVICE_RETIRE_LINK_LANE: lane `arg` mod 4 of port `arg` / 4 (R376). -/
def execServiceRetireLinkLane (arg : Nat) (host : Bool) (s : State) : Out := .next <|
  startService s true 1 arg host fun t =>
    let p := arg / 4
    if 18 ≤ p || (portOf t p).out.contains (arg % 4) then t else relane t p (insertNat (arg % 4) (portOf t p).out)
/-- SERVICE_RETURN_LINK_LANE (R376). -/
def execServiceReturnLinkLane (arg : Nat) (host : Bool) (s : State) : Out := .next <|
  startService s false 1 arg host fun t =>
    let p := arg / 4
    if 18 ≤ p || !(portOf t p).out.contains (arg % 4) then t else relane t p ((portOf t p).out.filter (· != arg % 4))
/-- SERVICE_RETIRE_VBUS_LANE (R376, R323). -/
def execServiceRetireVbusLane (arg : Nat) (host : Bool) (s : State) : Out := .next <|
  startService s true 2 arg host fun t => loseLane t arg
/-- SERVICE_RETURN_VBUS_LANE: the lane is a spare again (R376). -/
def execServiceReturnVbusLane (arg : Nat) (host : Bool) (s : State) : Out := .next <|
  startService s false 2 arg host fun t =>
    modDie t (dieOfCore (Config.laneCore arg % Config.cores)) fun d => { d with vbusOut := d.vbusOut.filter (· != arg) }
/-- SERVICE_RETIRE_CORE (R376). -/
def execServiceRetireCore (arg : Nat) (host : Bool) (s : State) : Out := .next <|
  startService s true 3 arg host fun t => (coresOf 3 arg).foldl retireCore t
/-- SERVICE_RETURN_CORE (R376). -/
def execServiceReturnCore (arg : Nat) (host : Bool) (s : State) : Out := .next <|
  startService s false 3 arg host fun t => (coresOf 3 arg).foldl returnCore t
/-- SERVICE_RETIRE_CLUSTER (R376). -/
def execServiceRetireCluster (arg : Nat) (host : Bool) (s : State) : Out := .next <|
  startService s true 4 arg host fun t => (coresOf 4 arg).foldl retireCore t
/-- SERVICE_RETURN_CLUSTER (R376). -/
def execServiceReturnCluster (arg : Nat) (host : Bool) (s : State) : Out := .next <|
  startService s false 4 arg host fun t => (coresOf 4 arg).foldl returnCore t

/-- Is the command in progress done: its cores hold no team, its port has trained, its bus has resumed (Table 20.8)? -/
def serviceOver (s : State) : Bool :=
  let unit := bits s.ctl.service 28 26
  let index := bits s.ctl.service 23 0
  match unit with
  | 0 => true
  | 1 => (portOf s (index / 4)).st != 2
  | 2 => !(dieOf s (dieOfCore (Config.laneCore index % Config.cores))).vbusFrozen
  | _ => (coresOf unit index).all fun c => !bitB s.ctl.service 29 || !(s.teams.any fun e => e.2.slot.isSome && e.2.core == c)

/-- SERVICE_COMMAND_DONE: the command is done, its cores are retired, and BUSY clears (R376). -/
def execServiceCommandDone (s : State) : Out := .next <|
  if !serviceBusy s || !serviceOver s then s
  else
    let unit := bits s.ctl.service 28 26
    let cores := if 3 ≤ unit && bitB s.ctl.service 29 then coresOf unit (bits s.ctl.service 23 0) else []
    let s1 := cores.foldl (fun t c => modCore t c fun x => { x with retired := true }) s
    { s1 with ctl := { s1.ctl with service := s1.ctl.service % 2 ^ 31 } }

/-! ## Class control registers (R318) -/

/-- The offset of a class control register in BAR0 (Table 20.15). -/
def classOffset (die cls : Nat) : Nat := 0x10040 + 0x40000 * die + 4 * cls

/-- The fields of a class control register (Table 18.2). -/
def classFields (v : Nat) : Nat := bits v 18 16 * 2 ^ 16 + bits v 12 8 * 2 ^ 8 + bits v 4 0

/-- The conditions of R318 on the registers of a die. -/
def classesOk (cs : List Nat) : Bool :=
  (cs.all fun c => decide (bits c 4 0 ≤ bits c 12 8) && decide (bits c 12 8 ≤ 24)) &&
  decide (cs.foldl (fun n c => n + bits c 4 0) 0 ≤ 24)

/-- CLASS_CONTROL_WRITE: performed, or not and reported to error triage (R318, Table 20.12). -/
def execClassControlWrite (die cls value : Nat) (host : Bool) (s0 : State) : Out := .next <|
  let s := hostTouch s0 host
  if 2 ≤ die || 8 ≤ cls || halted s then s
  else if host && !bitB s.ctl.hmode 0 then refuseHost s (classOffset die cls) value
  else
    let cs := (dieOf s die).classes.set cls (classFields value)
    if classesOk cs then modDie s die fun d => { d with classes := cs }
    else logError s { kind := 3, unit := die, detail := value % 2 ^ 32 + cls * 2 ^ 32 }

/-! ## Power (R377) -/

/-- A power limit within its bounds. -/
def clampPower (v : Nat) : Nat := min 2200 (max 600 (v % 2 ^ 16))

/-- POWER_LIMIT_WRITE: a write below 600 takes 600, one above 2200 takes 2200. -/
def execPowerLimitWrite (value : Nat) (host : Bool) (s : State) : Out := .next <|
  if halted s then hostTouch s host else { hostTouch s host with ctl := { s.ctl with power := clampPower value } }

/-- CLOCK_THROTTLE: the hardware changes the core or the footing clock; no architectural behaviour changes. -/
def execClockThrottle (footing : Bool) (sixteenths : Nat) (s : State) : Out := .next <|
  let k := min 16 (max 1 sixteenths)
  { s with clocks := if footing then (s.clocks.1, k) else (k, s.clocks.2) }

end Sys2Proof.Machine
end

