-- ==== Sys2Proof/Machine/Window.lean ====
section
/-!
DEFINITION. The control register window (20_outside.md R378, Tables 20.13 to 20.17): what a register reads, who may
write it, and what a write does.
-/

namespace Sys2Proof.Machine

open Sys2Proof

/-! ## Entries as numbers -/

/-- An access table entry as 128 bits (Table 2.8). -/
def Acl.word (e : Acl) : Nat :=
  e.limit * 2 ^ 90 + e.base * 2 ^ 52 + e.cid * 2 ^ 42 + b2n e.anyCid * 2 ^ 41 + e.mclass * 2 ^ 37 + e.mindex * 2 ^ 28 +
  b2n e.anyIdx * 2 ^ 27 + b2n e.rd * 2 ^ 23 + b2n e.wr * 2 ^ 22 + b2n e.atm * 2 ^ 21 + b2n e.en

/-- The access table entry that 128 bits give. -/
def aclOf (w : Nat) : Acl :=
  { limit := bits w 127 90, base := bits w 89 52, cid := bits w 51 42, anyCid := bitB w 41, mclass := bits w 40 37
    mindex := bits w 36 28, anyIdx := bitB w 27, rd := bitB w 23, wr := bitB w 22, atm := bitB w 21, en := bitB w 0 }

/-- A bind record as 256 bits (Table 7.6). -/
def Bind.word (b : Bind) : Nat :=
  b.reserved + b.cmd + b.result * 2 ^ 8 + b.cid * 2 ^ 16 + b.icn * 2 ^ 32 + b.ticket * 2 ^ 64 + b.tx * 2 ^ 96 + b.ty * 2 ^ 128 +
  b.tz * 2 ^ 144 + b.vregBase * 2 ^ 160 + b.barBase * 2 ^ 176 + b.scrBase * 2 ^ 192 + b.staBase * 2 ^ 200 + b.gslot * 2 ^ 208 +
  b.mslot * 2 ^ 216 + b.save * 2 ^ 224

/-- The bind record that 256 bits give. -/
def bindOf (w : Nat) : Bind :=
  { cmd := bits w 7 0, result := bits w 15 8, cid := bits w 25 16, icn := bits w 39 32, ticket := bits w 95 64
    tx := bits w 127 96, ty := bits w 143 128, tz := bits w 159 144, vregBase := bits w 175 160, barBase := bits w 191 176
    scrBase := bits w 199 192, staBase := bits w 207 200, gslot := bits w 215 208, mslot := bits w 223 216
    save := bits w 253 224
    reserved := bits w 31 26 * 2 ^ 26 + bits w 63 40 * 2 ^ 40 + bits w 255 254 * 2 ^ 254 }

/-- An error log record (Table 20.11). -/
def ElogRec.word (e : ElogRec) : Nat :=
  let who := match e.cid with
    | some c => c + 2 ^ 15
    | none => 0
  e.seq + e.kind * 2 ^ 64 + e.code * 2 ^ 72 + who * 2 ^ 80 + (if e.cid.isSome then e.icn else 0) * 2 ^ 96 + e.unit * 2 ^ 112 +
  e.addr * 2 ^ 128 + e.detail * 2 ^ 192

/-- A denial record (Table 20.17). -/
def Denial.word (d : Denial) : Nat :=
  let kind := match d.kind with
    | .read => 1
    | .write => 2
    | .atomic => 4
  d.pa + d.cid * 2 ^ 64 + d.master.idx * 2 ^ 80 + (d.master.cls + kind * 2 ^ 4) * 2 ^ 96 + 2 ^ 104

/-- A live incarnation table entry (Table 2.3). -/
def Lit.word (e : Lit) : Nat := e.icn + b2n e.live * 2 ^ 8 + b2n e.quiet * 2 ^ 9

/-- CTXCMD as it reads (Table 2.10). -/
def CtxCmd.word (c : CtxCmd) : Nat :=
  b2n c.go * 2 ^ 63 + c.op * 2 ^ 56 + c.cid * 2 ^ 32 + b2n c.ien * 2 ^ 31 + c.vec * 2 ^ 20 + c.result

/-- The primitive check counter (Table 17.2). -/
def DieSt.checks (d : DieSt) : Nat := d.gap * 2 ^ 16 + d.bad * 2 ^ 8 + d.dup

/-- The device certificate's byte at an offset: fused at manufacture, but for the fields of known value (Table
20.10). -/
def certByte (i : Nat) : Nat :=
  if i < 4 then fieldAt 0x44435231 i 1
  else if i == 4 then 1
  else if i < 8 || (0x70 ≤ i && i < 0x80) then 0
  else (Config.fuse i).toNat

/-- The number that bytes from a function give. -/
def fromBytes (f : Nat → Nat) : Nat → Nat → Nat
  | _, 0 => 0
  | i, n + 1 => f i + 256 * fromBytes f (i + 1) n

/-! ## Reads -/

/-- Does BAR0 read only BOOTSTAT: the firmware image was rejected (R369)? -/
def onlyBootstat (s : State) : Bool := bitB s.ctl.bootstat 1

/-- Four bytes of the package registers (Table 20.14). -/
def packageWord (s : State) (o : Nat) : Nat :=
  let c := s.ctl
  let r8 := fun (base v : Nat) => fieldAt v (o - base) 4
  match o / 8 * 8 with
  | 0x00 => r8 0 c.hwin
  | 0x08 => r8 8 c.hmode
  | 0x10 => r8 0x10 c.bootstat
  | 0x18 => r8 0x18 c.devno
  | 0x20 => r8 0x20 c.ctxbase
  | 0x28 => r8 0x28 c.tidbase
  | 0x30 => r8 0x30 c.sfbase
  | 0x38 => if o == 0x38 then c.power else 0
  | 0x40 => r8 0x40 c.ctxcmd.word
  | 0x48 => if o == 0x48 then c.service else 0
  | 0x50 => r8 0x50 c.elogTail
  | 0x58 => r8 0x58 c.elogHead
  | 0x60 => r8 0x60 c.elogDrop
  | 0x68 => if o == 0x68 then c.elogVec else 0
  | 0x120 => if o == 0x120 then 2 * b2n c.attDone else 0
  | _ =>
    if 0x100 ≤ o && o < 0x120 then fieldAt c.nonce (o - 0x100) 4
    else if 0x140 ≤ o && o < 0x200 then fromBytes (fun i => (c.report.getD i 0).toNat) (o - 0x140) 4
    else if 0x200 ≤ o && o < 0x2C0 then fromBytes certByte (o - 0x200) 4
    else 0

/-- Four bytes of the bank availability map from a byte offset: 1 means live (R279). -/
def bankMapWord (d : DieSt) (o : Nat) : Nat :=
  (List.range 32).foldl (fun n i => if d.deadBanks.contains (8 * o + i) then n else n + 2 ^ i) 0

/-- Four bytes of a die block (Table 20.15). -/
def dieWord (s : State) (die o : Nat) : Nat :=
  let d := dieOf s die
  if 0x10000 ≤ o && o < 0x20000 then
    -- reserved fields read zero (R3, R378)
    fieldAt ({ mget {} (die * 2048 + (o - 0x10000) / 32) s.slots with reserved := 0 } : Bind).word (o % 32) 4
  else if 0x400 ≤ o && o < 0x800 then bankMapWord d (o - 0x400)
  else if 0x40 ≤ o && o < 0x60 then d.classes.getD ((o - 0x40) / 4) 0
  else
    match o with
    | 0x00 => fieldAt d.pagerq 0 4
    | 0x04 => fieldAt d.pagerq 4 4
    | 0x08 => fieldAt d.hostq 0 4
    | 0x0C => fieldAt d.hostq 4 4
    | 0x10 => d.hostqvec
    | 0x18 => fieldAt d.placeq 0 4
    | 0x1C => fieldAt d.placeq 4 4
    | 0x20 => d.placeqvec
    | 0x28 => d.preempt
    | 0x30 => d.wdog
    | 0x38 => d.checks
    | 0x100 => d.remapGen
    | _ => 0

/-- The index of a core target, none for another target (Table 20.16). -/
def coreOfTarget (t : Nat) : Option Nat := if 256 ≤ t && t < 512 then some (t - 256) else none

/-- Four bytes of a target block (Table 20.17). -/
def targetWord (s : State) (t o : Nat) : Nat :=
  if o < 0x1000 then fieldAt (mget {} (t * 256 + o / 16) s.acl).word (o % 16) 4
  else if o < 0x1800 then
    let k := (o - 0x1000) / 2
    if allTargets.contains t then (litOf s t k).word + (litOf s t (k + 1)).word * 2 ^ 16 else 0
  else if o == 0x1800 then mget 0 t s.orphans
  else if 0x1900 ≤ o && o < 0x1B00 then
    match mfind (t * 32 + (o - 0x1900) / 16) s.denials with
    | some d => fieldAt d.word (o % 16) 4
    | none => 0
  else if o == 0x1B00 then mget 0 t s.denialCount
  else
    match coreOfTarget t with
    | none => 0
    | some k =>
      if o == 0x1804 then mget 0 (4096 + k) s.orphans
      else if o == 0x1840 then (coreOf s k).bdrops
      else if o == 0x1844 then (coreOf s k).loss * 2 ^ 16 + (coreOf s k).mdbad
      else 0

/-- Four bytes of the window at an aligned offset (R378). A reserved offset reads zero. -/
def windowWord (s : State) (o : Nat) : Nat :=
  if onlyBootstat s then (if o == 0x10 then s.ctl.bootstat else 0)
  else if o < 0x1000 then packageWord s o
  else if 0x10000 ≤ o && o < 0x90000 then dieWord s ((o - 0x10000) / 0x40000) ((o - 0x10000) % 0x40000)
  else if 0x100000 ≤ o && o < 0x101000 then mget 0 ((o - 0x100000) / 4) s.ctl.route
  else if 0x108000 ≤ o && o < 0x110000 then fieldAt (mget 0 ((o - 0x108000) / 8) s.ctl.imports) (o % 8) 4
  else if 0x110000 ≤ o && o < 0x118000 then
    match mfind ((o - 0x110000) / 32) s.elog with
    | some e => fieldAt e.word (o % 32) 4
    | none => 0
  else if 0x1000000 ≤ o && o < 0x3000000 then targetWord s ((o - 0x1000000) / 0x2000) (o % 0x2000)
  else 0

/-- A read of the window of 4 or 8 bytes. -/
def readWindow (s : State) (o size : Nat) : Nat :=
  windowWord s o + (if size == 8 then windowWord s (o + 4) * 2 ^ 32 else 0)

/-! ## Who may write (R373, Tables 20.6, 20.14 to 20.17) -/

/-- Who writes a register. -/
inductive Writer
  | firmware
  | both
  | host
  /-- the firmware, or the host while a bit of HMODE is set -/
  | mode (bit : Nat)
  /-- the firmware, or the host while any bit of HMODE is set -/
  | assisted
  /-- the owner of error triage alone -/
  | triage
  /-- nobody -/
  | none
deriving DecidableEq, Repr

/-- The writer of the register at an offset. -/
def writerOf (o : Nat) : Writer :=
  if o < 0x1000 then
    if o < 8 then .both
    else if 0x10 ≤ o && o < 0x18 then .none
    else if o < 0x38 then .firmware
    else if o < 0x48 then .both
    else if o < 0x4C then .mode 1
    else if 0x50 ≤ o && o < 0x58 then .none
    else if 0x58 ≤ o && o < 0x60 then .triage
    else if 0x60 ≤ o && o < 0x68 then .both
    else if o == 0x68 then .firmware
    else if 0x100 ≤ o && o < 0x128 then .host
    else .none
  else if 0x10000 ≤ o && o < 0x90000 then
    let d := (o - 0x10000) % 0x40000
    if 0x10000 ≤ d && d < 0x20000 then .mode 0
    else if d == 0x28 || (0x40 ≤ d && d < 0x60) then .mode 0
    else if d == 0x38 then .both
    else if d < 0x38 then .firmware
    else .none
  else if 0x100000 ≤ o && o < 0x101000 then .firmware
  else if 0x108000 ≤ o && o < 0x110000 then .firmware
  else if 0x1000000 ≤ o && o < 0x3000000 then
    let d := o % 0x2000
    if (o - 0x1000000) / 0x2000 == 121 then .none
    else if d < 0x1000 then .assisted
    else if d == 0x1800 || d == 0x1804 || d == 0x1840 || d == 0x1844 || d == 0x1B00 then .both
    else .none
  else .none

/-- What becomes of a write by its writer. -/
inductive Grant
  | take | ignore | refuse
deriving DecidableEq, Repr

/-- May the writer write the register? A host write to a register that firmware owns in the mode is refused; any other
write out of place is ignored (R373, R378). -/
def grant (s : State) (w : Writer) (host : Bool) : Grant :=
  let hostIf := fun (b : Bool) => if !host || b then Grant.take else .refuse
  match w with
  | .both => .take
  | .none => .ignore
  | .firmware => hostIf false
  | .host => if host then .take else .ignore
  | .mode b => hostIf (bitB s.ctl.hmode b)
  | .assisted => hostIf (s.ctl.hmode % 8 != 0)
  | .triage => if bitB s.ctl.hmode 2 then (if host then .take else .ignore) else hostIf false

/-! ## Writes -/

/-- The bits of a value that a mask keeps. -/
def keep (v hi lo : Nat) : Nat := bits v hi lo * 2 ^ lo

/-- A register after ones are written to bits of it: those bits clear (R378). -/
def clearOnes (x v : Nat) : Nat := x &&& ((2 ^ 64 - 1) ^^^ (v % 2 ^ 64))

/-- Is the offset in a die block? -/
def inDie (o : Nat) : Bool := decide (0x10000 ≤ o) && decide (o < 0x90000)

/-- The offset within its die block. -/
def dieOff (o : Nat) : Nat := (o - 0x10000) % 0x40000

/-- Is the offset in a register of 8 bytes (Tables 20.14 and 20.15)? -/
def isWide (o : Nat) : Bool :=
  (o < 0x1000 && (o < 0x38 || (0x40 ≤ o && o < 0x48) || (0x50 ≤ o && o < 0x68) || (0x120 ≤ o && o < 0x128))) ||
  (inDie o && (dieOff o < 0x10 || (0x18 ≤ dieOff o && dieOff o < 0x20)))

/-- Is the offset in a table of entries, or in NONCE, which takes accesses of 4 or 8 bytes (R378)? -/
def isTable (o : Nat) : Bool :=
  (0x100 ≤ o && o < 0x120) || (inDie o && 0x10000 ≤ dieOff o && dieOff o < 0x20000) || (0x100000 ≤ o && o < 0x110000) ||
  (0x1000000 ≤ o && o < 0x3000000 && o % 0x2000 < 0x1000)

/-- A write of CTXCMD (Table 2.10): with GO = 1 its command; without, OP, CID, IEN and VEC while no command runs. The host
may only start commands (R43, R373). -/
def writeCtxcmd (s : State) (v : Nat) (host : Bool) : State :=
  let reserved := keep v 62 59 + keep v 55 42 + keep v 19 18
  let op := bits v 58 56
  let cid := bits v 41 32
  if !bitB v 63 then
    if halted s then s
    else if s.ctl.ctxcmd.go then (if host then countOrphan s bridgeTarget else s)
    else if host then refuseHost s 0x40 v
    else modCmd s fun c => { c with op := op, cid := cid, ien := bitB v 31, vec := bits v 30 20 }
  else if reserved == 0 && 1 ≤ op && op ≤ 4 then startCmd s op cid (bitN v 31) (bits v 30 20) host
  else
    match execCtxcmdReserved (op + 8 * b2n (reserved != 0)) cid (bitN v 31) (bits v 30 20) host s with
    | .next t => t
    | _ => s

/-- A write of a register of 8 bytes (Tables 20.14 and 20.15). -/
def writeWide (s : State) (o v : Nat) (host : Bool) : State :=
  let ctl := fun (c : Ctl) => { s with ctl := c }
  let c := s.ctl
  match o with
  | 0x00 => ctl { c with hwin := keep v 55 20 + keep v 17 0 }
  | 0x08 => ctl { c with hmode := v % 8 }
  | 0x18 => ctl { c with devno := v % 1024 }
  | 0x20 => ctl { c with ctxbase := keep v 51 16 }
  | 0x28 => ctl { c with tidbase := keep v 51 17 }
  | 0x30 => ctl { c with sfbase := keep v 51 16 }
  | 0x40 => writeCtxcmd s v host
  | 0x58 => ctl { c with elogHead := v % 2 ^ 64 }
  | 0x60 => ctl { c with elogDrop := clearOnes c.elogDrop v }
  | 0x120 => if bitB v 0 && c.attest.isNone then ctl { c with attest := some c.nonce, attDone := false } else s
  | _ =>
    let die := (o - 0x10000) / 0x40000
    match (o - 0x10000) % 0x40000 with
    | 0x00 => modDie s die fun d => { d with pagerq := keep v 51 12 }
    | 0x08 => modDie s die fun d => { d with hostq := keep v 51 12 }
    | _ => modDie s die fun d => { d with placeq := keep v 51 12 }

/-- What a meaning leaves where it goes on. -/
def after (s : State) (o : Out) : State :=
  match o with
  | .next t => t
  | _ => s

/-- A write of the service command register (Table 20.7): with GO = 1 it starts the command of RET and UNIT; without,
RET, UNIT and INDEX are kept while no command runs. -/
def writeService (s : State) (v : Nat) (host : Bool) : State :=
  let arg := bits v 23 0
  let ret := bitB v 29
  if !bitB v 30 then
    if serviceBusy s then s else { s with ctl := { s.ctl with service := keep v 29 26 + arg } }
  else
    after s (match bits v 28 26, ret with
      | 0, true => execServiceRetireBank arg host s
      | 0, false => execServiceReturnBank arg host s
      | 1, true => execServiceRetireLinkLane arg host s
      | 1, false => execServiceReturnLinkLane arg host s
      | 2, true => execServiceRetireVbusLane arg host s
      | 2, false => execServiceReturnVbusLane arg host s
      | 3, true => execServiceRetireCore arg host s
      | 3, false => execServiceReturnCore arg host s
      | 4, true => execServiceRetireCluster arg host s
      | 4, false => execServiceReturnCluster arg host s
      | _, _ => .next s)

/-- A write of four bytes of a bind record (R135, R137): the fields are ignored while RESULT is 1, and a write that
covers CMD submits it. -/
def writeBind (s : State) (die o v : Nat) (host : Bool) : State :=
  let slot := (o - 0x10000) / 32
  let key := die * 2048 + slot
  let b := mget {} key s.slots
  let at_ := o % 32
  let raw := setBits b.word (8 * at_ + 31) (8 * at_) v
  let n := { bindOf raw with cmd := b.cmd, result := b.result }
  let s1 := if b.result == 1 then s else { s with slots := mset {} key n s.slots }
  if at_ == 0 then after s1 (execBindSubmit die slot (v % 256) host s1) else s1

/-- A write of four bytes in a die block (Table 20.15). -/
def writeDie (s : State) (die o v : Nat) (host : Bool) : State :=
  if 0x10000 ≤ o && o < 0x20000 then writeBind s die o v host
  else if 0x40 ≤ o && o < 0x60 then after s (execClassControlWrite die ((o - 0x40) / 4) v host s)
  else
    match o with
    | 0x10 => modDie s die fun d => { d with hostqvec := v % 2048 }
    | 0x20 => modDie s die fun d => { d with placeqvec := v % 2048 }
    | 0x28 =>
      if bitB v 31 then after s (execPreemptSave die (v % 2048) host s)
      else modDie s die fun d => if bitB d.preempt 31 then d else { d with preempt := setBits d.preempt 10 0 v }
    | 0x30 => modDie s die fun d => { d with wdog := v % 2 ^ 32 }
    | 0x38 => modDie s die fun d =>
        let x := clearOnes d.checks v
        { d with gap := bits x 31 16, bad := bits x 15 8, dup := bits x 7 0 }
    | _ => s

/-- A write of four bytes in a target block (Table 20.17). -/
def writeTarget (s : State) (t o v : Nat) : State :=
  if o < 0x1000 then
    let k := t * 256 + o / 16
    let at_ := o % 16
    { s with acl := mset {} k (aclOf (setBits (mget {} k s.acl).word (8 * at_ + 31) (8 * at_) v)) s.acl }
  else if o == 0x1800 then { s with orphans := mset 0 t (clearOnes (mget 0 t s.orphans) v) s.orphans }
  else if o == 0x1B00 then { s with denialCount := mset 0 t (clearOnes (mget 0 t s.denialCount) v) s.denialCount }
  else
    match coreOfTarget t with
    | none => s
    | some k =>
      if o == 0x1804 then { s with orphans := mset 0 (4096 + k) (clearOnes (mget 0 (4096 + k) s.orphans) v) s.orphans }
      else if o == 0x1840 then modCore s k fun c => { c with bdrops := clearOnes c.bdrops v }
      else if o == 0x1844 then modCore s k fun c => { c with loss := clearOnes c.loss (v / 2 ^ 16), mdbad := clearOnes c.mdbad (v % 2 ^ 16) }
      else s

/-- A write of four bytes that is not half of a wide register. -/
def writeWord (s : State) (o v : Nat) (host : Bool) : State :=
  if o < 0x1000 then
    if o == 0x38 then after s (execPowerLimitWrite v host s)
    else if o == 0x48 then writeService s v host
    else if o == 0x68 then { s with ctl := { s.ctl with elogVec := keep v 15 15 + v % 2048 } }
    else if 0x100 ≤ o && o < 0x120 then
      { s with ctl := { s.ctl with nonce := setBits s.ctl.nonce (8 * (o - 0x100) + 31) (8 * (o - 0x100)) v } }
    else s
  else if 0x10000 ≤ o && o < 0x90000 then writeDie s ((o - 0x10000) / 0x40000) ((o - 0x10000) % 0x40000) v host
  else if 0x100000 ≤ o && o < 0x101000 then
    { s with ctl := { s.ctl with route := mset 0 ((o - 0x100000) / 4) (v % 2 ^ 18) s.ctl.route } }
  else if 0x108000 ≤ o && o < 0x110000 then
    let k := (o - 0x108000) / 8
    let x := setBits (mget 0 k s.ctl.imports) (8 * (o % 8) + 31) (8 * (o % 8)) v
    { s with ctl := { s.ctl with imports := mset 0 k (keep x 63 63 + keep x 41 32 + keep x 25 16 + keep x 9 0) s.ctl.imports } }
  else if 0x1000000 ≤ o && o < 0x3000000 then writeTarget s ((o - 0x1000000) / 0x2000) (o % 0x2000) v
  else s

/-- A granted write of the window. The two halves of a wide register take effect together at the second, low half
first; a high half that follows no low half is ignored (R378). -/
def performWrite (s : State) (o size v : Nat) (host : Bool) : State :=
  if isWide o then
    if size == 8 then writeWide s o v host
    else if o % 8 == 0 then { s with ctl := { s.ctl with half := some (o, v % 2 ^ 32) } }
    else
      match s.ctl.half with
      | some (p, low) =>
        let s1 := { s with ctl := { s.ctl with half := none } }
        if p + 4 == o then writeWide s1 p (low + v % 2 ^ 32 * 2 ^ 32) host else s1
      | none => s
  else if size == 8 && !isTable o then s
  else if size == 8 then
    -- the part that submits a bind record comes last
    writeWord (writeWord s (o + 4) (v / 2 ^ 32 % 2 ^ 32) host) o (v % 2 ^ 32) host
  else writeWord s o (v % 2 ^ 32) host

/-- Does an access lie outside Table 20.1? -/
def outsideBars (bar off size : Nat) : Bool :=
  match bar with
  | 0 => decide (2 ^ 26 < off + size)
  | 2 => decide (4096 ≤ off) || decide (16 ≤ off % 64)
  | 4 => decide (2 ^ 20 < off + size)
  | _ => true

/-- REGISTER_WRITE: a write of the control window by the firmware or the host, or of a graph port's GNODE by the host
through BAR2 (R364, R378). One of the host outside Table 20.1 is discarded and counted (R361). -/
def execRegisterWrite (bar off size value : Nat) (host : Bool) (s0 : State) : Out := .next <|
  let s := hostTouch s0 host
  if host && outsideBars bar off size then countOrphan s bridgeTarget
  else if bar == 2 then
    if host && off % 64 == 0 && off < 4096 && size == 8 then { s with gnodes := mset 0 (off / 64) (value % 2 ^ 64) s.gnodes } else s
  else if bar != 0 || halted s || !(size == 4 || size == 8) || off % size != 0 then s
  else
    match grant s (writerOf off) host with
    | .ignore => s
    | .refuse => refuseHost s off value
    | .take => performWrite s off size value host

end Sys2Proof.Machine
end

