-- ==== Sys2Proof/Machine/HostEv.lean ====
section
/-!
DEFINITION. The host port beyond control registers (20_outside.md R361 to R364): graph ports, the debug window and
unsupported requests; boot and firmware (R369, R370) and attestation (R371, R372).
-/

namespace Sys2Proof.Machine

open Sys2Proof

/-! ## The host as a requester (R362) -/

/-- A completion to the host. -/
def reply (s : State) (r : Reply) : State := { s with replies := s.replies ++ [r] }

/-- CID of HWIN. -/
def hwinCid (s : State) : Nat := bits s.ctl.hwin 17 8
/-- ICN of HWIN. -/
def hwinIcn (s : State) : Nat := bits s.ctl.hwin 7 0

/-- The PCIe bridge as a master (Table 2.8). -/
def bridge : Master := { cls := 7, idx := 0 }

/-- A host request, stamped by the bridge as HWIN stands (R50, R362). It has no first-level cache. -/
def whoHost (s : State) : Who :=
  { team := 2 ^ 40, core := Config.cores, cid := hwinCid s, icn := hwinIcn s, master := bridge }

/-- Is the host request dropped as stale (R46, R50)? -/
def hostStale (s : State) (pa : Nat) : Bool := dropped s (sliceOf pa) (hwinCid s) (hwinIcn s)

/-! ## Graph ports (R364) -/

/-- A denied access of a graph port to its node is logged (R57). -/
def notePort (s : State) (k : Nat) : State :=
  let g := mget 0 k s.gnodes
  if s.ctl.fatal || 64 ≤ k || bits g 6 0 != 0 || bits g 63 56 != 0 then s
  else
    match walk s bridge (hwinCid s) g with
    | .fail 3 _ _ => logWalk s none bridge (hwinCid s) g
    | .fail .. => s
    | .page pte l =>
      let pa := leafPa pte l g
      if permits pte .atomic && pteType pte == 0 && !hostStale s pa && !(inHbm pa && lineAllows s bridge (hwinCid s) pa .atomic) then
        logDenial s bridge (hwinCid s) pa .atomic
      else s

/-- The page of a graph port's node, none where GNODE, its translation or its access fails, or the request is
dropped. -/
def portNode (s : State) (k : Nat) : Option (Nat × Nat) :=
  let g := mget 0 k s.gnodes
  if s.ctl.fatal || 64 ≤ k || bits g 6 0 != 0 || bits g 63 56 != 0 then none
  else
    match walk s bridge (hwinCid s) g with
    | .fail .. => none
    | .page pte l =>
      let pa := leafPa pte l g
      if !permits pte .atomic || pteType pte != 0 || !inHbm pa || hostStale s pa || isMarked s pa || kindReserved (physNat s pa 1) then none
      else if lineAllows s bridge (hwinCid s) pa .atomic then some (g, pa) else none

/-- GRAPH_PORT_READ: FetchAdd of 0 returns COUNT (Table 20.3). -/
def execGraphPortRead (k : Nat) (s0 : State) : Out := .next <|
  let s := hostTouch s0 true
  match portNode s k with
  | none => reply (notePort s k) .abort
  | some (_, pa) => reply s (.host (physNat s (pa + 4) 4))

/-- A graph-count atomic from a port, which returns the old COUNT. -/
def portAtomic (s : State) (k : Nat) (op : CountOp) : State :=
  match portNode s k with
  | none => reply (notePort s k) .abort
  | some (va, pa) =>
    if notifyStalls s pa then s
    else
    match countAtomic s (hwinCid s) (hwinIcn s) va pa op with
    | (t, old, _) => reply t (.host old)

/-- Does a graph port's atomic wait at the bridge for room in a notification buffer (R130)? -/
def portStalls (s : State) (k d : Nat) : Bool :=
  ((1 ≤ d && d < 2 ^ 31) || d == 0xFFFFFFFF) && (match portNode s k with
    | some (_, pa) => notifyStalls s pa
    | none => false)

/-- GRAPH_PORT_ADD: FetchAdd of 1 to 0x7FFF_FFFF; another operand completes Completer Abort (Table 20.3). -/
def execGraphPortAdd (k d : Nat) (s0 : State) : Out := .next <|
  let s := hostTouch s0 true
  if 1 ≤ d && d < 2 ^ 31 then portAtomic s k (.add d) else reply s .abort

/-- GRAPH_PORT_DEC: FetchAdd of 0xFFFF_FFFF; another operand completes Completer Abort (Table 20.3). -/
def execGraphPortDec (k d : Nat) (s0 : State) : Out := .next <|
  let s := hostTouch s0 true
  if d == 0xFFFFFFFF then portAtomic s k .dec else reply s .abort

/-! ## The debug window (R362, R363) -/

/-- The address that an offset of BAR4 reaches. -/
def debugVa (s : State) (off : Nat) : Nat := bits s.ctl.hwin 55 20 * 2 ^ 20 + off

/-- Is the size of a debug access one of 1, 2, 4 and 8 bytes, within the window? -/
def debugSize (off size : Nat) : Bool := (size == 1 || size == 2 || size == 4 || size == 8) && off + size ≤ 2 ^ 20

/-- What a debug access meets (R363). -/
inductive Debug
  | place (p : Place)
  | stale
  /-- a link in Recovery or a frozen bus holds it up -/
  | waits
  | reject (code : Nat)
deriving DecidableEq, Repr

/-- The targets that a host request to a place meets: the bridge, and what serves the place (R46, Table 20.16). -/
def hostDrops (s : State) (p : Place) : Bool :=
  dropped s bridgeTarget (hwinCid s) (hwinIcn s) ||
  (match p with
    | .normal pa => hostStale s pa
    | .surface sid off => dropped s (brickOf s (hwinCid s) sid off) (hwinCid s) (hwinIcn s)
    | .remote dev _ => (livePorts s dev).any fun k => dropped s (96 + k) (hwinCid s) (hwinIcn s)
    | _ => false)

/-- The checks of a debug access. One that a link in Recovery or a frozen bus holds up waits at the bridge (R368). -/
def debugCheck (s : State) (off size : Nat) (k : Kind) : Debug :=
  if !debugSize off size then .reject 0
  else if off % size != 0 then .reject 4
  else
    match globalPlace s (whoHost s) (debugVa s off) size k with
    | .ok p =>
      if hostDrops s p then .stale
      else if placeWait s (whoHost s) size p == some .room then .waits
      else .place p
    | .bad c _ => .reject c
    | .wait _ => .waits

/-- Does a debug access wait at the bridge (R368)? -/
def debugWaits (s : State) (off size : Nat) (k : Kind) : Bool := !s.ctl.fatal && debugCheck s off size k == .waits

/-- HOST_DEBUG_READ: a read through BAR4; one that is rejected or dropped completes Completer Abort (R50, R363). -/
def execHostDebugRead (off size : Nat) (s0 : State) : Out := .next <|
  let s := hostTouch s0 true
  if s.ctl.fatal then reply s .abort
  else
    match debugCheck s off size .read with
    | .place p =>
      (match readPlace s (whoHost s) p size with
        | (t, .bytes bs) => reply t (.host (ofBytes bs))
        | (t, .report _) => reply t .abort)
    | .reject c => reply (noteDenial s (whoHost s) (debugVa s off) (.bad c none)) .abort
    | .stale => reply s .abort
    | .waits => s

/-- A debug write that is rejected: discarded, counted and reported to error triage (R363). -/
def rejectDebug (s : State) (off code : Nat) : State :=
  logError (countOrphan { s with hostLine := none } bridgeTarget) { kind := 11, code := code, cid := some (hwinCid s), icn := hwinIcn s, addr := off }

/-- The line tracking after a write of bytes of a line (R363): the write that completes the line clears its marker. -/
def trackLine (s : State) (pa size : Nat) : State :=
  let line := pa / 128
  let old := match s.hostLine with
    | some (l, bs) => if l == line then bs else []
    | none => []
  let now := (range' (pa % 128) size).foldl (fun bs i => insertNat i bs) old
  let t := { s with hostLine := some (line, now) }
  if now.length == 128 then clearMark t pa else t

/-- HOST_DEBUG_WRITE: a write through BAR4, performed at sys scope (R363). -/
def execHostDebugWrite (off size value : Nat) (s : State) : Out := .next <|
  if s.ctl.fatal then s
  else
    match debugCheck s off size .write with
    | .reject c => rejectDebug (noteDenial s (whoHost s) (debugVa s off) (.bad c none)) off c
    | .stale => countOrphan { s with hostLine := none } bridgeTarget
    | .waits => s
    | .place p =>
      match writePlace s (whoHost s) p (toBytes size value) .nl1 with
      | (t, 0) =>
        (match p with
          | .normal pa => trackLine t pa size
          | _ => { t with hostLine := none })
      | (t, c) => rejectDebug t off c

/-! ## Other requests (R361) -/

/-- HOST_UNSUPPORTED_REQUEST: a host request that no other step performs. Reads of BAR0 and of GNODE return their
register, a read of GOP completes Completer Abort, and what lies outside Table 20.1 is unsupported; a posted request is
discarded and counted. -/
def execHostUnsupportedRequest (bar off size : Nat) (write : Bool) (s0 : State) : Out := .next <|
  let s := hostTouch s0 true
  if write then countOrphan s bridgeTarget
  else if bar == 0 && (size == 4 || size == 8) && off % size == 0 && off + size ≤ 2 ^ 26 then reply s (.host (readWindow s off size))
  else if s.ctl.fatal then reply s .abort
  else if bar == 2 && off < 4096 && off % 64 == 0 && size == 8 then reply s (.host (bits (mget 0 (off / 64) s.gnodes) 55 7 * 2 ^ 7))
  else if bar == 2 && off < 4096 && off % 64 == 8 then reply s .abort
  else reply s .unsupported

/-! ## Boot and firmware (R369, R370) -/

/-- A fused number. -/
def fuseBytes (i n : Nat) : List Byte := (range' i n).map Config.fuse

/-- The step at which an image fails, 0 where it is accepted: flash read, key digest, signature, SVN (Table 20.14). -/
def failStep (i : Option Firmware) : Nat :=
  match i with
  | none => 1
  | some f =>
    if Config.sha256 f.key != fuseBytes 0x50 32 then 2
    else if !Config.verifies (Config.sha256 f.body) f.sig then 3
    else if f.svn < ofBytes (fuseBytes 0x1000 4) then 4
    else 0

/-- The running image. -/
def runImage (s : State) (f : Firmware) : State :=
  { s with ctl := { s.ctl with fwDigest := Config.sha256 f.body, svn := f.svn } }

/-- The boot ROM fills and locks the boot table, the access table of target 121 (R57, R369, Table 20.16). -/
def lockBootTable (s : State) : State :=
  { s with acl := (List.range 256).foldl (fun m n => mset {} (121 * 256 + n) (aclOf (Config.bootEntry n)) m) s.acl }

/-- BOOT: after reset the boot ROM locks the boot table and verifies the image in flash. Rejected, the management core halts with the failure
step in BOOTSTAT; accepted, its firmware writes the control registers and sets READY (R369). -/
def execBoot (s0 : State) : Out := .next <|
  if s0.ctl.bootstat != 0 then s0
  else
    let s := lockBootTable s0
    let i := mfind 0 s.flash
    match i, failStep i with
    | some f, 0 =>
      let s1 := f.setup.foldl (fun t w => after t (execRegisterWrite 0 w.1 w.2.1 w.2.2 false t)) (runImage s f)
      { s1 with ctl := { s1.ctl with bootstat := 1 } }
    | _, k => { s with ctl := { s.ctl with bootstat := 2 + k * 2 ^ 8 } }

/-- FIRMWARE_UPDATE: a new image is verified as at boot and replaces the running one, or is rejected and logged
(R370). The handover is one step, during which no other happens. -/
def execFirmwareUpdate (image : Nat) (s : State) : Out := .next <|
  if s.ctl.bootstat != 1 then s
  else
    let i := mfind image s.flash
    match i, failStep i with
    | some f, 0 => runImage s f
    | _, k => logError s { kind := 9, detail := k }

/-! ## Attestation (R371) -/

/-- Units retired: banks, link and vertical bus lanes, and cores. -/
def retiredUnits (s : State) : Nat :=
  s.dies.foldl (fun n d => n + d.2.deadBanks.length + d.2.vbusOut.length) 0 +
  s.ports.foldl (fun n p => n + p.2.out.length) 0 +
  s.cores.foldl (fun n c => n + b2n c.2.retired) 0

/-- The boot table and HMODE, which CFGDIGEST covers (Table 20.5). -/
def configBytes (s : State) : List Byte :=
  ((List.range 256).flatMap fun n => toBytes 16 (mget {} (121 * 256 + n) s.acl).word) ++ toBytes 8 s.ctl.hmode

/-- Exactly `n` bytes of a list. -/
def exactly (n : Nat) (bs : List Byte) : List Byte := (List.range n).map fun i => bs.getD i 0

/-- Bytes 0x00 to 0x7F of the report over a nonce (Table 20.5). -/
def reportBody (s : State) (nonce : Nat) : List Byte :=
  toBytes 4 0x41545331 ++ toBytes 2 1 ++ toBytes 2 0 ++ fuseBytes 8 8 ++ toBytes 32 nonce ++ exactly 32 s.ctl.fwDigest ++
  toBytes 4 s.ctl.svn ++ toBytes 4 (retiredUnits s) ++ exactly 32 (Config.sha256 (configBytes s)) ++ toBytes 8 0

/-- ATTESTATION_REQUEST: GO = 1 is written to ATTCTL. DONE clears; a GO while a report is being made is ignored. -/
def execAttestationRequest (host : Bool) (s0 : State) : Out := .next <|
  let s := hostTouch s0 host
  if !host || halted s then s else writeWide s 0x120 1 host

/-- ATTESTATION_DONE: the report is filled in and signed, and DONE is set (R371). -/
def execAttestationDone (s : State) : Out := .next <|
  match s.ctl.attest with
  | none => s
  | some nonce =>
    let body := reportBody s nonce
    { s with ctl := { s.ctl with report := body ++ exactly 64 (Config.sign body), attest := none, attDone := true } }

end Sys2Proof.Machine
end

