-- ==== Sys2Proof/Machine/Integer.lean ====
section
/-!
DEFINITION. The integer and address operations in both domains (04_integer.md R79 to R89).
-/

namespace Sys2Proof.Machine

open Sys2Proof

/-! ## The operations on values (R82 to R87) -/

/-- An exact integer clamped to the range of a type (R83). -/
def clampTo (ty : NumType) (x : Int) : Int :=
  let w := ty.bits
  if signedTy ty then max (-((2 ^ (w - 1) : Nat) : Int)) (min x (((2 ^ (w - 1) : Nat) : Int) - 1))
  else max 0 (min x (((2 ^ w : Nat) : Int) - 1))

/-- An exact integer as a result: clamped with .sat, else wrapped (R82, R83). -/
def resultOf (ty : NumType) (sat : Bool) (x : Int) : Nat := wrapInt ty.bits (if sat then clampTo ty x else x)

/-- iadd. -/
def iaddOf (ty : NumType) (sat : Bool) (b c : Nat) : Nat := resultOf ty sat (valOf ty b + valOf ty c)
/-- isub. -/
def isubOf (ty : NumType) (sat : Bool) (b c : Nat) : Nat := resultOf ty sat (valOf ty b - valOf ty c)
/-- iaddc: the sum and the carry out. -/
def iaddcOf (w b c cin : Nat) : Nat × Bool := ((b + c + cin) % 2 ^ w, decide (2 ^ w ≤ b + c + cin))
/-- isubb: the difference and the borrow out. -/
def isubbOf (w b c bin : Nat) : Nat × Bool := (wrapInt w ((b : Int) - (c : Int) - (bin : Int)), decide (b < c + bin))
/-- imul. -/
def imulOf (w b c : Nat) : Nat := b * c % 2 ^ w
/-- imulhi: the high half of the exact product. -/
def imulhiOf (ty : NumType) (b c : Nat) : Nat :=
  wrapInt ty.bits ((valOf ty b * valOf ty c).fdiv ((2 ^ ty.bits : Nat) : Int))
/-- imad. -/
def imadOf (w b c e : Nat) : Nat := (b * c + e) % 2 ^ w
/-- imadw. -/
def imadwOf (ty : NumType) (b c e : Nat) : Nat := wrapInt 64 (valOf ty b * valOf ty c + (e : Int))
/-- iabs. -/
def iabsOf (ty : NumType) (sat : Bool) (b : Nat) : Nat :=
  resultOf ty sat (if valOf ty b < 0 then -valOf ty b else valOf ty b)
/-- ineg. -/
def inegOf (ty : NumType) (sat : Bool) (b : Nat) : Nat := resultOf ty sat (-valOf ty b)
/-- imin. -/
def iminOf (ty : NumType) (b c : Nat) : Nat := if valOf ty c < valOf ty b then c else b
/-- imax. -/
def imaxOf (ty : NumType) (b c : Nat) : Nat := if valOf ty c > valOf ty b then c else b

/-- The distance of a shift, or none where .clamp shifts everything out (R85). -/
def shiftBy (f w n : Nat) : Option Nat := if f = 0 then some (n % w) else if n < w then some n else none

/-- shl. -/
def shlOf (f w b n : Nat) : Nat :=
  match shiftBy f w n with
  | some k => b * 2 ^ k % 2 ^ w
  | none => 0
/-- shr. -/
def shrOf (f w b n : Nat) : Nat :=
  match shiftBy f w n with
  | some k => b / 2 ^ k
  | none => 0
/-- sra. -/
def sraOf (f w b n : Nat) : Nat :=
  match shiftBy f w n with
  | some k => wrapInt w (toSigned w b / ((2 ^ k : Nat) : Int))
  | none => if bitB b (w - 1) then 2 ^ w - 1 else 0
/-- rot: left for F 0, right for F 1. -/
def rotOf (f w b n : Nat) : Nat :=
  let k := if f = 0 then n % w else (w - n % w) % w
  b * 2 ^ k % 2 ^ w + b / 2 ^ (w - k)

/-- The number whose bit i is p i, below w bits. -/
def ofBits (w : Nat) (p : Nat → Bool) : Nat := maskOf ((List.range w).filter p)

/-- blogic: bit i is the table's bit at b + 2c + 4a (R84). -/
def blogicOf (w t b c a : Nat) : Nat := ofBits w fun i => bitB t (bitN b i + 2 * bitN c i + 4 * bitN a i)

/-- clz. -/
def clzOf (w b : Nat) : Nat := if b = 0 then w else w - 1 - Nat.log2 b
/-- ctz. -/
def ctzOf (w b : Nat) : Nat := ((List.range w).find? (bitB b)).getD w
/-- brev. -/
def brevOf (w b : Nat) : Nat := ofBits w fun i => bitB b (w - 1 - i)

/-- bfe (R86). -/
def bfeOf (ty : NumType) (b c e : Nat) : Nat :=
  let w := ty.bits
  let p := min c w
  let n := min e w
  let f := ofBits n fun i => if p + i < w then bitB b (p + i) else signedTy ty && bitB b (w - 1)
  if n = 0 then 0 else if signedTy ty then signExt n w f else f

/-- bfi (R86). -/
def bfiOf (w a b c e : Nat) : Nat :=
  let p := min c w
  let n := min e w
  ofBits w fun i => if p ≤ i ∧ i < p + n then bitB b (i - p) else bitB a i

/-- Bytes of bpick from byte k on, after the bytes below (R86). -/
def bpickFrom (b c e : Nat) : Nat → Nat → List Nat → List Nat
  | 0, _, acc => acc
  | n + 1, k, acc =>
    let sel := bits e (4 * k + 3) (4 * k)
    let y := if sel < 4 then bits b (8 * sel + 7) (8 * sel) else bits c (8 * (sel - 4) + 7) (8 * (sel - 4))
    let v := if sel ≤ 7 then y else if sel = 9 then 0xFF
      else if sel = 10 ∧ 0 < k ∧ 128 ≤ acc.getD (k - 1) 0 then 0xFF else 0
    bpickFrom b c e n (k + 1) (acc ++ [v])

/-- bpick (R86). -/
def bpickOf (b c e : Nat) : Nat := ofBytes ((bpickFrom b c e 4 0 []).map (BitVec.ofNat 8 ·))

/-- The conditions of icmp by F (R87). -/
def icmpOf (f : Nat) (ty : NumType) (b c : Nat) : Bool :=
  let x := valOf ty b
  let y := valOf ty c
  match f with
  | 0 => x == y | 1 => x != y | 2 => x < y | 3 => x ≤ y | 4 => x > y | _ => x ≥ y

/-- lea (R87). -/
def leaOf (ty : NumType) (b c sh : Nat) : Nat :=
  let ext := if ty == .i32 then signExt 32 64 c else c
  (b + ext * 2 ^ sh) % 2 ^ 64

/-! ## The forms -/

/-- An operation on one, two or three sources in the order B, C, E, per active lane. -/
def Run.intL (r : Run) (a k : Nat) (srcs : Nat → List (PV Nat)) (f : List Nat → Nat) : State :=
  r.lanesV a k fun l => combine (srcs l) f

/-- The same once, in a U-word, the result extended by its type (R80). -/
def Run.intU (r : Run) (a : Nat) (srcs : List (PV Nat)) (f : List Nat → Nat) : State :=
  r.done (r.g.writeS a (combine srcs f))

/-- One source: B. -/
def Run.l1 (r : Run) (x : Std) (f : Nat → Nat) : State :=
  r.intL x.a.toNat x.ty.regs (fun l => [r.srcB x.b x.ty l]) fun | [b] => f b | _ => 0
/-- One source, a single-register result. -/
def Run.l1n (r : Run) (x : Std) (f : Nat → Nat) : State :=
  r.intL x.a.toNat 1 (fun l => [r.srcB x.b x.ty l]) fun | [b] => f b | _ => 0
/-- Two sources: B and C of `w` bits. -/
def Run.l2 (r : Run) (x : Std) (w : Nat) (f : Nat → Nat → Nat) : State :=
  r.intL x.a.toNat x.ty.regs (fun l => [r.srcB x.b x.ty l, r.src x.c w l]) fun | [b, c] => f b c | _ => 0
/-- Three sources: B, C of `w` bits and E of `v` bits. -/
def Run.l3 (r : Run) (x : Std) (w v : Nat) (f : Nat → Nat → Nat → Nat) : State :=
  r.intL x.a.toNat x.ty.regs (fun l => [r.srcB x.b x.ty l, r.src x.c w l, r.src x.e v l]) fun
    | [b, c, e] => f b c e | _ => 0

/-- One source in a U-word. -/
def Run.u1 (r : Run) (x : Std) (f : Nat → Nat) : State :=
  r.intU x.a.toNat [r.uB x.b x.ty.bits] fun | [b] => extTy x.ty (f b) | _ => 0
/-- Two sources in a U-word. -/
def Run.u2 (r : Run) (x : Std) (w : Nat) (f : Nat → Nat → Nat) : State :=
  r.intU x.a.toNat [r.uB x.b x.ty.bits, r.src x.c w 0] fun | [b, c] => extTy x.ty (f b c) | _ => 0
/-- Three sources in a U-word. -/
def Run.u3 (r : Run) (x : Std) (w v : Nat) (f : Nat → Nat → Nat → Nat) : State :=
  r.intU x.a.toNat [r.uB x.b x.ty.bits, r.src x.c w 0, r.src x.e v 0] fun
    | [b, c, e] => extTy x.ty (f b c e) | _ => 0

/-- A carry form per lane: result and carry, both poisoned by any poison (R88). -/
def Run.carryL (r : Run) (x : Std) (f : Nat → Nat → Nat → Nat × Bool) : State :=
  let p := srcNum x.e
  let srcs := fun l => [r.srcB x.b x.ty l, r.src x.c x.ty.bits l, predVal (r.g.getP p l)]
  let g1 := r.putLanes x.a.toNat x.ty.regs fun l => combine (srcs l) fun | [b, c, i] => (f b c i).1 | _ => 0
  r.done (r.act.foldl (fun g l =>
    g.setP p l (combineB (srcs l) fun | [b, c, i] => (f b c i).2 | _ => false)) g1)

/-- A carry form in a U-word. -/
def Run.carryU (r : Run) (x : Std) (f : Nat → Nat → Nat → Nat × Bool) : State :=
  let q := srcNum x.e
  let srcs := [r.uB x.b x.ty.bits, r.src x.c x.ty.bits 0, predVal (r.g.getQ q)]
  r.done ((r.g.writeS x.a.toNat (combine srcs fun | [b, c, i] => extTy x.ty (f b c i).1 | _ => 0)).setQ q
    (combineB srcs fun | [b, c, i] => (f b c i).2 | _ => false))

/-- iadd (R82, R83). -/
def execIadd (x : Std) (s : State) : Out := .next <| gate (.iadd x) s fun r => r.l2 x x.ty.bits (iaddOf x.ty x.sat)
/-- isub (R82, R83). -/
def execIsub (x : Std) (s : State) : Out := .next <| gate (.isub x) s fun r => r.l2 x x.ty.bits (isubOf x.ty x.sat)
/-- iaddc (R82, R88). -/
def execIaddc (x : Std) (s : State) : Out := .next <| gate (.iaddc x) s fun r => r.carryL x (iaddcOf x.ty.bits)
/-- isubb (R82, R88). -/
def execIsubb (x : Std) (s : State) : Out := .next <| gate (.isubb x) s fun r => r.carryL x (isubbOf x.ty.bits)
/-- imul (R82). -/
def execImul (x : Std) (s : State) : Out := .next <| gate (.imul x) s fun r => r.l2 x x.ty.bits (imulOf x.ty.bits)
/-- imulhi (R82). -/
def execImulhi (x : Std) (s : State) : Out := .next <| gate (.imulhi x) s fun r => r.l2 x x.ty.bits (imulhiOf x.ty)
/-- imad (R82). -/
def execImad (x : Std) (s : State) : Out :=
  .next <| gate (.imad x) s fun r => r.l3 x x.ty.bits x.ty.bits (imadOf x.ty.bits)
/-- imadw (R82): 32-bit factors, a 64-bit addend and result. -/
def execImadw (x : Std) (s : State) : Out := .next <| gate (.imadw x) s fun r =>
  r.intL x.a.toNat 2 (fun l => [r.g.readV x.b.toNat l 1, r.src x.c 32 l, r.src x.e 64 l]) fun
    | [b, c, e] => imadwOf x.ty b c e | _ => 0
/-- iabs (R82, R83). -/
def execIabs (x : Std) (s : State) : Out := .next <| gate (.iabs x) s fun r => r.l1 x (iabsOf x.ty x.sat)
/-- ineg (R82, R83). -/
def execIneg (x : Std) (s : State) : Out := .next <| gate (.ineg x) s fun r => r.l1 x (inegOf x.ty x.sat)
/-- imin (R82). -/
def execImin (x : Std) (s : State) : Out := .next <| gate (.imin x) s fun r => r.l2 x x.ty.bits (iminOf x.ty)
/-- imax (R82). -/
def execImax (x : Std) (s : State) : Out := .next <| gate (.imax x) s fun r => r.l2 x x.ty.bits (imaxOf x.ty)
/-- shl (R85). -/
def execShl (x : Std) (s : State) : Out := .next <| gate (.shl x) s fun r => r.l2 x 32 (shlOf x.f.toNat x.ty.bits)
/-- shr (R85). -/
def execShr (x : Std) (s : State) : Out := .next <| gate (.shr x) s fun r => r.l2 x 32 (shrOf x.f.toNat x.ty.bits)
/-- sra (R85). -/
def execSra (x : Std) (s : State) : Out := .next <| gate (.sra x) s fun r => r.l2 x 32 (sraOf x.f.toNat x.ty.bits)
/-- rot (R85). -/
def execRot (x : Std) (s : State) : Out := .next <| gate (.rot x) s fun r => r.l2 x 32 (rotOf x.f.toNat x.ty.bits)
/-- and (R84). -/
def execAnd (x : Std) (s : State) : Out := .next <| gate (.and x) s fun r => r.l2 x x.ty.bits fun b c => b &&& c
/-- or (R84). -/
def execOr (x : Std) (s : State) : Out := .next <| gate (.or x) s fun r => r.l2 x x.ty.bits fun b c => b ||| c
/-- xor (R84). -/
def execXor (x : Std) (s : State) : Out := .next <| gate (.xor x) s fun r => r.l2 x x.ty.bits fun b c => b ^^^ c
/-- not (R84). -/
def execNot (x : Std) (s : State) : Out := .next <| gate (.not x) s fun r => r.l1 x fun b => 2 ^ x.ty.bits - 1 - b
/-- blogic (R84, R88): the old destination is read last. -/
def execBlogic (x : Std) (s : State) : Out := .next <| gate (.blogic x) s fun r =>
  r.intL x.a.toNat x.ty.regs (fun l => [r.srcB x.b x.ty l, r.src x.c x.ty.bits l, r.srcB x.a x.ty l]) fun
    | [b, c, a] => blogicOf x.ty.bits (srcNum x.e) b c a | _ => 0
/-- popc (R86). -/
def execPopc (x : Std) (s : State) : Out := .next <| gate (.popc x) s fun r => r.l1n x (popcount x.ty.bits)
/-- clz (R86). -/
def execClz (x : Std) (s : State) : Out := .next <| gate (.clz x) s fun r => r.l1n x (clzOf x.ty.bits)
/-- ctz (R86). -/
def execCtz (x : Std) (s : State) : Out := .next <| gate (.ctz x) s fun r => r.l1n x (ctzOf x.ty.bits)
/-- brev (R86). -/
def execBrev (x : Std) (s : State) : Out := .next <| gate (.brev x) s fun r => r.l1 x (brevOf x.ty.bits)
/-- bfe (R86). -/
def execBfe (x : Std) (s : State) : Out := .next <| gate (.bfe x) s fun r => r.l3 x 32 32 (bfeOf x.ty)
/-- bfi (R86, R88): the old destination is read last. -/
def execBfi (x : Std) (s : State) : Out := .next <| gate (.bfi x) s fun r =>
  r.intL x.a.toNat x.ty.regs
    (fun l => [r.srcB x.b x.ty l, r.src x.c 32 l, r.src x.e 32 l, r.srcB x.a x.ty l]) fun
    | [b, c, e, a] => bfiOf x.ty.bits a b c e | _ => 0
/-- bpick (R86). -/
def execBpick (x : Std) (s : State) : Out := .next <| gate (.bpick x) s fun r => r.l3 x 32 32 bpickOf
/-- icmp (R87). -/
def execIcmp (x : Std) (s : State) : Out := .next <| gate (.icmp x) s fun r =>
  r.lanesP x.a.toNat fun l => combineB [r.srcB x.b x.ty l, r.src x.c x.ty.bits l] fun
    | [b, c] => icmpOf x.f.toNat x.ty b c | _ => false
/-- The s-registers of isel that no active lane selects: they are not read (R88). -/
def unselected (x : Std) (s : State) : List Nat :=
  match runOf s with
  | none => []
  | some r =>
    let lanes := match (Instr.isel x).fields.map fun f => r.guarded f.dom f.guard with
      | some (.active act) => act
      | _ => []
    if lanes.any fun l => r.g.getP (srcNum x.e) l == .ok false then [] else srcSNums x.c

/-- isel (R87, R88): the predicate first, then only the operand it selects. -/
def execIsel (x : Std) (s : State) : Out := .next <| gate (.isel x) s (exempt := unselected x s) fun r =>
  r.done (r.act.foldl (fun g l =>
    match r.g.getP (srcNum x.e) l with
    | .bad t => g.writeV x.a.toNat l x.ty.regs (.bad t)
    | .ok true => g.writeV x.a.toNat l x.ty.regs (r.srcB x.b x.ty l)
    | .ok false => g.writeV x.a.toNat l x.ty.regs (r.src x.c x.ty.bits l)) r.g)
/-- lea (R87): a 64-bit base and result. -/
def execLea (x : Std) (s : State) : Out := .next <| gate (.lea x) s fun r =>
  r.intL x.a.toNat 2 (fun l => [r.g.readV x.b.toNat l 2, r.src x.c x.ty.bits l]) fun
    | [b, c] => leaOf x.ty b c (srcNum x.e) | _ => 0

/-- U iadd. -/
def execIaddU (x : Std) (s : State) : Out := .next <| gate (.iaddU x) s fun r => r.u2 x x.ty.bits (iaddOf x.ty x.sat)
/-- U isub. -/
def execIsubU (x : Std) (s : State) : Out := .next <| gate (.isubU x) s fun r => r.u2 x x.ty.bits (isubOf x.ty x.sat)
/-- U iaddc. -/
def execIaddcU (x : Std) (s : State) : Out := .next <| gate (.iaddcU x) s fun r => r.carryU x (iaddcOf x.ty.bits)
/-- U isubb. -/
def execIsubbU (x : Std) (s : State) : Out := .next <| gate (.isubbU x) s fun r => r.carryU x (isubbOf x.ty.bits)
/-- U imul. -/
def execImulU (x : Std) (s : State) : Out := .next <| gate (.imulU x) s fun r => r.u2 x x.ty.bits (imulOf x.ty.bits)
/-- U imulhi. -/
def execImulhiU (x : Std) (s : State) : Out := .next <| gate (.imulhiU x) s fun r => r.u2 x x.ty.bits (imulhiOf x.ty)
/-- U imad. -/
def execImadU (x : Std) (s : State) : Out :=
  .next <| gate (.imadU x) s fun r => r.u3 x x.ty.bits x.ty.bits (imadOf x.ty.bits)
/-- U imadw: E and A at 64 bits. -/
def execImadwU (x : Std) (s : State) : Out := .next <| gate (.imadwU x) s fun r =>
  r.intU x.a.toNat [r.uB x.b 32, r.src x.c 32 0, r.src x.e 64 0] fun | [b, c, e] => imadwOf x.ty b c e | _ => 0
/-- U iabs. -/
def execIabsU (x : Std) (s : State) : Out := .next <| gate (.iabsU x) s fun r => r.u1 x (iabsOf x.ty x.sat)
/-- U ineg. -/
def execInegU (x : Std) (s : State) : Out := .next <| gate (.inegU x) s fun r => r.u1 x (inegOf x.ty x.sat)
/-- U imin. -/
def execIminU (x : Std) (s : State) : Out := .next <| gate (.iminU x) s fun r => r.u2 x x.ty.bits (iminOf x.ty)
/-- U imax. -/
def execImaxU (x : Std) (s : State) : Out := .next <| gate (.imaxU x) s fun r => r.u2 x x.ty.bits (imaxOf x.ty)
/-- U shl. -/
def execShlU (x : Std) (s : State) : Out := .next <| gate (.shlU x) s fun r => r.u2 x 32 (shlOf x.f.toNat x.ty.bits)
/-- U shr. -/
def execShrU (x : Std) (s : State) : Out := .next <| gate (.shrU x) s fun r => r.u2 x 32 (shrOf x.f.toNat x.ty.bits)
/-- U sra. -/
def execSraU (x : Std) (s : State) : Out := .next <| gate (.sraU x) s fun r => r.u2 x 32 (sraOf x.f.toNat x.ty.bits)
/-- U rot. -/
def execRotU (x : Std) (s : State) : Out := .next <| gate (.rotU x) s fun r => r.u2 x 32 (rotOf x.f.toNat x.ty.bits)
/-- U and. -/
def execAndU (x : Std) (s : State) : Out := .next <| gate (.andU x) s fun r => r.u2 x x.ty.bits fun b c => b &&& c
/-- U or. -/
def execOrU (x : Std) (s : State) : Out := .next <| gate (.orU x) s fun r => r.u2 x x.ty.bits fun b c => b ||| c
/-- U xor. -/
def execXorU (x : Std) (s : State) : Out := .next <| gate (.xorU x) s fun r => r.u2 x x.ty.bits fun b c => b ^^^ c
/-- U not. -/
def execNotU (x : Std) (s : State) : Out := .next <| gate (.notU x) s fun r => r.u1 x fun b => 2 ^ x.ty.bits - 1 - b
/-- U blogic: reads its old destination. -/
def execBlogicU (x : Std) (s : State) : Out :=
  .next <| gate (.blogicU x) s (extra := [x.a.toNat]) fun r =>
    r.intU x.a.toNat [r.uB x.b x.ty.bits, r.src x.c x.ty.bits 0, r.uB x.a x.ty.bits] fun
      | [b, c, a] => extTy x.ty (blogicOf x.ty.bits (srcNum x.e) b c a) | _ => 0
/-- U popc. -/
def execPopcU (x : Std) (s : State) : Out := .next <| gate (.popcU x) s fun r => r.u1 x (popcount x.ty.bits)
/-- U clz. -/
def execClzU (x : Std) (s : State) : Out := .next <| gate (.clzU x) s fun r => r.u1 x (clzOf x.ty.bits)
/-- U ctz. -/
def execCtzU (x : Std) (s : State) : Out := .next <| gate (.ctzU x) s fun r => r.u1 x (ctzOf x.ty.bits)
/-- U brev. -/
def execBrevU (x : Std) (s : State) : Out := .next <| gate (.brevU x) s fun r => r.u1 x (brevOf x.ty.bits)
/-- U bfe. -/
def execBfeU (x : Std) (s : State) : Out := .next <| gate (.bfeU x) s fun r => r.u3 x 32 32 (bfeOf x.ty)
/-- U bfi: reads its old destination. -/
def execBfiU (x : Std) (s : State) : Out :=
  .next <| gate (.bfiU x) s (extra := [x.a.toNat]) fun r =>
    r.intU x.a.toNat [r.uB x.b x.ty.bits, r.src x.c 32 0, r.src x.e 32 0, r.uB x.a x.ty.bits] fun
      | [b, c, e, a] => extTy x.ty (bfiOf x.ty.bits a b c e) | _ => 0
/-- U bpick. -/
def execBpickU (x : Std) (s : State) : Out := .next <| gate (.bpickU x) s fun r => r.u3 x 32 32 bpickOf
/-- U icmp: writes a q-register. -/
def execIcmpU (x : Std) (s : State) : Out := .next <| gate (.icmpU x) s fun r =>
  r.done (r.g.setQ x.a.toNat (combineB [r.uB x.b x.ty.bits, r.src x.c x.ty.bits 0] fun
    | [b, c] => icmpOf x.f.toNat x.ty b c | _ => false))
/-- The s-registers of U isel that its predicate does not select (R88). -/
def unselectedU (x : Std) (s : State) : List Nat :=
  match runOf s with
  | none => []
  | some r =>
    match r.g.getQ (srcNum x.e) with
    | .bad _ => x.b.toNat :: srcSNums x.c
    | .ok true => (srcSNums x.c).filter (· != x.b.toNat)
    | .ok false => [x.b.toNat].filter fun n => !(srcSNums x.c).contains n

/-- U isel: a poisoned selected operand is written as it stands (R88). -/
def execIselU (x : Std) (s : State) : Out := .next <| gate (.iselU x) s (exempt := unselectedU x s) fun r =>
  r.done (r.g.writeS x.a.toNat
    (match r.g.getQ (srcNum x.e) with
      | .bad t => .bad t
      | .ok true => (r.uB x.b x.ty.bits).map (extTy x.ty)
      | .ok false => (r.src x.c x.ty.bits 0).map (extTy x.ty)))
/-- U lea: B and A at 64 bits. -/
def execLeaU (x : Std) (s : State) : Out := .next <| gate (.leaU x) s fun r =>
  r.intU x.a.toNat [r.uB x.b 64, r.src x.c x.ty.bits 0] fun | [b, c] => leaOf x.ty b c (srcNum x.e) | _ => 0

end Sys2Proof.Machine
end

