-- ==== Sys2Proof/Machine/Lanes.lean ====
section
/-!
DEFINITION. The lane-crossing instructions (03_registers.md R72, R75, R76).
-/

namespace Sys2Proof.Machine

open Sys2Proof

/-- Src(B, j) at the width of the type, as the path reads it across lanes (R72). -/
def Run.across (r : Run) (b : BitVec 8) (ty : NumType) (j : Nat) : PV Nat :=
  r.g.acrossV r.s.tick r.lanes b.toNat j ty.regs

/-- Src(B, j) of all 32 lanes. -/
def Run.acrossAll (r : Run) (b : BitVec 8) (ty : NumType) : List (PV Nat) :=
  (List.range 32).map (r.across b ty)

/-- rdlane: the lane that bits 4:0 of C name, zero-extended. -/
def execRdlane (x : Std) (s : State) : Out := .next <| gate (.rdlane x) s fun r =>
  match r.src x.c 32 0 with
  | .bad t => r.onceS x.a.toNat (.bad t)
  | .ok k => r.onceS x.a.toNat (r.across x.b x.ty (k % 32))

/-- wrlane: lane C takes S[B] if it is active; an unknown lane poisons every active lane (R76). -/
def execWrlane (x : Std) (s : State) : Out := .next <| gate (.wrlane x) s fun r =>
  match r.src x.c 32 0 with
  | .bad t => r.lanesV x.a.toNat x.ty.regs fun _ => .bad t
  | .ok k =>
    r.done (if r.act.contains (k % 32) then
      r.g.writeV x.a.toNat (k % 32) x.ty.regs (r.g.readS x.b.toNat x.ty.bits) else r.g)

/-- The source lane of lxch, by F, for lane l of a segment of w lanes and operand c (R75). -/
def lxchLane (f w c l : Nat) : Nat :=
  let sb := l - l % w
  match f with
  | 0 => sb + c % w
  | 1 =>
    let j : Int := (l : Int) + toSigned 32 c
    if (sb : Int) ≤ j ∧ j < (sb : Int) + (w : Int) then j.toNat else l
  | 2 => sb + (l - sb + c % w) % w
  | _ => l ^^^ (c % w)

/-- lxch: each active lane takes its source lane's value. -/
def execLxch (x : Std) (s : State) : Out := .next <| gate (.lxch x) s fun r =>
  r.lanesV x.a.toNat x.ty.regs fun l =>
    match r.src x.c 32 l with
    | .bad t => .bad t
    | .ok c => r.across x.b x.ty (lxchLane x.f.toNat (srcNum x.e) c l)

/-- The 32 truth values of a predicate register, or the token of the lowest poisoned lane (R76). -/
def Run.predMask (r : Run) (b : BitVec 8) : PV Nat :=
  combine ((List.range 32).map fun j => predVal (r.g.acrossP r.s.tick r.lanes b.toNat j)) fun bs =>
    maskOf ((List.range 32).filter fun j => bs.getD j 0 == 1)

/-- pfold: a fold of the 32 predicates into a predicate, or their mask or count into an s-register. -/
def execPfold (x : Std) (s : State) : Out := .next <| gate (.pfold x) s fun r =>
  let m := r.predMask x.b
  match x.f.toNat with
  | 0 => r.lanesP x.a.toNat fun _ => m.map (· == 0xFFFFFFFF)
  | 1 => r.lanesP x.a.toNat fun _ => m.map (· != 0)
  | 2 => r.lanesP x.a.toNat fun _ => m.map fun v => v == 0 || v == 0xFFFFFFFF
  | 3 => r.lanesP x.a.toNat fun _ => m.map fun v => popcount 32 v % 2 == 1
  | 4 => r.onceS x.a.toNat m
  | _ => r.onceS x.a.toNat (m.map (popcount 32))

/-- The token a lane's match carries: its own, else that of the lowest poisoned lane (R76). -/
def matchTok (vs : List (PV Nat)) (l : Nat) : Option Word :=
  match vs.getD l (.ok 0) with
  | .bad t => some t
  | .ok _ => firstTok vs

/-- match: the lanes that hold the lane's value, or whether all 32 hold the same. -/
def execMatchv (x : Std) (s : State) : Out := .next <| gate (.matchv x) s fun r =>
  let vs := r.acrossAll x.b x.ty
  match x.f.toNat with
  | 0 => r.lanesV x.a.toNat 1 fun l =>
      match matchTok vs l with
      | some t => .bad t
      | none => .ok (maskOf ((List.range 32).filter fun j => vs.getD j (.ok 0) == vs.getD l (.ok 0)))
  | _ => r.lanesP x.a.toNat fun l =>
      match matchTok vs l with
      | some t => .bad t
      | none => .ok (vs.all fun v => v == vs.getD 0 (.ok 0))

/-- One step of redux at a width (R75). -/
def reduxOp (f : Nat) (ty : NumType) (a b : Nat) : Nat :=
  match f with
  | 0 => (a + b) % 2 ^ ty.bits
  | 1 => if valOf ty b < valOf ty a then b else a
  | 2 => if valOf ty b > valOf ty a then b else a
  | 3 => a &&& b
  | 4 => a ||| b
  | _ => a ^^^ b

/-- redux: the reduction of all 32 lanes, written once; a 32-bit result is extended by its type. -/
def execRedux (x : Std) (s : State) : Out := .next <| gate (.redux x) s fun r =>
  r.onceS x.a.toNat (combine (r.acrossAll x.b x.ty) fun vs =>
    match vs with
    | [] => 0
    | v :: rest => extTy x.ty (rest.foldl (reduxOp x.f.toNat x.ty) v))

end Sys2Proof.Machine
end

