-- ==== Sys2Proof/Machine/LinkEv.lean ====
section
/-!
DEFINITION. Epril Link (20_outside.md R367, R368), mortar and the vertical bus (18_fabric.md R322, R323).
-/

namespace Sys2Proof.Machine

open Sys2Proof

/-! ## Requests of peers (R367) -/

/-- The local CID of a source device and CID in the import table. -/
def importOf (s : State) (dev cid : Nat) : Option Nat :=
  (s.ctl.imports.find? fun e => bitB e.2 63 && bits e.2 25 16 == dev && bits e.2 9 0 == cid).map fun e => bits e.2 41 32

/-- A peer's request as a requester: master class 8 with the port as its index. -/
def whoPeer (port cid icn : Nat) : Who :=
  { team := 2 ^ 40, core := Config.cores, cid := cid, icn := icn, master := { cls := 8, idx := port } }

/-- The answer to a peer. -/
def answerPeer (s : State) (port dev code value : Nat) : State := reply s (.peer port dev code value)

/-- The kind of access of a peer's request: 0 read, 1 write, 2 + op an atomic of Table 11.12. -/
def peerKind (kind : Nat) : Access := if kind == 0 then .read else if kind == 1 then .write else .atomic

/-- Perform a peer's request on normal memory. An atomic carries its operand in the low bytes of its value and, for cas,
the comparand above it. -/
def performPeer (s : State) (who : Who) (port dev kind pa size value : Nat) : State :=
  if kind == 0 then
    match readNormal s who pa size .nl1 with
    | (t, .bytes bs) => answerPeer t port dev 0 (ofBytes bs)
    | (t, .report c) => answerPeer t port dev c 0
  else if kind == 1 then
    match writePlace s who (.normal pa) (toBytes size value) .nl1 with
    | (t, c) => answerPeer t port dev c 0
  else
    match atomicNormal s who pa size (kind - 2) (value % 2 ^ (8 * size)) (value / 2 ^ (8 * size) % 2 ^ (8 * size)) with
    | (t, .old x _) => answerPeer t port dev 0 x
    | (t, .report c) => answerPeer t port dev c 0

/-- REMOTE_REQUEST: a request that arrives over a port is mapped through the import table, dropped if stale (R46), and
checked as master class 8 with MINDEX = the port (R367). A pair absent from the table is denied. -/
def execRemoteRequest (port dev cid icn kind pa size value : Nat) (s : State) : Out := .next <|
  if 18 ≤ port || (portOf s port).st != 1 || s.ctl.fatal || !(size == 1 || size == 2 || size == 4 || size == 8) || pa % size != 0 then s
  else
    match importOf s dev cid with
    | none => answerPeer s port dev 3 0
    | some local_ =>
      if dropped s (96 + port) local_ icn || dropped s (sliceOf pa) local_ icn then s
      else performPeer s (whoPeer port local_ icn) port dev kind pa size value

/-! ## Ports (R368) -/

/-- LINK_TRAINED: training completes and the port is Active at the lanes trained, as far as lanes are in service. -/
def execLinkTrained (port lanes : Nat) (s : State) : Out := .next <|
  if 18 ≤ port || (portOf s port).width == 0 || lanes == 0 then s
  else modPort s port fun p => { p with st := 1, lanes := min (linkWidth lanes) p.width }

/-- LINK_RECOVERY: link-level retry fails or a lane faults, and the port enters Recovery. -/
def execLinkRecovery (port : Nat) (s : State) : Out := .next <|
  if (portOf s port).st == 1 then modPort s port fun p => { p with st := 2 } else s

/-- LINK_RECOVERY_TIMEOUT: Recovery passes 2^24 core clocks and the port goes Down. -/
def execLinkRecoveryTimeout (port : Nat) (s : State) : Out := .next <|
  if (portOf s port).st == 2 then linkDown s port else s

/-- LINK_PEER_LOST: the peer is lost and the port goes Down. -/
def execLinkPeerLost (port : Nat) (s : State) : Out := .next <| linkDown s port

/-! ## Mortar (R322) -/

/-- MORTAR_REPAIR: a module retrains or repairs a lane; its traffic passes over the others meanwhile. -/
def execMortarRepair (module : Nat) (s : State) : Out := .next <|
  if 12 ≤ module then s else { s with mortarOut := insertNat module s.mortarOut }

/-- MORTAR_MODULE_RETURN: the module returns to service. -/
def execMortarModuleReturn (module : Nat) (s : State) : Out := .next <|
  { s with mortarOut := s.mortarOut.filter (· != module) }

/-- A fatal package error (R374): issue stops and every context's state is lost. -/
def fatalError (s : State) (detail : Nat) : State :=
  let t := logError s { kind := 10, detail := detail }
  { t with
    ctx := [], ctxOps := [], teams := [], insts := [], notifs := [], queue := [], pushes := [], raster := [], closed := []
    texops := [], sfops := [], evicts := [], colGroups := [], colls := [], copies := [], mxops := [], walks := []
    decs := [], peerWrites := [], flaws := [], past := [], surfPast := [], olds := [], sets := [], ids := []
    l1 := [], requests := [], responses := [], snoops := [], reports := [], tlb := [], nonLeaf := [], faultq := []
    notices := [], updates := [], slots := [], relaunches := [], tiles := [], surf := [], surfBad := [], at_ := none
    ctl := { t.ctl with fatal := true } }

/-- MORTAR_LOSS: the module fails to return in its bound; with all 12 modules out the error is fatal (R322). -/
def execMortarLoss (module : Nat) (s : State) : Out := .next <|
  if 12 ≤ module || s.ctl.fatal then s
  else
    let s1 := { s with mortarOut := insertNat module s.mortarOut }
    if s1.mortarOut.length == 12 then fatalError s1 1 else s1

/-! ## The vertical bus (R323) -/

/-- VBUS_LANE_REPAIR: a lane fault is detected; a spare lane takes over, or the core is fenced (Table 18.3). -/
def execVbusLaneRepair (lane : Nat) (s : State) : Out := .next <| loseLane s lane

/-- Does a barrier phase, a ring wait, monw or hwait of a team on the die wait while a transfer of the team is on the
bus (Table 18.3)? -/
def busAwaited (s : State) (die : Nat) : Bool :=
  s.teams.any fun e =>
    e.2.slot.isSome && e.2.core / 128 == die &&
    (e.2.groups.any fun g => g.2.paths.any fun p => match p.2.wait with
      | .barrier .. => true
      | .ring .. => true
      | .monitor _ => true
      | .handle .. => true
      | _ => false) &&
    ((s.sfops.any fun o => o.2.team == e.1) || (s.texops.any fun o => o.2.team == e.1) || (s.pushes.any fun o => o.2.team == e.1) ||
      (s.evicts.any fun o => o.2.team == e.1))

/-- VBUS_RETRAIN: scheduled retraining falls due. It is deferred once while a transfer in flight is waited for, and is
then performed regardless (Table 18.3). -/
def execVbusRetrain (die : Nat) (s : State) : Out := .next <|
  if 2 ≤ die then s
  else if busAwaited s die && !(dieOf s die).vbusDue then modDie s die fun d => { d with vbusDue := true }
  else modDie s die fun d => { d with vbusFrozen := true, vbusDue := false }

/-- VERTICAL_BUS_UNFREEZE: the repair or retraining ends and the bus resumes. -/
def execVerticalBusUnfreeze (die : Nat) (s : State) : Out := .next <|
  if 2 ≤ die then s else modDie s die fun d => { d with vbusFrozen := false }

end Sys2Proof.Machine
end

