-- ==== Sys2Proof/Machine/Local.lean ====
section
/-!
DEFINITION. The scratch instructions ldl, stl and atml (10_local.md R176 to R182).
-/

namespace Sys2Proof.Machine

open Sys2Proof

/-- Bytes of a scratch access (Table 10.3). -/
def localWidth (x : Std) : Nat := if x.f == 1 then 16 else x.ty.bits / 8

/-- The checks of R181 on one address: in the local window, then those of R179. -/
def checkScratch (s : State) (who : Who) (va w : Nat) (align : Bool) : Check :=
  if isLocal va then checkLocal s who.team who.cid who.icn va w align else .bad 0xA none

/-- The first lane whose check fails or waits (R181). -/
def firstBadScratch (s : State) (who : Who) (as : List (Nat × Nat)) (w : Nat) (align : Bool) : Option (Nat × Check) :=
  as.findSome? fun a =>
    match checkScratch s who a.2 w align with
    | .ok _ => none
    | c => some (a.2, c)

/-- What a scratch read gives at an address that has passed its checks (R178, R182). -/
def readScratchAt (s : State) (who : Who) (va w : Nat) : State × Got :=
  match checkScratch s who va w true with
  | .ok (.scratch k off) => readScratch s who k off w
  | _ => (s, .bytes [])

/-- The scratch bytes at an address that has passed its checks. -/
def scratchAt (s : State) (who : Who) (va w : Nat) : List Byte :=
  match (readScratchAt s who va w).2 with
  | .bytes bs => bs
  | .report _ => []

/-- The first lane whose scratch read meets an error, or is denied in the save area of a saved team (R178, R182): the state
with what it logs, the address and the code. -/
def scratchFails (s : State) (who : Who) (as : List (Nat × Nat)) (w : Nat) : Option (State × Nat × Nat) :=
  as.findSome? fun a =>
    match readScratchAt s who a.2 w with
    | (t, .report c) => some (t, a.2, c)
    | _ => none

/-- Write scratch at an address that has passed its checks; the code of a denied write to the save area of a saved team
(R178). -/
def putScratch (s : State) (who : Who) (va : Nat) (bs : List Byte) : State × Nat :=
  match checkScratch s who va bs.length true with
  | .ok (.scratch k off) => writeScratch s who k off bs
  | _ => (s, 0)

/-- A write of scratch by a group: a denial is reported to it (R57). -/
def Run.putScratch (r : Run) (s : State) (va : Nat) (bs : List Byte) : State :=
  match Machine.putScratch s r.who va bs with
  | (t, c) => reportIf t r.tid r.gnum c

/-- A loaded value at the width of its destination: i8 and i16 sign-extended, the rest zero-extended (R181). -/
def extendLocal (ty : NumType) (x : Nat) : Nat := if ty == .i8 || ty == .i16 then signExt ty.bits 32 x else x

/-- ldl and ldl.x4 (R181). -/
def execLdl (x : Std) (s : State) : Out := .next <| gate (.ldl x) s fun r =>
  let w := localWidth x
  let ea := r.ea x.b x.c w
  let as := goodLanes (r.act.map fun l => (l, ea l))
  match firstBadScratch r.s r.who as w true with
  | some (va, c) => r.failAt r.s va c .read
  | none =>
    match scratchFails r.s r.who as w with
    | some (t, va, c) => r.faultIn t { code := c, addr := va }
    | none =>
    r.lanesV x.a.toNat (widthRegs w) fun l =>
      (ea l).map fun va => extendLocal x.ty (ofBytes (scratchAt r.s r.who va w))

/-- ldl.addr (R181): the address itself, its team made explicit; width 1 in check 3, no alignment, no access. -/
def execLdlAddr (x : Std) (s : State) : Out := .next <| gate (.ldlAddr x) s fun r =>
  let ea := r.ea x.b x.c 8
  let bad := fun (a : Nat × Nat) => match checkScratch r.s r.who a.2 1 false with
    | .bad c tr => some (a.2, Check.bad c tr)
    | _ => none
  match (goodLanes (r.act.map fun l => (l, ea l))).findSome? bad with
  | some (va, c) => r.failAt r.s va c .read
  | none =>
    r.lanesV x.a.toNat 2 fun l =>
      (ea l).map fun va => if bits va 49 20 == 0 then setBits va 49 20 (r.t.bind.save % 2 ^ 30) else va

/-- stl and stl.x4 (R181, R182). -/
def execStl (x : Std) (s : State) : Out := .next <| gate (.stl x) s fun r =>
  let w := localWidth x
  let k := widthRegs w
  let ea := r.ea x.b x.c w
  match r.act.findSome? fun l => firstTok [ea l, r.g.readV x.a.toNat l k] with
  | some t => r.raise t
  | none =>
    match firstBadScratch r.s r.who (r.act.map fun l => (l, (ea l).val)) w true with
    | some (va, c) => r.failAt r.s va c .write
    | none =>
      r.doneIn (r.act.foldl (fun t l => r.putScratch t (ea l).val (toBytes w (r.g.readV x.a.toNat l k).val)) r.s) r.g

/-- The number that Table 11.12 gives an operation of Table 10.3. -/
def atmlOp (f : Nat) (signed : Bool) : Nat :=
  match f with
  | 0 => 0
  | 1 => if signed then 1 else 2
  | 2 => if signed then 3 else 4
  | 3 => 5
  | 4 => 6
  | 5 => 7
  | 6 => 8
  | _ => 9

/-- The new value of a scratch atomic, none where it writes nothing, and its flags (R181). -/
def atmlOf (x : Std) (old v c : Nat) : Option Nat × Flags :=
  if x.f == 8 then
    let vs := [fmt32.decode old, fmt32.decode v]
    let t := FV.sum x.rnd vs
    let r := fmt32.roundFV x.rnd false t.1
    (some r.1, (sigFlags vs).or (t.2.or r.2))
  else atomicOf (atmlOp x.f.toNat (signedTy x.ty)) (x.ty.bits / 8) old v c

/-- Scratch atomics lane by lane. -/
def Run.atmlLanes (r : Run) (x : Std) (ea : Nat → Nat) : List Nat → State → Group → State × Group
  | [], s, g => (s, g)
  | l :: ls, s, g =>
    let w := x.ty.bits / 8
    let old := ofBytes (scratchAt s r.who (ea l) w)
    let n := atmlOf x old (r.src x.e x.ty.bits l).val (r.g.readV x.a.toNat l x.ty.regs).val
    let s1 := match n.1 with
      | some y => r.putScratch s (ea l) (toBytes w y)
      | none => s
    r.atmlLanes x ea ls s1 ((g.writeV x.a.toNat l x.ty.regs (.ok old)).orFlags n.2)

/-- atml (R181, R182). -/
def execAtml (x : Std) (s : State) : Out := .next <| gate (.atml x) s fun r =>
  let w := x.ty.bits / 8
  let ea := r.ea x.b x.c w
  let cmp := fun (l : Nat) => if x.f == 7 then r.g.readV x.a.toNat l x.ty.regs else .ok 0
  if r.act.isEmpty then r.done r.g
  else if r.t.paired then r.fault 0x16
  else
    match r.act.findSome? fun l => firstTok [ea l, r.src x.e x.ty.bits l, cmp l] with
    | some t => r.raise t
    | none =>
      match firstBadScratch r.s r.who (r.act.map fun l => (l, (ea l).val)) w true with
      | some (va, c) => r.failAt r.s va c .atomic
      | none =>
        match scratchFails r.s r.who (r.act.map fun l => (l, (ea l).val)) w with
        | some (t, va, c) => r.faultIn t { code := c, addr := va }
        | none =>
          let p := r.atmlLanes x (fun l => (ea l).val) r.act r.s r.g
          r.doneIn p.1 p.2

end Sys2Proof.Machine
end

