-- ==== Sys2Proof/Machine/Moves.lean ====
section
/-!
DEFINITION. Moves, predicate logic and poison instructions (03_registers.md R74, R77, R78).
-/

namespace Sys2Proof.Machine

open Sys2Proof

/-! ## Moves (R74) -/

/-- L mov: each active lane takes the operand. -/
def execMov (x : Std) (s : State) : Out := .next <| gate (.mov x) s fun r =>
  r.lanesV x.a.toNat x.ty.regs fun l => r.src x.c x.ty.bits l

/-- L movi: each active lane takes the value of the tail. -/
def execMovi (x : Imm) (s : State) : Out := .next <| gate (.movi x) s fun r =>
  r.lanesV x.a.toNat 1 fun _ => .ok x.imm.toNat

/-- movs: each active lane takes bits 31:0 of the s-register. -/
def execMovs (x : One) (s : State) : Out := .next <| gate (.movs x) s fun r =>
  r.lanesV x.a.toNat 1 fun _ => r.g.readS x.b.toNat 32

/-- srd: each active lane takes the special register, a pair for a 64-bit one. -/
def execSrd (x : One) (s : State) : Out := .next <| gate (.srd x) s fun r0 =>
  let r := r0.tickClock x.b.toNat
  r.lanesV x.a.toNat (if special64 x.b.toNat then 2 else 1) fun l => .ok (r.special x.b.toNat l)

/-- U mov: the value, with its poison, and the pending mark, without waiting (R161). -/
def execMovU (x : One) (s : State) : Out := .next <| gate (.movU x) s (exempt := [x.b.toNat]) fun r =>
  let g1 := r.g.setS x.a.toNat (r.g.getS x.b.toNat)
  r.done (if r.g.pend.contains x.b.toNat then { g1 with pend := insertNat x.a.toNat g1.pend } else g1)

/-- U movi: the sign-extended value of the tail. -/
def execMoviU (x : Imm) (s : State) : Out := .next <| gate (.moviU x) s fun r =>
  r.done (r.g.putS x.a.toNat (signExt 32 64 x.imm.toNat))

/-- movih: the tail above bits 31:0 of the register, whose poison is kept. -/
def execMovih (x : Imm) (s : State) : Out :=
  .next <| gate (.movih x) s (extra := [x.a.toNat]) fun r =>
    r.done (r.g.writeS x.a.toNat ((r.g.readS x.a.toNat 32).map fun v => x.imm.toNat * 2 ^ 32 + v))

/-- ssr: the special register, zero-extended. -/
def execSsr (x : One) (s : State) : Out := .next <| gate (.ssr x) s fun r0 =>
  let r := r0.tickClock x.b.toNat
  r.done (r.g.putS x.a.toNat (r.special x.b.toNat 0))

/-- swr: the RW fields of the special register; a poisoned source is raised (R71). -/
def execSwr (x : One) (s : State) : Out := .next <| gate (.swr x) s fun r =>
  match r.g.getS x.b.toNat with
  | .bad t => r.raise t
  | .ok v => r.done (r.g.writeSpecial x.a.toNat (v.toNat % 2 ^ 32))

/-! ## Predicate logic and conversion (R77) -/

/-- plop in one place: bit 2b + c of the truth table, poison in the order B, C. -/
def plopOf (f : BitVec 4) (b c : PV Bool) : PV Bool :=
  combineB [predVal b, predVal c] fun
    | [b, c] => bitB f.toNat (2 * b + c)
    | _ => false

/-- L plop. -/
def execPlop (x : Std) (s : State) : Out := .next <| gate (.plop x) s fun r =>
  r.lanesP x.a.toNat fun l => plopOf x.f (r.g.getP x.b.toNat l) (r.g.getP (srcNum x.c) l)

/-- U plop. -/
def execPlopU (x : Std) (s : State) : Out := .next <| gate (.plopU x) s fun r =>
  r.done (r.g.setQ x.a.toNat (plopOf x.f (r.g.getQ x.b.toNat) (r.g.getQ (srcNum x.c))))

/-- pmask: lane l takes bit l of the operand. -/
def execPmask (x : Std) (s : State) : Out := .next <| gate (.pmask x) s fun r =>
  r.lanesP x.a.toNat fun l => (r.src x.c 32 l).map fun m => bitB m l

/-- pset: from a q-register, plain or inverted, or from a v-register's being nonzero or zero. -/
def execPset (x : Std) (s : State) : Out := .next <| gate (.pset x) s fun r =>
  r.lanesP x.a.toNat fun l =>
    match x.f.toNat with
    | 0 => r.g.getQ x.b.toNat
    | 1 => (r.g.getQ x.b.toNat).map not
    | 2 => (r.g.readV x.b.toNat l 1).map (· != 0)
    | _ => (r.g.readV x.b.toNat l 1).map (· == 0)

/-! ## Poison instructions (R78) -/

/-- The token of the register that F and B name, in a lane; none where it is not poisoned. -/
def Group.tokenAt (g : Group) (f b l : Nat) : Option Word :=
  match f with
  | 0 => (g.readV b l 1).tok?
  | 1 => (g.readV b l 2).tok?
  | 2 => (g.getP b l).tok?
  | _ => (g.getS b).tok?

/-- chk: raise the poison of the lowest active lane that has any. -/
def execChk (x : Std) (s : State) : Out := .next <| gate (.chk x) s fun r =>
  match r.act.findSome? fun l => r.g.tokenAt x.f.toNat x.b.toNat l with
  | some t => r.raise t
  | none => r.done r.g

/-- ptest: whether the register is poisoned, without poison. -/
def execPtest (x : Std) (s : State) : Out := .next <| gate (.ptest x) s fun r =>
  r.lanesP x.a.toNat fun l => .ok (r.g.tokenAt x.f.toNat x.b.toNat l).isSome

/-- A poisoned v-register keeps its token as its value, without poison. -/
def Group.scrubV (g : Group) (n l : Nat) : Group :=
  match g.getV n l with
  | .bad t => g.setV n l (.ok t)
  | .ok _ => g

/-- A poisoned predicate becomes false. -/
def Group.scrubP (g : Group) (n l : Nat) : Group :=
  match g.getP n l with
  | .bad _ => g.setP n l (.ok false)
  | .ok _ => g

/-- A poisoned s-register keeps its token in bits 31:0. -/
def Group.scrubS (g : Group) (n : Nat) : Group :=
  match g.getS n with
  | .bad t => g.putS n t.toNat
  | .ok _ => g

/-- pscrub: clear the poison of the named register in each active lane; an s-register once (R70). -/
def execPscrub (x : Std) (s : State) : Out :=
  .next <| gate (.pscrub x) s (extra := if x.f.toNat == 3 then [x.a.toNat] else []) fun r =>
    let a := x.a.toNat
    match x.f.toNat with
    | 0 => r.done (r.act.foldl (fun g l => g.scrubV a l) r.g)
    | 1 => r.done (r.act.foldl (fun g l => (g.scrubV a l).scrubV (a + 1) l) r.g)
    | 2 => r.done (r.act.foldl (fun g l => g.scrubP a l) r.g)
    | _ => r.done (if r.act.isEmpty then r.g else r.g.scrubS a)

end Sys2Proof.Machine
end

