-- ==== Sys2Proof/Machine/Stash.lean ====
section
/-!
DEFINITION. The stash window instructions kmap, kunmap, kwb and kinv (10_local.md R183 to R191).
-/

namespace Sys2Proof.Machine

open Sys2Proof

/-- Do two ranges overlap? -/
def overlap (a n b m : Nat) : Bool := a < b + m && b < a + n

/-- The status of kmap for a window number below 16 (Tables 10.4, 10.6). -/
def kmapStatus (t : Team) (n base desc : Nat) : Nat :=
  let len := bits desc 31 0
  let soff := bits desc 51 32
  if (mfind n t.windows).isSome then 1
  else if base % 128 != 0 || len % 128 != 0 || len == 0 || soff % 128 != 0 || bits desc 63 62 == 3 ||
      t.hdr.stashBytes < soff + len || 2 ^ 56 < base + len || 0xF * 2 ^ 52 < base + len then 3
  else if t.windows.any fun w => overlap base len w.2.base w.2.len || overlap soff len w.2.soff w.2.len then 2
  else 0

/-- A window made live, with every word of its stash lines invalid (R191). -/
def Team.openWindow (t : Team) (n base desc : Nat) : Team :=
  let len := bits desc 31 0
  let soff := bits desc 51 32
  let inside := fun (o : Nat) => soff ≤ o && o < soff + len
  { t with
    windows := mput n { base := base, len := len, soff := soff, mode := bits desc 63 62 } t.windows
    valid := t.valid.filter fun w => !inside (4 * w)
    dirty := t.dirty.filter fun o => !inside o
    stashPa := t.stashPa.filter fun l => !inside (128 * l.1) }

/-- A window emptied: its words are no longer valid and no byte of it is dirty (R191). -/
def Team.closeWindow (t : Team) (n : Nat) : Team :=
  match mfind n t.windows with
  | none => t
  | some w =>
    let inside := fun (o : Nat) => w.soff ≤ o && o < w.soff + w.len
    { t with
      windows := merase n t.windows
      valid := t.valid.filter fun k => !inside (4 * k)
      dirty := t.dirty.filter fun o => !inside o
      stashPa := t.stashPa.filter fun l => !inside (128 * l.1) }

/-- Is a byte of the window the destination of a queued copy of the team, or does a matrix load of it still run, which may
fill lines of the window (R184, R191)? -/
def copiesInto (s : State) (tid : Nat) (w : Window) : Bool :=
  (s.copies.any fun c =>
    c.2.team == tid &&
    ((c.2.lanes.any fun l =>
        !l.done && ((l.dst :: l.meta_.toList).any fun a => overlap a.1 16 w.base w.len)) ||
      (c.2.kind == .cpw && c.2.ended.isNone && overlap c.2.dst c.2.len w.base w.len))) ||
  s.mxops.any fun o => o.2.team == tid && o.2.faulted.isNone && o.2.kind != .mzero && o.2.kind != .mst

/-- The window number of an instruction, or the token of its register. -/
def Run.windowNum (r : Run) (x : Std) : PV Nat := r.src x.e 64 0

/-- kmap (R191). -/
def execKmap (x : Std) (s : State) : Out := .next <| gate (.kmap x) s fun r =>
  let desc := r.src x.c 64 0
  match firstTok [r.uB x.b 64, desc, r.windowNum x] with
  | some t => r.raise t
  | none =>
    let n := (r.windowNum x).val
    let base := (r.uB x.b 64).val % 2 ^ 56
    let code := if 16 ≤ n then 3 else kmapStatus r.t n base desc.val
    let s1 := if code == 0 then modTeam r.s r.tid fun t => t.openWindow n base desc.val else r.s
    r.doneIn s1 (r.g.putS x.a.toNat code)

/-- kunmap and kinv: wait for the copies into the window, then write back or discard, then empty it (R191). -/
def Run.dropWindow (r : Run) (x : Std) (keep : Bool) : State :=
  match r.windowNum x with
  | .bad t => r.raise t
  | .ok n =>
    if 16 ≤ n then r.done (r.g.putS x.a.toNat 3)
    else
      match mfind n r.t.windows with
      | none => r.done (r.g.putS x.a.toNat 4)
      | some w =>
        if copiesInto r.s r.tid w then r.waitIn r.s .drain
        else
          let close := fun (q : Run) =>
            q.doneIn (modTeam q.s q.tid fun t => t.closeWindow n) (q.g.putS x.a.toNat 0)
          if keep then
            match r.writeBack fun k => k == n with
            | (q, none) => close q
            | (q, some f) => q.wbFault f
          else close r
/-- kunmap (R191). -/
def execKunmap (x : Std) (s : State) : Out := .next <| gate (.kunmap x) s fun r => r.dropWindow x true
/-- kinv (R191). -/
def execKinv (x : Std) (s : State) : Out := .next <| gate (.kinv x) s fun r => r.dropWindow x false

/-- kwb of one window (R191). -/
def execKwb (x : Std) (s : State) : Out := .next <| gate (.kwb x) s fun r =>
  match r.windowNum x with
  | .bad t => r.raise t
  | .ok n =>
    if 16 ≤ n then r.done (r.g.putS x.a.toNat 3)
    else if (mfind n r.t.windows).isNone then r.done (r.g.putS x.a.toNat 4)
    else
      match r.writeBack fun k => k == n with
      | (q, none) => q.doneIn q.s (q.g.putS x.a.toNat 0)
      | (q, some f) => q.wbFault f

/-- kwb.all (R191). -/
def execKwbAll (x : Std) (s : State) : Out := .next <| gate (.kwbAll x) s fun r =>
  match r.writeBack fun _ => true with
  | (q, none) => q.doneIn q.s (q.g.putS x.a.toNat 0)
  | (q, some f) => q.wbFault f

end Sys2Proof.Machine
end

