-- ==== Sys2Proof/Machine/TraceEv.lean ====
section
/-!
DEFINITION. The ray-traversal unit at work (17_footing.md R312, R313), with every f32 taken exactly as a whole number of
2^-149.
-/

namespace Sys2Proof.Machine

open Sys2Proof

/-! ## Exact values -/

/-- An extended rational: an infinity, or num / den with den positive. -/
inductive Ext
  | inf (neg : Bool)
  | frac (num : Int) (den : Nat)
deriving DecidableEq, Repr

/-- Is a at most b? -/
def Ext.le : Ext → Ext → Bool
  | .inf true, _ => true
  | _, .inf false => true
  | .inf false, _ => false
  | _, .inf true => false
  | .frac a b, .frac c d => decide (a * (d : Int) ≤ c * (b : Int))

/-- The larger of two. -/
def Ext.max (a b : Ext) : Ext := if a.le b then b else a
/-- The smaller of two. -/
def Ext.min (a b : Ext) : Ext := if a.le b then a else b

/-- A quotient of integers, the divisor not zero. -/
def ratio (n d : Int) : Ext := if d < 0 then .frac (-n) d.natAbs else .frac n d.natAbs

/-- An f32 that is not a NaN, as an extended rational. -/
def extOf (x : Nat) : Ext :=
  match fmt32.decode x with
  | .inf n => .inf n
  | .nan _ => .inf false
  | .fin n m e => .frac (FV.at (-149) (.fin n m e)) (2 ^ 149)

/-- Is an f32 pattern a NaN? -/
def isNaN32 (x : Nat) : Bool := nonFinite32 x && bits x 22 0 != 0

/-- A vector of three whole numbers. -/
abbrev V3 := Int × Int × Int

/-- The cross product. -/
def cross3 (a b : V3) : V3 := (a.2.1 * b.2.2 - a.2.2 * b.2.1, a.2.2 * b.1 - a.1 * b.2.2, a.1 * b.2.1 - a.2.1 * b.1)
/-- The dot product. -/
def dot3 (a b : V3) : Int := a.1 * b.1 + a.2.1 * b.2.1 + a.2.2 * b.2.2
/-- The difference. -/
def sub3 (a b : V3) : V3 := (a.1 - b.1, a.2.1 - b.2.1, a.2.2 - b.2.2)

/-- A ray. -/
structure Ray where
  o : V3
  d : V3
  lo : Ext
  hi : Ext
deriving DecidableEq, Repr

/-- Three f32 words from a list as whole numbers of 2^-149. -/
def vecAt (ws : List Nat) (i : Nat) : V3 := (coordFx (ws.getD i 0), coordFx (ws.getD (i + 1) 0), coordFx (ws.getD (i + 2) 0))

/-- A ray that misses without walking: a NaN, a zero direction, or tmin above tmax. -/
def noWalk (ws : List Nat) : Bool :=
  ws.any isNaN32 || ((ws.drop 3).take 3).all (fun x => x % 2 ^ 31 == 0) || !(extOf (ws.getD 6 0)).le (extOf (ws.getD 7 0))

/-! ## Boxes and triangles (R313) -/

/-- The interval of t in which a ray is between two bounds along one axis, none where it never is. -/
def slab (o d : Int) (lo hi : Ext) : Option (Ext × Ext) :=
  let far := fun (b : Ext) => match b with
    | .inf n => .inf (n != decide (d < 0))
    | .frac x _ => ratio (x - o) d
  if d == 0 then (if lo.le (.frac o (2 ^ 149)) && (Ext.frac o (2 ^ 149)).le hi then some (.inf true, .inf false) else none)
  else if d < 0 then some (far hi, far lo) else some (far lo, far hi)

/-- Is a box entered? Its words are lo x, y, z and hi x, y, z. -/
def Ray.enters (r : Ray) (ws : List Nat) : Bool :=
  let lo := fun (i : Nat) => extOf (ws.getD i 0)
  let hi := fun (i : Nat) => extOf (ws.getD (3 + i) 0)
  if ws.any isNaN32 || !((List.range 3).all fun i => (lo i).le (hi i)) then false
  else
    let axes := [(r.o.1, r.d.1), (r.o.2.1, r.d.2.1), (r.o.2.2, r.d.2.2)].mapIdx fun i e => slab e.1 e.2 (lo i) (hi i)
    if axes.any Option.isNone then false
    else
      let t := (axes.filterMap id).foldl (fun t s => (t.1.max s.1, t.2.min s.2)) (r.lo, r.hi)
      t.1.le t.2 && t.1 != .inf false && t.2 != .inf true

/-- A hit: t, w1 and w2 over a common positive denominator, PRIM, and the triangle's address. -/
structure RayHit where
  t : Int
  w1 : Int
  w2 : Int
  den : Nat
  prim : Nat
  va : Nat
deriving DecidableEq, Repr

/-- The hit of a candidate triangle, if there is one; `ws` are its twelve words. -/
def Ray.hit (r : Ray) (cull : Bool) (ws : List Nat) (va : Nat) : Option RayHit :=
  if (ws.take 9).any nonFinite32 then none
  else
    let v0 := vecAt ws 0
    let e1 := sub3 (vecAt ws 3) v0
    let e2 := sub3 (vecAt ws 6) v0
    let det := dot3 e1 (cross3 r.d e2)
    let sg : Int := if det < 0 then -1 else 1
    let k := sub3 r.o v0
    let q := cross3 k e1
    let w1 := sg * dot3 k (cross3 r.d e2)
    let w2 := sg * dot3 r.d q
    let t := sg * dot3 e2 q
    let n := det.natAbs
    if det == 0 || (cull && det < 0) then none
    else if 0 ≤ w1 && 0 ≤ w2 && w1 + w2 ≤ (n : Int) && r.lo.le (.frac t n) && (Ext.frac t n).le r.hi then
      some { t := t, w1 := w1, w2 := w2, den := n, prim := ws.getD 9 0, va := va }
    else none

/-- Is a hit before another: the least t, then the lower PRIM, then the lower address? -/
def RayHit.before (a b : RayHit) : Bool :=
  let l := a.t * (b.den : Int)
  let m := b.t * (a.den : Int)
  decide (l < m) || (l == m && (decide (a.prim < b.prim) || (a.prim == b.prim && decide (a.va < b.va))))

/-! ## The walk -/

/-- A node or a leaf still to be visited: the address, and a leaf's triangles. -/
structure Todo where
  va : Nat
  leaf : Option Nat := none
deriving DecidableEq, Repr

/-- Read 32-bit words by 8-byte plain reads of the lane's thread; the failing address with its check. -/
def readWords (s : State) (who : Who) (va : Nat) : Nat → State × Except (Nat × Check) (List Nat)
  | 0 => (s, .ok [])
  | n + 1 =>
    match readNum s who (va % 2 ^ 56) 8 with
    | (t, .error c) => (t, .error (va % 2 ^ 56, c))
    | (t, .ok x) =>
      match readWords t who (va + 8) n with
      | (u, .ok ws) => (u, .ok (x % 2 ^ 32 :: x / 2 ^ 32 :: ws))
      | e => e

/-- The children of a node whose boxes the ray enters, none where one of them is malformed (R312). -/
def nodeChildren (r : Ray) (ws : List Nat) : Option (List Todo) :=
  (List.range 4).foldr (fun k acc =>
    let c := ws.getD (24 + 2 * k) 0 + 2 ^ 32 * ws.getD (25 + 2 * k) 0
    let kind := bits c 63 62
    if kind == 0 || !r.enters ((ws.drop (6 * k)).take 6) then acc
    else
      match acc with
      | none => none
      | some ts =>
        if kind == 1 && bits c 61 56 == 0 && c % 128 == 0 then some ({ va := c % 2 ^ 56 } :: ts)
        else if kind == 2 && c % 16 == 0 then some ({ va := c % 2 ^ 56, leaf := some (bits c 61 56 + 1) } :: ts)
        else none) (some [])

/-- How a walk ends: with its hits, at the limit or on malformed data, or at a failed read. -/
inductive Walk'
  | hits (hs : List RayHit)
  | limit
  | fails (va : Nat) (c : Check)
deriving DecidableEq, Repr

/-- The candidates of a leaf that are hit, from its triangles on: none where a triangle is malformed. -/
def leafHits (who : Who) (r : Ray) (mask : Nat) (cull : Bool) : Nat → State → Nat → State × Except (Option (Nat × Check)) (List RayHit)
  | 0, s, _ => (s, .ok [])
  | n + 1, s, va =>
    match readWords s who va 6 with
    | (t, .error e) => (t, .error (some e))
    | (t, .ok ws) =>
      if 256 ≤ ws.getD 10 0 || ws.getD 11 0 != 0 then (t, .error none)
      else
        match leafHits who r mask cull n t (va + 48) with
        | (u, .ok hs) =>
          let h := if ws.getD 10 0 &&& mask == 0 then none else r.hit cull ws va
          (u, .ok (h.toList ++ hs))
        | e => e

/-- The walk, one node or leaf at a time, of at most so many; with .any it may stop at a hit. -/
def traceWalk (who : Who) (r : Ray) (mask f : Nat) : Nat → State → List Todo → List RayHit → State × Walk'
  | _, s, [], hs => (s, .hits hs)
  | 0, s, _ :: _, _ => (s, .limit)
  | n + 1, s, x :: xs, hs =>
    match x.leaf with
    | none =>
      match readWords s who x.va 16 with
      | (t, .error e) => (t, .fails e.1 e.2)
      | (t, .ok ws) =>
        match nodeChildren r ws with
        | none => (t, .limit)
        | some cs => traceWalk who r mask f n t (cs ++ xs) hs
    | some k =>
      match leafHits who r mask (bitB f 1) k s x.va with
      | (t, .error none) => (t, .limit)
      | (t, .error (some e)) => (t, .fails e.1 e.2)
      | (t, .ok new) =>
        if bitB f 0 && !(hs ++ new).isEmpty && Config.freeBool s.tick (2 ^ 45 + n) then (t, .hits (hs ++ new))
        else traceWalk who r mask f n t xs (hs ++ new)

/-! ## Results -/

/-- The results of a miss. -/
def missWords : List Nat := [0x7F800000, 0, 0, 0xFFFFFFFF]
/-- The results at the limit, or of malformed data. -/
def limitWords : List Nat := [0x7FC00000, 0, 0, 0xFFFFFFFE]

/-- The hit that a lane reports: the first of all, or any one with .any. -/
def chooseHit (s : State) (any : Bool) : List RayHit → Option RayHit
  | [] => none
  | h :: hs =>
    if any then some ((h :: hs).getD (Config.freeNat s.tick (2 ^ 44) % (h :: hs).length) h)
    else some (hs.foldl (fun a b => if b.before a then b else a) h)

/-- Four words that the spec does not determine. -/
def freeWords (s : State) (salt : Nat) : List Nat :=
  (List.range 4).map fun i => Config.freeNat s.tick (2 ^ 43 + 8 * salt + i) % 2 ^ 32

/-- One lane of trace. A ray whose origin or direction is infinite has no result in the spec; it is walked by none. -/
def traceLane (s : State) (o : TexOp) (l : Nat) (ops : PV (List Nat)) : State × LaneOut :=
  match ops with
  | .bad t => (s, .tok t)
  | .ok ws =>
    if noWalk ws then (s, .vals missWords)
    else if (ws.take 6).any nonFinite32 then (s, .vals (freeWords s (ws.getD 0 0)))
    else if o.desc % 128 != 0 then (s, .fails o.desc (.bad 4 none))
    else
      let r : Ray := { o := vecAt ws 0, d := vecAt ws 3, lo := extOf (ws.getD 6 0), hi := extOf (ws.getD 7 0) }
      match traceWalk (o.whoLane s l) r o.mask o.f 65536 s [{ va := o.desc }] [] with
      | (t, .fails va c) => (t, .fails va c)
      | (t, .limit) => (t, .vals limitWords)
      | (t, .hits hs) =>
        match chooseHit t (bitB o.f 0) hs with
        | none => (t, .vals missWords)
        | some h => (t, .vals [roundRat h.t h.den 0, roundRat h.w1 h.den 0, roundRat h.w2 h.den 0, h.prim])

/-- TRACE_RESULT: a traversal ends, once none of its reads has to wait. -/
def execTraceResult (id : Nat) (s : State) : Out := .next <|
  match mfind id s.texops with
  | none => s
  | some o =>
    if o.kind != .trace || busFrozen s o.core then s
    else
      match texLanes (fun t l ops => traceLane t o l ops) s o.lanes with
      | (t, outs) => if outs.any fun e => e.2.waits then s else deliverTex t id o 4 outs

end Sys2Proof.Machine
end

