-- ==== Sys2Proof/Machine/TranslationEv.lean ====
section
/-!
DEFINITION. Walks in flight and fault notices (12_translation.md R216 to R223).
-/

namespace Sys2Proof.Machine

open Sys2Proof

/-- PAGE_WALK_COMPLETE: the walk of a prefetch or fetch-ahead ends. A leaf fills the TLBs (R217), and a prefetch then
requests its line (R211); a failure leaves nothing (R219, R221). -/
def execPageWalkComplete (id : Nat) (s : State) : Out := .next <|
  match mfind id s.walks with
  | none => s
  | some w =>
    let s1 := { s with walks := merase id s.walks }
    match walk s (coreMaster w.core) w.cid w.va with
    | .fail .. => s1
    | .page pte l =>
      let s2 := tlbFill s1 w.core w.cid w.va pte l
      if w.fill && pteR pte && pteType pte == 0 && inHbm (leafPa pte l w.va) then
        let pa := leafPa pte l w.va
        { s2 with
          requests := mput s2.nextId
            { target := sliceOf pa, core := w.core, cid := w.cid, icn := w.icn, pa := pa / 128 * 128, bytes := [], isRead := true }
            s2.requests
          nextId := s2.nextId + 1 }
      else s2

/-- The bytes of a fault notice (Table 12.4). -/
def Notice.bytes (n : Notice) (seq : Nat) : List Byte :=
  toBytes 8 (n.va % 2 ^ 56) ++
  toBytes 8 (n.cid + n.icn * 2 ^ 16 + n.code * 2 ^ 24 + n.kind * 2 ^ 32 + n.lvl * 2 ^ 40 + b2n n.mal * 2 ^ 42 + b2n n.wb * 2 ^ 43 +
    b2n n.teamend * 2 ^ 44 + n.core * 2 ^ 48 + n.entry * 2 ^ 56) ++
  toBytes 8 seq ++ toBytes 8 0

/-- The queue that announces a context's faults on a core's die (R223). -/
def noticeQueue (s : State) (core cid : Nat) : Nat :=
  let d := dieOf s (dieOfCore core)
  if bitB (ctxOf s cid).flags 1 then d.hostq else d.pagerq

/-- Has the queue of a notice room (R223)? -/
def noticeRoom (s : State) (n : Notice) : Bool :=
  let q := noticeQueue s n.core n.cid
  (physNat s q 8 + 2 ^ 64 - physNat s (q + 8) 8) % 2 ^ 64 != 4096

/-- FAULT_NOTICE_WRITE: the core writes a waiting notice at TAIL, then TAIL + 1, then sends the interrupt of a host
queue (R223). While the queue is full the notice waits. -/
def execFaultNoticeWrite (id : Nat) (s : State) : Out := .next <|
  match mfind id s.notices with
  | none => s
  | some n =>
    if !noticeRoom s n then s
    else
      let m := coreMaster n.core
      let q := noticeQueue s n.core n.cid
      let tail := physNat s q 8
      let s1 := { s with notices := merase id s.notices }
      let s2 := (hwWrite s1 m (q + 64 + 32 * (tail % 4096)) (n.bytes tail)).1
      let s3 := (hwWrite s2 m q (toBytes 8 (tail + 1))).1
      if bitB (ctxOf s n.cid).flags 1 then sendIrq s3 ((dieOf s (dieOfCore n.core)).hostqvec % 2 ^ 11) else s3

end Sys2Proof.Machine
end

