-- ==== Sys2Proof/Machine/Dispatch.lean ====
section
/-!
DEFINITION. exec: one arm for every constructor of Instr, each a direct call of its meaning.
-/

namespace Sys2Proof.Machine

open Sys2Proof

def exec (i : Instr) (s : State) : Host.Outcome State Fault Refusal :=
  match i with
  | .mov x => Sys2Proof.Machine.execMov x s
  | .movi x => Sys2Proof.Machine.execMovi x s
  | .movs x => Sys2Proof.Machine.execMovs x s
  | .rdlane x => Sys2Proof.Machine.execRdlane x s
  | .wrlane x => Sys2Proof.Machine.execWrlane x s
  | .lxch x => Sys2Proof.Machine.execLxch x s
  | .pfold x => Sys2Proof.Machine.execPfold x s
  | .matchv x => Sys2Proof.Machine.execMatchv x s
  | .redux x => Sys2Proof.Machine.execRedux x s
  | .plop x => Sys2Proof.Machine.execPlop x s
  | .pmask x => Sys2Proof.Machine.execPmask x s
  | .pset x => Sys2Proof.Machine.execPset x s
  | .chk x => Sys2Proof.Machine.execChk x s
  | .ptest x => Sys2Proof.Machine.execPtest x s
  | .pscrub x => Sys2Proof.Machine.execPscrub x s
  | .iadd x => Sys2Proof.Machine.execIadd x s
  | .isub x => Sys2Proof.Machine.execIsub x s
  | .iaddc x => Sys2Proof.Machine.execIaddc x s
  | .isubb x => Sys2Proof.Machine.execIsubb x s
  | .imul x => Sys2Proof.Machine.execImul x s
  | .imulhi x => Sys2Proof.Machine.execImulhi x s
  | .imad x => Sys2Proof.Machine.execImad x s
  | .imadw x => Sys2Proof.Machine.execImadw x s
  | .iabs x => Sys2Proof.Machine.execIabs x s
  | .ineg x => Sys2Proof.Machine.execIneg x s
  | .imin x => Sys2Proof.Machine.execImin x s
  | .imax x => Sys2Proof.Machine.execImax x s
  | .shl x => Sys2Proof.Machine.execShl x s
  | .shr x => Sys2Proof.Machine.execShr x s
  | .sra x => Sys2Proof.Machine.execSra x s
  | .rot x => Sys2Proof.Machine.execRot x s
  | .and x => Sys2Proof.Machine.execAnd x s
  | .or x => Sys2Proof.Machine.execOr x s
  | .xor x => Sys2Proof.Machine.execXor x s
  | .not x => Sys2Proof.Machine.execNot x s
  | .blogic x => Sys2Proof.Machine.execBlogic x s
  | .popc x => Sys2Proof.Machine.execPopc x s
  | .clz x => Sys2Proof.Machine.execClz x s
  | .ctz x => Sys2Proof.Machine.execCtz x s
  | .brev x => Sys2Proof.Machine.execBrev x s
  | .bfe x => Sys2Proof.Machine.execBfe x s
  | .bfi x => Sys2Proof.Machine.execBfi x s
  | .bpick x => Sys2Proof.Machine.execBpick x s
  | .icmp x => Sys2Proof.Machine.execIcmp x s
  | .isel x => Sys2Proof.Machine.execIsel x s
  | .lea x => Sys2Proof.Machine.execLea x s
  | .srd x => Sys2Proof.Machine.execSrd x s
  | .fadd x => Sys2Proof.Machine.execFadd x s
  | .fsub x => Sys2Proof.Machine.execFsub x s
  | .fmul x => Sys2Proof.Machine.execFmul x s
  | .ffma x => Sys2Proof.Machine.execFfma x s
  | .fmin x => Sys2Proof.Machine.execFmin x s
  | .fmax x => Sys2Proof.Machine.execFmax x s
  | .fcmp x => Sys2Proof.Machine.execFcmp x s
  | .fround x => Sys2Proof.Machine.execFround x s
  | .fclass x => Sys2Proof.Machine.execFclass x s
  | .fldexp x => Sys2Proof.Machine.execFldexp x s
  | .cvt x => Sys2Proof.Machine.execCvt x s
  | .fdivfix x => Sys2Proof.Machine.execFdivfix x s
  | .fredux x => Sys2Proof.Machine.execFredux x s
  | .fdp2 x => Sys2Proof.Machine.execFdp2 x s
  | .idp4 x => Sys2Proof.Machine.execIdp4 x s
  | .lmul x => Sys2Proof.Machine.execLmul x s
  | .frcp x => Sys2Proof.Machine.execFrcp x s
  | .frsq x => Sys2Proof.Machine.execFrsq x s
  | .fsqrt x => Sys2Proof.Machine.execFsqrt x s
  | .fexp2 x => Sys2Proof.Machine.execFexp2 x s
  | .flog2 x => Sys2Proof.Machine.execFlog2 x s
  | .fsin x => Sys2Proof.Machine.execFsin x s
  | .fcos x => Sys2Proof.Machine.execFcos x s
  | .pkop x => Sys2Proof.Machine.execPkop x s
  | .pkmul x => Sys2Proof.Machine.execPkmul x s
  | .pkfma x => Sys2Proof.Machine.execPkfma x s
  | .ld x => Sys2Proof.Machine.execLd x s
  | .st x => Sys2Proof.Machine.execSt x s
  | .atom x => Sys2Proof.Machine.execAtom x s
  | .red x => Sys2Proof.Machine.execRed x s
  | .pf x => Sys2Proof.Machine.execPf x s
  | .fence x => Sys2Proof.Machine.execFence x s
  | .ldl x => Sys2Proof.Machine.execLdl x s
  | .ldlAddr x => Sys2Proof.Machine.execLdlAddr x s
  | .stl x => Sys2Proof.Machine.execStl x s
  | .atml x => Sys2Proof.Machine.execAtml x s
  | .cpl x => Sys2Proof.Machine.execCpl x s
  | .cpxExpand x => Sys2Proof.Machine.execCpxExpand x s
  | .cpxCompact x => Sys2Proof.Machine.execCpxCompact x s
  | .cpz x => Sys2Proof.Machine.execCpz x s
  | .tdrain x => Sys2Proof.Machine.execTdrain x s
  | .tfeed x => Sys2Proof.Machine.execTfeed x s
  | .sfblend x => Sys2Proof.Machine.execSfblend x s
  | .sfdepth x => Sys2Proof.Machine.execSfdepth x s
  | .sfld x => Sys2Proof.Machine.execSfld x s
  | .sfst x => Sys2Proof.Machine.execSfst x s
  | .tex x => Sys2Proof.Machine.execTex x s
  | .texg x => Sys2Proof.Machine.execTexg x s
  | .texq x => Sys2Proof.Machine.execTexq x s
  | .trace x => Sys2Proof.Machine.execTrace x s
  | .bra x => Sys2Proof.Machine.execBra x s
  | .brx x => Sys2Proof.Machine.execBrx x s
  | .bri x => Sys2Proof.Machine.execBri x s
  | .call x => Sys2Proof.Machine.execCall x s
  | .ret x => Sys2Proof.Machine.execRet x s
  | .setmt x => Sys2Proof.Machine.execSetmt x s
  | .setmtR x => Sys2Proof.Machine.execSetmtR x s
  | .exit x => Sys2Proof.Machine.execExit x s
  | .nop x => Sys2Proof.Machine.execNop x s
  | .yld x => Sys2Proof.Machine.execYld x s
  | .brk x => Sys2Proof.Machine.execBrk x s
  | .movU x => Sys2Proof.Machine.execMovU x s
  | .moviU x => Sys2Proof.Machine.execMoviU x s
  | .movih x => Sys2Proof.Machine.execMovih x s
  | .ssr x => Sys2Proof.Machine.execSsr x s
  | .swr x => Sys2Proof.Machine.execSwr x s
  | .plopU x => Sys2Proof.Machine.execPlopU x s
  | .iaddU x => Sys2Proof.Machine.execIaddU x s
  | .isubU x => Sys2Proof.Machine.execIsubU x s
  | .iaddcU x => Sys2Proof.Machine.execIaddcU x s
  | .isubbU x => Sys2Proof.Machine.execIsubbU x s
  | .imulU x => Sys2Proof.Machine.execImulU x s
  | .imulhiU x => Sys2Proof.Machine.execImulhiU x s
  | .imadU x => Sys2Proof.Machine.execImadU x s
  | .imadwU x => Sys2Proof.Machine.execImadwU x s
  | .iabsU x => Sys2Proof.Machine.execIabsU x s
  | .inegU x => Sys2Proof.Machine.execInegU x s
  | .iminU x => Sys2Proof.Machine.execIminU x s
  | .imaxU x => Sys2Proof.Machine.execImaxU x s
  | .shlU x => Sys2Proof.Machine.execShlU x s
  | .shrU x => Sys2Proof.Machine.execShrU x s
  | .sraU x => Sys2Proof.Machine.execSraU x s
  | .rotU x => Sys2Proof.Machine.execRotU x s
  | .andU x => Sys2Proof.Machine.execAndU x s
  | .orU x => Sys2Proof.Machine.execOrU x s
  | .xorU x => Sys2Proof.Machine.execXorU x s
  | .notU x => Sys2Proof.Machine.execNotU x s
  | .blogicU x => Sys2Proof.Machine.execBlogicU x s
  | .popcU x => Sys2Proof.Machine.execPopcU x s
  | .clzU x => Sys2Proof.Machine.execClzU x s
  | .ctzU x => Sys2Proof.Machine.execCtzU x s
  | .brevU x => Sys2Proof.Machine.execBrevU x s
  | .bfeU x => Sys2Proof.Machine.execBfeU x s
  | .bfiU x => Sys2Proof.Machine.execBfiU x s
  | .bpickU x => Sys2Proof.Machine.execBpickU x s
  | .icmpU x => Sys2Proof.Machine.execIcmpU x s
  | .iselU x => Sys2Proof.Machine.execIselU x s
  | .leaU x => Sys2Proof.Machine.execLeaU x s
  | .sld x => Sys2Proof.Machine.execSld x s
  | .sst x => Sys2Proof.Machine.execSst x s
  | .satom x => Sys2Proof.Machine.execSatom x s
  | .fenceU x => Sys2Proof.Machine.execFenceU x s
  | .mon x => Sys2Proof.Machine.execMon x s
  | .monw x => Sys2Proof.Machine.execMonw x s
  | .kmap x => Sys2Proof.Machine.execKmap x s
  | .kunmap x => Sys2Proof.Machine.execKunmap x s
  | .kwb x => Sys2Proof.Machine.execKwb x s
  | .kwbAll x => Sys2Proof.Machine.execKwbAll x s
  | .kinv x => Sys2Proof.Machine.execKinv x s
  | .cpst x => Sys2Proof.Machine.execCpst x s
  | .cpw x => Sys2Proof.Machine.execCpw x s
  | .sfalloc x => Sys2Proof.Machine.execSfalloc x s
  | .sffree x => Sys2Proof.Machine.execSffree x s
  | .sfpin x => Sys2Proof.Machine.execSfpin x s
  | .sfpinUnpin x => Sys2Proof.Machine.execSfpinUnpin x s
  | .sfevict x => Sys2Proof.Machine.execSfevict x s
  | .sfmap x => Sys2Proof.Machine.execSfmap x s
  | .vqpush x => Sys2Proof.Machine.execVqpush x s
  | .vqfence x => Sys2Proof.Machine.execVqfence x s
  | .rsbind x => Sys2Proof.Machine.execRsbind x s
  | .ubra x => Sys2Proof.Machine.execUbra x s
  | .ujmp x => Sys2Proof.Machine.execUjmp x s
  | .ucall x => Sys2Proof.Machine.execUcall x s
  | .uret x => Sys2Proof.Machine.execUret x s
  | .loop x => Sys2Proof.Machine.execLoop x s
  | .exitU x => Sys2Proof.Machine.execExitU x s
  | .nopU x => Sys2Proof.Machine.execNopU x s
  | .hwait x => Sys2Proof.Machine.execHwait x s
  | .brkU x => Sys2Proof.Machine.execBrkU x s
  | .trap x => Sys2Proof.Machine.execTrap x s
  | .htest x => Sys2Proof.Machine.execHtest x s
  | .hcancel x => Sys2Proof.Machine.execHcancel x s
  | .region x => Sys2Proof.Machine.execRegion x s
  | .fcont x => Sys2Proof.Machine.execFcont x s
  | .fcontClr x => Sys2Proof.Machine.execFcontClr x s
  | .fret x => Sys2Proof.Machine.execFret x s
  | .binit x => Sys2Proof.Machine.execBinit x s
  | .barr x => Sys2Proof.Machine.execBarr x s
  | .bwait x => Sys2Proof.Machine.execBwait x s
  | .barw x => Sys2Proof.Machine.execBarw x s
  | .binv x => Sys2Proof.Machine.execBinv x s
  | .btest x => Sys2Proof.Machine.execBtest x s
  | .rgwait x => Sys2Proof.Machine.execRgwait x s
  | .rgwaitTest x => Sys2Proof.Machine.execRgwaitTest x s
  | .rgadv x => Sys2Proof.Machine.execRgadv x s
  | .gdec x => Sys2Proof.Machine.execGdec x s
  | .gadd x => Sys2Proof.Machine.execGadd x s
  | .gsig x => Sys2Proof.Machine.execGsig x s
  | .mlease x => Sys2Proof.Machine.execMlease x s
  | .mfree x => Sys2Proof.Machine.execMfree x s
  | .mma x => Sys2Proof.Machine.execMma x s
  | .mmaResume x => Sys2Proof.Machine.execMmaResume x s
  | .mmas x => Sys2Proof.Machine.execMmas x s
  | .mmo x => Sys2Proof.Machine.execMmo x s
  | .mzero x => Sys2Proof.Machine.execMzero x s
  | .mld x => Sys2Proof.Machine.execMld x s
  | .mst x => Sys2Proof.Machine.execMst x s
  | .mready x => Sys2Proof.Machine.execMready x s
  | .mrow x => Sys2Proof.Machine.execMrow x s
  | .tidset x => Sys2Proof.Machine.execTidset x s
  | .tidinv x => Sys2Proof.Machine.execTidinv x s
  | .tidq x => Sys2Proof.Machine.execTidq x s
  | .tidqState x => Sys2Proof.Machine.execTidqState x s
  | .coldecl x => Sys2Proof.Machine.execColdecl x s
  | .colag x => Sys2Proof.Machine.execColag x s
  | .colrs x => Sys2Proof.Machine.execColrs x s
  | .colaa x => Sys2Proof.Machine.execColaa x s
  | .colbar x => Sys2Proof.Machine.execColbar x s
  | .cprio x => Sys2Proof.Machine.execCprio x s
  | .rfe x => Sys2Proof.Machine.execRfe x s
  | .ckill x => Sys2Proof.Machine.execCkill x s
  | .crcl x => Sys2Proof.Machine.execCrcl x s
  | .tlbinvPage x => Sys2Proof.Machine.execTlbinvPage x s
  | .tlbinvRange x => Sys2Proof.Machine.execTlbinvRange x s
  | .tlbinvCid x => Sys2Proof.Machine.execTlbinvCid x s
  | .tlbinvAll x => Sys2Proof.Machine.execTlbinvAll x s
  | .pgprobe x => Sys2Proof.Machine.execPgprobe x s
  | .ctxcmdOpen cid ien vec host => Sys2Proof.Machine.execCtxcmdOpen cid ien vec host s
  | .ctxcmdKill cid ien vec host => Sys2Proof.Machine.execCtxcmdKill cid ien vec host s
  | .ctxcmdKillretire cid ien vec host => Sys2Proof.Machine.execCtxcmdKillretire cid ien vec host s
  | .ctxcmdReclaim cid ien vec host => Sys2Proof.Machine.execCtxcmdReclaim cid ien vec host s
  | .ctxcmdReserved cmd cid ien vec host => Sys2Proof.Machine.execCtxcmdReserved cmd cid ien vec host s
  | .ctxcmdComplete cid => Sys2Proof.Machine.execCtxcmdComplete cid s
  | .reclaimQuiet cid => Sys2Proof.Machine.execReclaimQuiet cid s
  | .incarnationUpdate id => Sys2Proof.Machine.execIncarnationUpdate id s
  | .incarnationAck id => Sys2Proof.Machine.execIncarnationAck id s
  | .targetRequest id => Sys2Proof.Machine.execTargetRequest id s
  | .responseArrival id => Sys2Proof.Machine.execResponseArrival id s
  | .storeDenialReport id => Sys2Proof.Machine.execStoreDenialReport id s
  | .l1Eviction core line => Sys2Proof.Machine.execL1Eviction core line s
  | .snoopInvalidate id => Sys2Proof.Machine.execSnoopInvalidate id s
  | .sliceAgeTimeout slice => Sys2Proof.Machine.execSliceAgeTimeout slice s
  | .nodeNotification id => Sys2Proof.Machine.execNodeNotification id s
  | .instanceDequeue die => Sys2Proof.Machine.execInstanceDequeue die s
  | .bulkCopyComplete ticket => Sys2Proof.Machine.execBulkCopyComplete ticket s
  | .instanceFinish ticket => Sys2Proof.Machine.execInstanceFinish ticket s
  | .bindSubmit die slot cmd host => Sys2Proof.Machine.execBindSubmit die slot cmd host s
  | .teamEnd team => Sys2Proof.Machine.execTeamEnd team s
  | .starvationTimeout team group => Sys2Proof.Machine.execStarvationTimeout team group s
  | .pathAgeingExpiry team group path => Sys2Proof.Machine.execPathAgeingExpiry team group path s
  | .satelliteForm team => Sys2Proof.Machine.execSatelliteForm team s
  | .spawnWaitTimeout team => Sys2Proof.Machine.execSpawnWaitTimeout team s
  | .barrierCopyCompletion id => Sys2Proof.Machine.execBarrierCopyCompletion id s
  | .pageWalkComplete id => Sys2Proof.Machine.execPageWalkComplete id s
  | .faultNoticeWrite id => Sys2Proof.Machine.execFaultNoticeWrite id s
  | .copyPerformed id => Sys2Proof.Machine.execCopyPerformed id s
  | .copyFailureReport id => Sys2Proof.Machine.execCopyFailureReport id s
  | .stampWrite id => Sys2Proof.Machine.execStampWrite id s
  | .cpwComplete id => Sys2Proof.Machine.execCpwComplete id s
  | .leaseGrant core => Sys2Proof.Machine.execLeaseGrant core s
  | .matrixOpComplete core => Sys2Proof.Machine.execMatrixOpComplete core s
  | .matrixOpStop core => Sys2Proof.Machine.execMatrixOpStop core s
  | .collectiveComplete id => Sys2Proof.Machine.execCollectiveComplete id s
  | .surfaceOpApply id => Sys2Proof.Machine.execSurfaceOpApply id s
  | .tileSpill cid sid tile => Sys2Proof.Machine.execTileSpill cid sid tile s
  | .tileReturn cid sid tile => Sys2Proof.Machine.execTileReturn cid sid tile s
  | .sfevictComplete id => Sys2Proof.Machine.execSfevictComplete id s
  | .pushArrival id => Sys2Proof.Machine.execPushArrival id s
  | .rsbindArrival id => Sys2Proof.Machine.execRsbindArrival id s
  | .sequencerDrain ticket => Sys2Proof.Machine.execSequencerDrain ticket s
  | .primitiveRaster id => Sys2Proof.Machine.execPrimitiveRaster id s
  | .pixelGroupIdle ticket tile => Sys2Proof.Machine.execPixelGroupIdle ticket tile s
  | .pixelGroupLaunch id => Sys2Proof.Machine.execPixelGroupLaunch id s
  | .textureResult id => Sys2Proof.Machine.execTextureResult id s
  | .traceResult id => Sys2Proof.Machine.execTraceResult id s
  | .monitorWake team group => Sys2Proof.Machine.execMonitorWake team group s
  | .regionCommit team group path => Sys2Proof.Machine.execRegionCommit team group path s
  | .watchdogExpiry team group => Sys2Proof.Machine.execWatchdogExpiry team group s
  | .preemptSave die slot host => Sys2Proof.Machine.execPreemptSave die slot host s
  | .saveComplete team => Sys2Proof.Machine.execSaveComplete team s
  | .serviceRetireBank arg host => Sys2Proof.Machine.execServiceRetireBank arg host s
  | .serviceReturnBank arg host => Sys2Proof.Machine.execServiceReturnBank arg host s
  | .serviceRetireLinkLane arg host => Sys2Proof.Machine.execServiceRetireLinkLane arg host s
  | .serviceReturnLinkLane arg host => Sys2Proof.Machine.execServiceReturnLinkLane arg host s
  | .serviceRetireVbusLane arg host => Sys2Proof.Machine.execServiceRetireVbusLane arg host s
  | .serviceReturnVbusLane arg host => Sys2Proof.Machine.execServiceReturnVbusLane arg host s
  | .serviceRetireCore arg host => Sys2Proof.Machine.execServiceRetireCore arg host s
  | .serviceReturnCore arg host => Sys2Proof.Machine.execServiceReturnCore arg host s
  | .serviceRetireCluster arg host => Sys2Proof.Machine.execServiceRetireCluster arg host s
  | .serviceReturnCluster arg host => Sys2Proof.Machine.execServiceReturnCluster arg host s
  | .serviceCommandDone => Sys2Proof.Machine.execServiceCommandDone s
  | .classControlWrite die cls value host => Sys2Proof.Machine.execClassControlWrite die cls value host s
  | .powerLimitWrite value host => Sys2Proof.Machine.execPowerLimitWrite value host s
  | .clockThrottle footing sixteenths => Sys2Proof.Machine.execClockThrottle footing sixteenths s
  | .bankOverheat bank => Sys2Proof.Machine.execBankOverheat bank s
  | .bankCooled bank => Sys2Proof.Machine.execBankCooled bank s
  | .attestationRequest host => Sys2Proof.Machine.execAttestationRequest host s
  | .attestationDone => Sys2Proof.Machine.execAttestationDone s
  | .registerWrite bar off size value host => Sys2Proof.Machine.execRegisterWrite bar off size value host s
  | .graphPortRead k => Sys2Proof.Machine.execGraphPortRead k s
  | .graphPortAdd k d => Sys2Proof.Machine.execGraphPortAdd k d s
  | .graphPortDec k d => Sys2Proof.Machine.execGraphPortDec k d s
  | .hostDebugRead off size => Sys2Proof.Machine.execHostDebugRead off size s
  | .hostDebugWrite off size value => Sys2Proof.Machine.execHostDebugWrite off size value s
  | .hostUnsupportedRequest bar off size write => Sys2Proof.Machine.execHostUnsupportedRequest bar off size write s
  | .remoteRequest port dev cid icn kind pa size value => Sys2Proof.Machine.execRemoteRequest port dev cid icn kind pa size value s
  | .linkTrained port lanes => Sys2Proof.Machine.execLinkTrained port lanes s
  | .linkRecovery port => Sys2Proof.Machine.execLinkRecovery port s
  | .linkRecoveryTimeout port => Sys2Proof.Machine.execLinkRecoveryTimeout port s
  | .linkPeerLost port => Sys2Proof.Machine.execLinkPeerLost port s
  | .mortarRepair module => Sys2Proof.Machine.execMortarRepair module s
  | .mortarLoss module => Sys2Proof.Machine.execMortarLoss module s
  | .vbusLaneRepair lane => Sys2Proof.Machine.execVbusLaneRepair lane s
  | .vbusRetrain die => Sys2Proof.Machine.execVbusRetrain die s
  | .hbmUncorrectable line => Sys2Proof.Machine.execHbmUncorrectable line s
  | .boot => Sys2Proof.Machine.execBoot s
  | .firmwareUpdate image => Sys2Proof.Machine.execFirmwareUpdate image s
  | .illegalEncoding => Sys2Proof.Machine.execIllegalEncoding s
  | .instructionFetchFault code va => Sys2Proof.Machine.execInstructionFetchFault code va s
  | .cachesReportQuiet target cid => Sys2Proof.Machine.execCachesReportQuiet target cid s
  | .verticalBusUnfreeze die => Sys2Proof.Machine.execVerticalBusUnfreeze die s
  | .mortarModuleReturn module => Sys2Proof.Machine.execMortarModuleReturn module s

end Sys2Proof.Machine
end

