-- ==== Sys2Proof/Machine/Schedule.lean ====
section
/-!
DEFINITION. What the package does next: the paths that are ready, the choice of a slot (08_issue.md R140 to R145),
issuing an instruction (01_encoding.md R24), and the events whose occasion has come. No order is promised among them
(18_fabric.md R316), so the choice is a free value.
-/

namespace Sys2Proof.Machine

open Sys2Proof

/-! ## Issuing (R24) -/

/-- The state in which a path's instruction runs. -/
def issueAt (s : State) (tid gnum path len : Nat) : State :=
  { s with at_ := some { team := tid, group := gnum, path := path, len := len } }

/-- The address at which a path stands. -/
def pathPc (s : State) (tid gnum path : Nat) : Nat :=
  let g := (teamOf s tid).group gnum
  match g.pathLanes path with
  | [] => 0
  | l :: _ => (g.thread l).pc

/-- What stands at an address: an instruction, a pattern that is none with its length, or a failed fetch with the
address of the word. -/
inductive Fetched
  | instr (i : Instr)
  | illegal (len : Nat)
  | fail (code va len : Nat)
deriving DecidableEq, Repr

/-- Fetch and decode at an address (R24): the tail only where the first word asks for one. -/
def fetchInstr (s : State) (tid pc : Nat) : State × Fetched :=
  match fetchWord s tid pc with
  | (s1, .error f) => (s1, .fail f.code pc 4)
  | (s1, .ok w) =>
    if (checkFirst w).isSome then (s1, .illegal (if wantsTail w then 8 else 4))
    else if !wantsTail w then
      match decodeWords w 0 with
      | .instr i => (s1, .instr i)
      | .illegal _ => (s1, .illegal 4)
    else
      match fetchWord s1 tid ((pc + 4) % 2 ^ 56) with
      | (s2, .error f) => (s2, .fail f.code ((pc + 4) % 2 ^ 56) 8)
      | (s2, .ok t) =>
        match decodeWords w t with
        | .instr i => (s2, .instr i)
        | .illegal _ => (s2, .illegal 8)

/-- After a step: the issue is over. -/
def endIssue (o : Out) : Out :=
  match o with
  | .next t => .next { t with at_ := none }
  | .fault r => .fault r
  | .refused r => .refused r

/-- Issue the instruction at which a path stands: what is fetched runs, or its fault is taken. -/
def issue (s : State) (tid gnum path : Nat) : Out :=
  let pc := pathPc s tid gnum path
  let s0 := fetchAhead s tid pc
  match fetchInstr s0 tid pc with
  | (t, .instr i) => endIssue (exec i (issueAt t tid gnum path i.length))
  | (t, .illegal len) => endIssue (execIllegalEncoding (issueAt t tid gnum path len))
  | (t, .fail code va len) => endIssue (execInstructionFetchFault code va (issueAt t tid gnum path len))

/-! ## Readiness (R140) -/

/-- Does a step change the state? -/
def changes (s : State) (e : State → Out) : Bool :=
  match e s with
  | .next t => decide (t ≠ s)
  | _ => true

/-- Is a path ready: not held, and its wait is over? What polls a resource is ready when issuing it would go on. -/
def pathReady (s : State) (tid gnum path : Nat) : Bool :=
  let t := teamOf s tid
  match (t.group gnum).waitOf path with
  | .none => true
  | .handle e q => (match mfind e t.handles with
    | some h => h.seq != q || h.complete
    | none => true)
  | .handleFree => t.freeHandle.isSome
  | .context cid => !inTransition s cid
  | .barrier .. => false
  | .ring .. => false
  | .monitor _ => false
  | .lease _ => false
  | .quiet _ => false
  | .twin _ => false
  | .result _ => false
  | .pushed id => (mfind id s.pushes).isNone
  | .second => (t.group gnum).swapped.isNone
  | .fault => false
  | _ => changes s fun u => issue u tid gnum path

/-- Does a push of the group wait in the vertical queue for NEXT (R296)? The group is not ready meanwhile. -/
def pushWaits (s : State) (tid gnum : Nat) : Bool :=
  s.pushes.any fun p => p.2.team == tid && p.2.group == gnum && p.2.waits s

/-- The ready paths of a group. -/
def readyPaths (s : State) (tid : Nat) (g : Group) : List Nat :=
  if pushWaits s tid g.num then [] else g.livePaths.filter fun p => pathReady s tid g.num p

/-- A ready group: its team, the group, and its ready paths. -/
structure Ready where
  tid : Nat
  t : Team
  g : Group
  paths : List Nat
deriving DecidableEq, Repr

/-- The ready groups of the package. -/
def readyGroups (s : State) : List Ready :=
  s.teams.flatMap fun e =>
    if teamRuns s e.1 e.2 then
      e.2.groups.filterMap fun g =>
        match readyPaths s e.1 g.2 with
        | [] => none
        | p :: ps => some { tid := e.1, t := e.2, g := { g.2 with num := g.1 }, paths := p :: ps }
    else []

/-! ## The choice of a path (R144, R145) -/

/-- The least lane of a path. -/
def Group.lowLane (g : Group) (p : Nat) : Nat := ((g.pathLanes p).head?).getD 32

/-- Does a path stand before another: the greater ageing count, then the lower lane (R144)? -/
def Group.pathBefore (g : Group) (p q : Nat) : Bool :=
  let a := (mget {} p g.paths).age
  let b := (mget {} q g.paths).age
  decide (b < a) || (a == b && decide (g.lowLane p < g.lowLane q))

/-- Insert by an order. -/
def insertBy (lt : α → α → Bool) (x : α) : List α → List α
  | [] => [x]
  | y :: l => if lt y x then y :: insertBy lt x l else x :: y :: l

/-- Sort by an order. -/
def sortBy (lt : α → α → Bool) : List α → List α
  | [] => []
  | x :: l => insertBy lt x (sortBy lt l)

/-- Has a path yielded (R154)? -/
def Group.yieldedPath (g : Group) (p : Nat) : Bool := (mget {} p g.paths).yielded

/-- The ready paths of a group in the order in which it would issue them: a path whose count has reached 1024 alone
(R145); else the current path, then the others by age, one that has yielded last (R144, R154). -/
def Ready.order (r : Ready) : List Nat :=
  let due := r.paths.filter fun p => (mget {} p r.g.paths).due && r.g.cur != some p
  match sortBy (fun a b => decide (r.g.lowLane a < r.g.lowLane b)) due with
  | p :: _ => [p]
  | [] =>
    let others := sortBy r.g.pathBefore (r.paths.filter fun p => r.g.cur != some p)
    match r.paths.filter fun p => r.g.cur == some p with
    | [] => others
    | c :: _ => if r.g.yieldedPath c then others ++ [c] else c :: others

/-! ## The choice of a group (R140 to R143) -/

/-- The issue slot of a group: the core and slot of its entry, or slot 4 of its cluster's first core for the matrix
sequencer (R140, R143). -/
def Ready.slot (r : Ready) : Nat × Nat :=
  if r.g.num == 32 then (4 * (r.t.core / 4), 4) else (r.t.core, (r.t.bind.gslot + r.g.num) % 4)

/-- Is a group older than another (R141)? -/
def Ready.older (a b : Ready) : Bool := decide (a.t.age < b.t.age) || (a.t.age == b.t.age && decide (a.g.num < b.g.num))

/-- Does the group stand aside at the slot's next issue (R154)? -/
def Ready.yields (r : Ready) : Bool := r.g.aside

/-- Was the group launched with the urgency flag (R142)? -/
def Ready.isUrgent (r : Ready) : Bool := bitB r.t.hdr.flags 0

/-- R142 on an order of choice: in the place of each group of an urgent team stands the group of that team, in the slot,
that has retired the fewest instructions, ties to the oldest. -/
def urgentOrder (all : List Ready) : List Ready → List Nat → List Ready
  | [], _ => []
  | r :: rs, seen =>
    if r.isUrgent then
      let mine := sortBy (fun a b => decide (a.g.urgent < b.g.urgent) || (a.g.urgent == b.g.urgent && a.older b)) (all.filter fun q => q.tid == r.tid)
      let k := (seen.filter (· == r.tid)).length
      (mine.getD k r) :: urgentOrder all rs (r.tid :: seen)
    else r :: urgentOrder all rs seen

/-- The ready groups of a slot in the order in which it would choose them (R141, R142): a group that has waited 4096
clocks, the oldest, alone; else the group it issued from last, then the oldest. -/
def slotOrder (last : Option (Nat × Nat)) (rs : List Ready) : List Ready :=
  match sortBy Ready.older (rs.filter fun r => r.g.starved) with
  | r :: _ => [r]
  | [] =>
    let isLast := fun (r : Ready) => last == some (r.tid, r.g.num) && !r.yields
    let rest := sortBy Ready.older (rs.filter fun r => !isLast r)
    let base := rs.filter isLast ++ rest.filter (fun r => !r.yields) ++ rest.filter Ready.yields
    urgentOrder base base []

/-- The matrix threads of a cluster in round-robin order of their slots after that of the last, m (R143). -/
def matrixOrder (m : Nat) (rs : List Ready) : List Ready :=
  sortBy (fun a b => decide ((a.t.bind.mslot + 15 - m) % 16 < (b.t.bind.mslot + 15 - m) % 16)) rs

/-- The first of an order that does not stall; the last where all but it do. An operand or a resource may be late for
any of them, which no rule bounds (R140, R144). -/
def firstMoving (tick salt : Nat) : List α → Option α
  | [] => none
  | [x] => some x
  | x :: l => if Config.freeBool tick (2 ^ 58 + salt + l.length) then firstMoving tick salt l else some x

/-- What a slot issues next: a group and its path. -/
def slotChoice (s : State) (slot : Nat × Nat) (rs : List Ready) : Option (Ready × Nat) :=
  let last := mfind slot.2 (coreOf s slot.1).last
  let order := if slot.2 == 4 then matrixOrder (coreOf s slot.1).lastMslot rs else slotOrder last rs
  let salt := 1024 * (8 * slot.1 + slot.2)
  (firstMoving s.tick salt order).bind fun r => (firstMoving s.tick (salt + 512) r.order).map fun p => (r, p)

/-- The slots that have a ready group. -/
def slotsOf (rs : List Ready) : List (Nat × Nat) := rs.foldl (fun l r => if l.contains r.slot then l else l ++ [r.slot]) []

/-- Has an attempt to issue stalled: does the instruction wait for something before it is issued (R144)? -/
def Wait.stalls : Wait → Bool
  | .handle .. | .handleFree | .room | .faultRoom | .context _ | .quiet _ | .translations | .locator _ | .drain | .second => true
  | _ => false

/-- The group before a choice of path: the path chosen is its current one (R144), and its other ready paths are noted, whose
ageing counts an issue raises (R145). -/
def Group.choose (g : Group) (path : Nat) (ready : List Nat) : Group :=
  { g with cur := some path, paths := g.paths.map fun p => (p.1, { p.2 with ready := ready.contains p.1 }) }

/-- The slot has issued from a group: it is the slot's last (R141, R143), and the groups that stood aside do so no longer
(R154). -/
def slotDone (slot : Nat × Nat) (r : Ready) (aside : List Ready) (s : State) : State :=
  let s1 := (aside.filter fun q => (q.tid, q.g.num) != (r.tid, r.g.num)).foldl (fun t q =>
    modGroup t q.tid q.g.num fun g => { g with aside := false }) (modGroup s r.tid r.g.num fun g => { g with starved := false })
  modCore s1 slot.1 fun c =>
    { c with last := mput slot.2 (r.tid, r.g.num) c.last
             lastMslot := if slot.2 == 4 then r.t.bind.mslot else c.lastMslot }

/-- A slot issues an instruction of a path. An attempt that stalls is no issue, and leaves the slot's choice as it was. -/
def slotIssue (slot : Nat × Nat) (r : Ready) (path : Nat) (rs : List Ready) (s : State) : Out :=
  match issue (modGroup s r.tid r.g.num fun g => g.choose path r.paths) r.tid r.g.num path with
  | .next t =>
    if (((teamOf t r.tid).group r.g.num).waitOf path).stalls then .next t
    else .next (slotDone slot r (rs.filter fun q => q.slot == slot && q.g.aside) t)
  | o => o

/-- What the slots of the package may issue now. -/
def issues (s : State) : List (State → Out) :=
  let rs := readyGroups s
  (slotsOf rs).filterMap fun k => (slotChoice s k (rs.filter fun r => r.slot == k)).map fun c => slotIssue k c.1 c.2 rs

/-! ## Events -/

/-- The CIDs with an operation under way. -/
def busyCids (s : State) : List Nat := s.ctxOps.map Prod.fst

/-- Events of contexts and incarnations (R41 to R60). -/
def contextMoves (s : State) : List (State → Out) :=
  (s.updates.map fun e => if e.2.applied then execIncarnationAck e.1 else execIncarnationUpdate e.1) ++
  ((s.lit.filter fun e => !e.2.quiet).map fun e => execCachesReportQuiet (e.1 / 1024) (e.1 % 1024)) ++
  (busyCids s).map execReclaimQuiet ++
  (if s.ctl.ctxcmd.ended.isSome then [execCtxcmdComplete s.ctl.ctxcmd.cid] else [])

/-- The lines that first-level caches hold, as core and line. -/
def heldLines (s : State) : List (Nat × Nat) :=
  s.l1.foldl (fun l e =>
    let k := (e.1 / 2 ^ 52, e.1 % 2 ^ 52 / 128)
    if l.contains k then l else l ++ [k]) []

/-- Events of caches, slices and targets. -/
def fabricMoves (s : State) : List (State → Out) :=
  ((heldLines s).map fun l => execL1Eviction l.1 l.2) ++
  (s.requests.map fun e => execTargetRequest e.1) ++
  (s.requests.filterMap fun e => if nextRequest s e.2.target != some e.1 then some (execSliceAgeTimeout e.2.target) else none) ++
  (s.responses.map fun e => execResponseArrival e.1) ++ (s.reports.map fun e => execStoreDenialReport e.1) ++
  (s.snoops.map fun e => execSnoopInvalidate e.1)

/-- Events of translation. -/
def translationMoves (s : State) : List (State → Out) :=
  (s.walks.map fun e => execPageWalkComplete e.1) ++ (s.notices.map fun e => execFaultNoticeWrite e.1)

/-- Events of the walkers. -/
def walkerMoves (s : State) : List (State → Out) :=
  (s.notifs.map fun e => execNodeNotification e.1) ++
  (if s.queue.isEmpty then [] else [execInstanceDequeue 0, execInstanceDequeue 1]) ++
  (s.decs.map fun e => execInstanceFinish e.1) ++
  (s.insts.flatMap fun e => [execBulkCopyComplete e.1, execInstanceFinish e.1, execSequencerDrain e.1])

/-- Is another ready group in the slot of this one: may it starve (R141)? -/
def mayStarve (rs : List Ready) (r : Ready) : Bool := rs.any fun q => q.slot == r.slot && (q.tid, q.g.num) != (r.tid, r.g.num)

/-- Events of teams and groups. -/
def teamMoves (s : State) : List (State → Out) :=
  let rs := readyGroups s
  (s.teams.flatMap fun e =>
    (if e.2.finished s e.1 then [execTeamEnd e.1] else []) ++
    (if e.2.churnTarget.isSome then [execSatelliteForm e.1] else []) ++
    (if e.2.spawn.any fun r => !r.old then [execSpawnWaitTimeout e.1] else []) ++
    (if e.2.loc == .saving then [execSaveComplete e.1] else []) ++
    (e.2.groups.flatMap fun g =>
      (if g.2.mon.isSome then [execMonitorWake e.1 g.1] else []) ++
      (if g.2.waiting.isEmpty then [] else [execWatchdogExpiry e.1 g.1]) ++
      g.2.paths.flatMap fun p =>
        (match p.2.wait with
          | .twin _ => [execRegionCommit e.1 g.1 p.1]
          | _ => []) ++
        (if 1024 ≤ p.2.age then [execPathAgeingExpiry e.1 g.1 p.1] else []))) ++
  (rs.filter (mayStarve rs)).map fun r => execStarvationTimeout r.tid r.g.num

/-- Events of the engines. -/
def engineMoves (s : State) : List (State → Out) :=
  (s.copies.flatMap fun e =>
    [execCopyPerformed e.1, execCopyFailureReport e.1, execStampWrite e.1, execCpwComplete e.1, execBarrierCopyCompletion e.1]) ++
  (s.cores.flatMap fun e => if e.2.asking.isEmpty then [] else [execLeaseGrant e.1]) ++
  ((s.mxops.foldl (fun l e => insertNat (teamOf s e.2.team).core l) []).flatMap fun c => [execMatrixOpComplete c, execMatrixOpStop c]) ++
  (s.colls.map fun e => execCollectiveComplete e.1) ++ (s.evicts.map fun e => execSfevictComplete e.1)

/-- Events of surfaces: operations, and the tiles that they and evictions wait for. -/
def surfaceMoves (s : State) : List (State → Out) :=
  (s.sfops.map fun e => execSurfaceOpApply e.1) ++
  (if s.sfops.isEmpty && s.evicts.isEmpty then []
    else s.tiles.map fun e => execTileSpill (tileKeyCid e.1) (tileKeySid e.1) (tileKeyTile e.1)) ++
  ((wantedTiles s).map fun k => execTileReturn k.1 k.2.1 k.2.2)

/-- Events of the footing engines. -/
def footingMoves (s : State) : List (State → Out) :=
  (s.pushes.map fun e => if e.2.bind then execRsbindArrival e.1 else execPushArrival e.1) ++
  (s.raster.map fun e => execPrimitiveRaster e.1) ++ (s.closed.map fun e => execPixelGroupLaunch e.1) ++
  (s.insts.flatMap fun e => match e.2.draw with
    | some d => d.open_.map fun o => execPixelGroupIdle e.1 o.1
    | none => []) ++
  (s.texops.map fun e => if e.2.kind == .trace then execTraceResult e.1 else execTextureResult e.1)

/-- Events of the management core, the vertical buses, the mortar modules and the link ports that end by themselves. -/
def packageMoves (s : State) : List (State → Out) :=
  (if serviceBusy s then [execServiceCommandDone] else []) ++ (if s.ctl.attest.isSome then [execAttestationDone] else []) ++
  (s.dies.flatMap fun d => if d.2.vbusFrozen then [execVerticalBusUnfreeze d.1] else []) ++
  (s.mortarOut.map execMortarModuleReturn) ++
  (s.ports.flatMap fun p => if p.2.st == 2 then [execLinkRecoveryTimeout p.1] else [])

/-- The events whose occasion has come: those that change the state. -/
def events (s : State) : List (State → Out) :=
  (contextMoves s ++ fabricMoves s ++ translationMoves s ++ walkerMoves s ++ teamMoves s ++ engineMoves s ++ surfaceMoves s ++
    footingMoves s ++ packageMoves s).filter (changes s)

/-- Everything that may happen next inside the package. After a fatal error nothing does (R374). -/
def moves (s : State) : List (State → Out) := if s.ctl.fatal then [] else issues s ++ events s

/-- Take the first input: it has its effect, whatever else is under way. -/
def takeInput (s : State) (i : Instr) (rest : List Instr) : Out := exec i { s with inbox := rest }

/-- Does an input wait at the bridge? The atomic of a graph port whose slice has no room for a notification does (R130), and
so does a debug access that a link in Recovery holds up (R368). -/
def inputWaits (s : State) (i : Instr) : Bool :=
  match i with
  | .graphPortAdd k d => portStalls s k d
  | .graphPortDec k d => portStalls s k d
  | .hostDebugRead off size => debugWaits s off size .read
  | .hostDebugWrite off size _ => debugWaits s off size .write
  | _ => false

/-- One of the moves. -/
def move (s : State) (ms : List (State → Out)) : Out :=
  match ms with
  | [] => .next s
  | [m] => m s
  | _ => (ms.getD (Config.pick s.tick ms.length % ms.length) fun t => .next t) s

/-- What happens next: an input that has arrived, or a move of the package. An input may come between any two moves. -/
def advance (s : State) : Out :=
  match s.inbox, moves s with
  | [], ms => move s ms
  | i :: rest, [] => if inputWaits s i then .next s else takeInput s i rest
  | i :: rest, m :: ms =>
    if !inputWaits s i && Config.freeBool s.tick (2 ^ 57) then takeInput s i rest else move s (m :: ms)

/-- The tick passes. -/
def ticked (o : Out) : Out :=
  match o with
  | .next t => .next { t with tick := t.tick + 1 }
  | .fault r => .fault r
  | .refused r => .refused r

end Sys2Proof.Machine
end

