-- ==== Sys2Proof/Machine/Stage.lean ====
section
/-!
DEFINITION. How a given instruction comes to be the next to issue: a team of CID 0 with one group stands at it, with the
page tables and access table entries that its fetch needs, and nothing else is under way (log 15).
-/

namespace Sys2Proof.Machine

open Sys2Proof

/-- Where the staged code lies. -/
def stageCode : Nat := 0x14000

/-- The staged tables, one per level: the root, two non-leaf tables and the table of the leaf. -/
def stageTables : List (Nat × Nat) :=
  -- non-leaf entries have V; the leaf has V, LEAF, R, W and X (Table 12.2)
  [(0x4000, 0x8001), (0x8000, 0xC001), (0xC000, 0x10001), (0x10000, stageCode + 0x3B)]

/-- An access table entry that admits every core to every address. -/
def stageAcl : Acl :=
  { limit := 2 ^ 38 - 1, base := 0, anyCid := true, mclass := 0, anyIdx := true, rd := true, wr := true, atm := true, en := true }

/-- The role that may issue what stands in the word; the vector role where none may. -/
def stageRole (nbits w : Nat) : Role :=
  match decodeTableWord nbits w with
  | none => .vector
  | some i =>
    match i.fields with
    | none => .vector
    | some f => (([Role.vector, .copy, .matrix] : List Role).find? fun r => roleMay r f.dom f.op.toNat).getD .vector

/-- The staged team, before its code snapshot. -/
def stageTeam (role : Role) : Team :=
  let h : Hdr := { vecGroups := 1, copyRegs := 256, vecRegs := 256, matRegs := 64 }
  let t : Team := { bind := { result := 1 }, hdr := h, slot := some 0, loc := .resident }
  let num := if role == .matrix then 32 else 0
  { t with groups := [(num, startGroup t num role 0 fun l => role != .matrix || l == 0)] }

/-- Nothing under way: no input, no team, no work of an engine, no message. -/
def quiet (s : State) : State :=
  { s with
    inbox := [], at_ := none, teams := [], l1 := [], requests := [], responses := [], snoops := [], reports := [], updates := []
    lit := [], ctxOps := [], walks := [], notices := [], faultq := [], copies := [], mxops := [], notifs := [], queue := []
    insts := [], pushes := [], raster := [], closed := [], texops := [], sfops := [], evicts := [], colls := [], tlb := []
    decs := [], peerWrites := [], peerMarks := [], flaws := [], past := [], surfPast := [], olds := [], sets := [], ids := []
    nonLeaf := [], marked := [], cores := [], dies := [], ports := [], mortarOut := []
    ctl := { s.ctl with ctxcmd := {}, ctxbase := 0, service := 0, attest := none, fatal := false } }

/-- The staged state. -/
def stage (s : State) (nbits w : Nat) : State :=
  let s1 := quiet s
  let s2 := setCtx s1 0 { ctxOf s1 0 with state := 1, icn := 0, ptroot := 0x4000 }
  let s3 := stageTables.foldl (fun t e => setPhysNat t e.1 8 e.2) s2
  let s4 := setPhysBytes s3 stageCode (tableBytes nbits w)
  let s5 := { s4 with acl := (lineTargets stageCode).foldl (fun m t => mput (t * 256) stageAcl m) s4.acl }
  { s5 with teams := [(0, { stageTeam (stageRole nbits w) with codeFrom := s5.tick })] }

end Sys2Proof.Machine
end

