-- ==== Sys2Proof/Machine/Step.lean ====
section
/-!
DEFINITION. One step of the package, and the state in which a given instruction is the next to issue.
-/

namespace Sys2Proof.Machine

open Sys2Proof

/-- One step: an input that has arrived or one move of the package, and the tick passes. -/
def step (s : State) : Host.Outcome State Fault Refusal := ticked (advance s)

/-- The state with a word stored as the next instruction to issue. -/
def State.withFetchWord (s : State) (nbits w : Nat) : State := stage s nbits w

end Sys2Proof.Machine
end

