-- ==== Sys2Proof/Safety.lean ====
section
/-!
DEFINITION. What counts as a safe run, and the terms that claims are stated in: when a path issues an instruction's own
operation (01_encoding.md R24, R25; 07_launch.md R125; 08_issue.md R161), what the registers of a group read as
(03_registers.md R61 to R66), and what a path that has passed its instruction leaves unchanged.
-/

namespace Sys2Proof.Safety

open Sys2Proof Sys2Proof.Machine

/-! ## Safe runs -/

/-- The step goes on. The model takes every exception of the spec (19_faults.md R333), so a run that stops at all is
unsafe. -/
def goesOn (s : State) : Prop := ∃ t, Machine.step s = .next t

/-- Every one of `n` steps goes on. -/
def safeFor : Nat → State → Prop
  | 0, _ => True
  | n + 1, s => ∃ t, Machine.step s = .next t ∧ safeFor n t

/-! ## Issuing -/

/-- The s-registers an instruction reads beside those that B, C and E name: an old destination, the argument of a trap, the
value of a stamp, and the compare value of satom.cas (R161). -/
def extraReads : Instr → List Nat
  | .trap x => [x.a.toNat]
  | .cpst x => [x.a.toNat]
  | .blogicU x => [x.a.toNat]
  | .bfiU x => [x.a.toNat]
  | .mmaResume x => [x.a.toNat]
  | .movih x => [x.a.toNat]
  | .satom x => x.a.toNat :: (if srcNum x.e == 9 then [x.a.toNat + 1] else [])
  | .pscrub x => if x.f.toNat == 3 then [x.a.toNat] else []
  | _ => []

/-- The s-registers an instruction reads without waiting for the operation they name (R161 to R163, R258), and those of isel
that it does not select, which it does not read (R88). -/
def exemptReads (s : State) : Instr → List Nat
  | .isel x => unselected x s
  | .iselU x => unselectedU x s
  | .hwait x => [x.b.toNat]
  | .htest x => [x.b.toNat]
  | .hcancel x => [x.b.toNat]
  | .mrow x => [x.b.toNat]
  | .movU x => [x.b.toNat]
  | _ => []

/-- The s-registers an instruction waits for where they are pending (R161). -/
def waitsFor (s : State) (i : Instr) (h : Shape) (f : Fields) : List Nat :=
  (shapeSReads h f ++ extraReads i).filter fun n => !(exemptReads s i).contains n

/-- The issuing path with Active(), where the chosen path issues the instruction's own operation: the instruction is
well formed (R24), its privilege (R22), role (R125) and register budgets (R64) are in order, its guard is no poison and,
in a U-word, holds (R18, R19), and every pending register it waits for is ready (R161). -/
def issueOf (i : Instr) (s : State) : Option Run :=
  match runOf s, i.fields with
  | some q, some f =>
    match rowOf f with
    | none => none
    | some row =>
      if i.wf && !(privileged f.dom f.op.toNat && q.t.bind.cid != 0) && roleMay q.g.role f.dom f.op.toNat &&
          !q.t.beyond q.g.role ((row.shape f).named f) then
        match q.guarded f.dom f.guard with
        | .active act =>
          let reads := waitsFor s i (row.shape f) f
          if (q.pendingAny reads).isNone && (q.raiseAny reads).isNone then
            some { q with act := act, g := (q.awaits (reads.filter q.g.pend.contains)).withoutPend reads }
          else none
        | _ => none
      else none
  | _, _ => none

/-! ## Registers -/

/-- What the registers of a group read as, with the sticky flags and the pending marks. -/
structure Regs where
  v : Nat → Nat → PV Word
  s : Nat → PV DWord
  p : Nat → Nat → PV Bool
  q : Nat → PV Bool
  fflags : BitVec 5
  pend : Nat → Bool

/-- The registers of a group. -/
def regsOf (g : Group) : Regs :=
  { v := g.getV, s := fun n => mget (.ok 0) n g.s, p := g.getP, q := fun n => mget (.ok false) n g.q
    fflags := g.fflags, pend := g.pend.contains }

/-- The same registers in the 32 lanes. -/
def Regs.same (a b : Regs) : Prop :=
  (∀ n l, l < 32 → a.v n l = b.v n l) ∧ (∀ n, a.s n = b.s n) ∧ (∀ n l, l < 32 → a.p n l = b.p n l) ∧
  (∀ n, a.q n = b.q n) ∧ a.fflags = b.fflags ∧ ∀ n, a.pend n = b.pend n

/-- Word `i` of a result; every word of a poisoned result carries the token (R69). -/
def wordOf (x : PV Nat) (i : Nat) : PV Word := x.map fun n => BitVec.ofNat 32 (n / 2 ^ (32 * i))

/-- The registers after `k` v-registers from `a` on have taken a result in each of the lanes. -/
def Regs.putV (r : Regs) (lanes : List Nat) (a k : Nat) (f : Nat → PV Nat) : Regs :=
  { r with v := fun n l => if l ∈ lanes ∧ a ≤ n ∧ n < a + k then wordOf (f l) (n - a) else r.v n l }

/-- The registers after a predicate has taken a result in each of the lanes. -/
def Regs.putP (r : Regs) (lanes : List Nat) (a : Nat) (f : Nat → PV Bool) : Regs :=
  { r with p := fun n l => if l ∈ lanes ∧ n = a then f l else r.p n l }

/-- The registers after an s-register has taken a value of 64 bits; its pending mark is cleared (R161). -/
def Regs.putS (r : Regs) (a : Nat) (x : PV Nat) : Regs :=
  { r with s := fun n => if n = a then x.map (BitVec.ofNat 64) else r.s n
           pend := fun n => r.pend n && n != a }

/-- The registers after an s-register has taken a handle and a pending mark (R160). -/
def Regs.putHandle (r : Regs) (a h : Nat) : Regs :=
  { r with s := fun n => if n = a then .ok (BitVec.ofNat 64 h) else r.s n
           pend := fun n => r.pend n || n == a }

/-- The registers after a q-register has taken a value. -/
def Regs.putQ (r : Regs) (a : Nat) (x : PV Bool) : Regs := { r with q := fun n => if n = a then x else r.q n }

/-- The registers after flags have been accumulated (R107). -/
def Regs.orFlags (r : Regs) (f : Flags) : Regs := { r with fflags := r.fflags ||| f.bits }

/-! ## Frames -/

/-- The group of a team. -/
def groupAt (s : State) (tid gnum : Nat) : Group := (teamOf s tid).group gnum

/-- Two states that differ at most in one group: all else of the machine, memory and every other team and group among
it, is the same. -/
def onlyGroup (s t : State) (tid gnum : Nat) : Prop :=
  t = { s with teams := t.teams } ∧ (∀ k, k ≠ tid → mfind k t.teams = mfind k s.teams) ∧
  teamOf t tid = { teamOf s tid with groups := (teamOf t tid).groups } ∧
  (∀ g, g ≠ gnum → mfind g (teamOf t tid).groups = mfind g (teamOf s tid).groups)

/-- Two groups that agree in all but registers, threads, the operations waited for (R263) and the bookkeeping of paths
(R72, R142 to R146): the role, the fields of %gstat and %rec, the recorded codes, the monitor, the held faults, the last
matrix operation. -/
def sameRest (g u : Group) : Prop :=
  u = { g with
    v := u.v, s := u.s, p := u.p, q := u.q, pend := u.pend, fflags := u.fflags, threads := u.threads
    paths := u.paths, cur := u.cur, starved := u.starved, urgent := u.urgent, aside := u.aside, awaited := u.awaited
    clock := u.clock, parts := u.parts, pastV := u.pastV, pastP := u.pastP, pastS := u.pastS, pastQ := u.pastQ, viewS := u.viewS, viewQ := u.viewQ }

/-- Thread `b` differs from thread `a` at most in its pc, its loop stack and its place among the paths: its meeting and
region registers, its signature and whether it has exited are the same. -/
def sameThread (a b : Thread) : Prop :=
  b = { a with pc := b.pc, held := b.held, released := b.released, path := b.path, loops := b.loops }

/-- The lanes have passed the instruction (R155), and no other thread has moved. -/
def advanced (lanes : List Nat) (pc len : Nat) (g u : Group) : Prop :=
  ∀ l, sameThread (g.thread l) (u.thread l) ∧
    (u.thread l).pc = if l ∈ lanes then (passLoop (g.thread l) pc len).1 else (g.thread l).pc

/-- The lanes stand at the addresses of a list, and no other thread has moved. -/
def movedTo (dest : List (Nat × Nat)) (g u : Group) : Prop :=
  ∀ l, sameThread (g.thread l) (u.thread l) ∧
    (u.thread l).pc = (mfind l dest).getD (g.thread l).pc

/-- The path has passed its instruction: beside its group, which was left as `g`, state `t` is `s`, and of the group only
its threads and the bookkeeping of its paths have changed. -/
def passed (r : Run) (s t : State) (g : Group) : Prop :=
  onlyGroup s t r.tid r.gnum ∧ sameRest g (groupAt t r.tid r.gnum) ∧
  Regs.same (regsOf (groupAt t r.tid r.gnum)) (regsOf g) ∧ advanced r.lanes r.pc r.len g (groupAt t r.tid r.gnum)

/-- The path has passed its instruction, of which only registers have changed: beside its group state `t` is `s`, and
the registers read as given. -/
def wrote (r : Run) (s t : State) (regs : Regs) : Prop :=
  ∃ g, passed r s t g ∧ sameRest r.g g ∧ g.threads = r.g.threads ∧ Regs.same (regsOf g) regs

/-- The path has sent its threads to addresses: beside its group, which was left as `g`, state `t` is `s`, and of the
group only where threads stand and the bookkeeping of its paths have changed. -/
def sent (r : Run) (s t : State) (g : Group) (dest : List (Nat × Nat)) : Prop :=
  onlyGroup s t r.tid r.gnum ∧ sameRest g (groupAt t r.tid r.gnum) ∧
  Regs.same (regsOf (groupAt t r.tid r.gnum)) (regsOf g) ∧ movedTo dest g (groupAt t r.tid r.gnum)

/-- The path waits at its instruction and nothing else has changed. -/
def waits (r : Run) (s t : State) (w : Wait) : Prop :=
  onlyGroup s t r.tid r.gnum ∧
  groupAt t r.tid r.gnum = (groupAt s r.tid r.gnum).setWait r.path w

end Sys2Proof.Safety
end

