-- ==== Sys2Proof/Certificates/Slice0/Obligations.lean ====
section
/-!
DEFINITION. The statements for the provers, by the sections of the spec: what every instruction and every device step does,
what the machine is at reset, and what a step keeps. A statement about an instruction's own operation is about the path
that issues it (`issueOf`): its conclusion is the next state, with what changes and what does not.
-/

namespace Sys2Proof.Claims

open Sys2Proof Sys2Proof.Machine Sys2Proof.Safety

/-! ## Integer operations (04_integer.md) -/

/-- An integer operation in both domains: its L-word and U-word, the registers and the width its source B is read at, the
widths its sources C and E are read at, whether
it reads its old destination last (R88), the v-registers of its L-result, whether its U-result is 64 bits wide as it
stands (R80), and its result from the sources in reading order. -/
structure IntForm where
  lane : Std → Instr
  uni : Std → Instr
  br : Std → Nat := fun x => x.ty.regs
  bw : Std → Nat := fun x => x.ty.bits
  cw : Option (Std → Nat) := some fun x => x.ty.bits
  ew : Option (Std → Nat) := none
  old : Bool := false
  regs : Std → Nat := fun x => x.ty.regs
  wide : Bool := false
  val : Std → List Nat → Nat

/-- The sources of the L-word in a lane, in reading order. -/
def IntForm.laneSrcs (o : IntForm) (r : Run) (x : Std) (l : Nat) : List (PV Nat) :=
  [r.g.readV x.b.toNat l (o.br x)] ++ (o.cw.map fun w => r.g.operand x.c (w x) l).toList ++
    (o.ew.map fun w => r.g.operand x.e (w x) l).toList ++
    (if o.old then [r.g.readV x.a.toNat l x.ty.regs] else [])

/-- The sources of the U-word, in reading order. -/
def IntForm.uniSrcs (o : IntForm) (r : Run) (x : Std) : List (PV Nat) :=
  [r.g.readS x.b.toNat (o.bw x)] ++ (o.cw.map fun w => r.g.operand x.c (w x) 0).toList ++
    (o.ew.map fun w => r.g.operand x.e (w x) 0).toList ++
    (if o.old then [r.g.readS x.a.toNat x.ty.bits] else [])

/-- Every active lane of the L-word takes the result in its destination registers, and the U-word takes it once, extended
to 64 bits by its type; a result from a poisoned source carries the token of the first one read (R69). The path passes
its instruction, and no other register, no flag, no byte of memory and nothing else of the machine changes. -/
def IntForm.runs (o : IntForm) : Prop :=
  (∀ (x : Std) (s : State) (r : Run), issueOf (o.lane x) s = some r →
    ∃ t, exec (o.lane x) s = .next t ∧
      wrote r s t ((regsOf r.g).putV r.act x.a.toNat (o.regs x) fun l => combine (o.laneSrcs r x l) (o.val x))) ∧
  (∀ (x : Std) (s : State) (r : Run), issueOf (o.uni x) s = some r →
    ∃ t, exec (o.uni x) s = .next t ∧
      wrote r s t ((regsOf r.g).putS x.a.toNat (combine (o.uniSrcs r x) fun vs =>
        if o.wide then o.val x vs else if x.ty == .i32 then signExt 32 64 (o.val x vs) else o.val x vs % 2 ^ x.ty.bits)))

/-- The width of the type. -/
abbrev w (x : Std) : Nat := x.ty.bits

/-- An exact result clamped to the range of the type where .sat is given, and wrapped (R82, R83). -/
def sized (x : Std) (v : Int) : Nat :=
  let lo : Int := if signedTy x.ty then -((2 ^ (w x - 1) : Nat) : Int) else 0
  let hi : Int := if signedTy x.ty then ((2 ^ (w x - 1) : Nat) : Int) - 1 else ((2 ^ w x : Nat) : Int) - 1
  wrapInt (w x) (if x.sat then max lo (min v hi) else v)

/-- Val of a source (04_integer.md). -/
abbrev val (x : Std) (b : Nat) : Int := valOf x.ty b

/-- The arithmetic operations without a carry (R82, R83). -/
def arithmetic : List IntForm :=
  [{ lane := .iadd, uni := .iaddU, val := fun x => fun | [b, c] => sized x (val x b + val x c) | _ => 0 },
   { lane := .isub, uni := .isubU, val := fun x => fun | [b, c] => sized x (val x b - val x c) | _ => 0 },
   { lane := .imul, uni := .imulU, val := fun x => fun | [b, c] => b * c % 2 ^ w x | _ => 0 },
   { lane := .imulhi, uni := .imulhiU
     val := fun x => fun | [b, c] => wrapInt (w x) ((val x b * val x c).fdiv ((2 ^ w x : Nat) : Int)) | _ => 0 },
   { lane := .imad, uni := .imadU, ew := some fun x => w x
     val := fun x => fun | [b, c, e] => (b * c + e) % 2 ^ w x | _ => 0 },
   { lane := .imadw, uni := .imadwU, br := fun _ => 1, bw := fun _ => 32, cw := some fun _ => 32, ew := some fun _ => 64
     regs := fun _ => 2, wide := true
     val := fun x => fun | [b, c, e] => wrapInt 64 (val x b * val x c + (e : Int)) | _ => 0 },
   { lane := .iabs, uni := .iabsU, cw := none
     val := fun x => fun | [b] => sized x (if val x b < 0 then -val x b else val x b) | _ => 0 },
   { lane := .ineg, uni := .inegU, cw := none, val := fun x => fun | [b] => sized x (-val x b) | _ => 0 },
   { lane := .imin, uni := .iminU, val := fun x => fun | [b, c] => if val x c < val x b then c else b | _ => 0 },
   { lane := .imax, uni := .imaxU, val := fun x => fun | [b, c] => if val x c > val x b then c else b | _ => 0 }]

/-- The shifts (R85): .wrap, F 0, takes the count modulo the width; .clamp the count itself, and past the width nothing
is left. -/
def shifts : List IntForm :=
  [{ lane := .shl, uni := .shlU, cw := some fun _ => 32
     val := fun x => fun
       | [b, n] =>
         if x.f.toNat = 0 then b * 2 ^ (n % w x) % 2 ^ w x else if n < w x then b * 2 ^ n % 2 ^ w x else 0
       | _ => 0 },
   { lane := .shr, uni := .shrU, cw := some fun _ => 32
     val := fun x => fun
       | [b, n] => if x.f.toNat = 0 then b / 2 ^ (n % w x) else if n < w x then b / 2 ^ n else 0
       | _ => 0 },
   { lane := .sra, uni := .sraU, cw := some fun _ => 32
     val := fun x => fun
       | [b, n] =>
         let by_ := fun (k : Nat) => wrapInt (w x) (toSigned (w x) b / ((2 ^ k : Nat) : Int))
         if x.f.toNat = 0 then by_ (n % w x) else if n < w x then by_ n
         else if bitB b (w x - 1) then 2 ^ w x - 1 else 0
       | _ => 0 },
   { lane := .rot, uni := .rotU, cw := some fun _ => 32
     val := fun x => fun
       | [b, n] =>
         let k := if x.f.toNat = 0 then n % w x else (w x - n % w x) % w x
         b * 2 ^ k % 2 ^ w x + b / 2 ^ (w x - k)
       | _ => 0 }]

/-- The logic operations (R84). -/
def logic : List IntForm :=
  [{ lane := .and, uni := .andU, val := fun _ => fun | [b, c] => b &&& c | _ => 0 },
   { lane := .or, uni := .orU, val := fun _ => fun | [b, c] => b ||| c | _ => 0 },
   { lane := .xor, uni := .xorU, val := fun _ => fun | [b, c] => b ^^^ c | _ => 0 },
   { lane := .not, uni := .notU, cw := none, val := fun x => fun | [b] => 2 ^ w x - 1 - b | _ => 0 },
   { lane := .blogic, uni := .blogicU, old := true
     val := fun x => fun
       | [b, c, a] => ofBits (w x) fun i => bitB (srcNum x.e) (bitN b i + 2 * bitN c i + 4 * bitN a i)
       | _ => 0 }]

/-- The bit-field and counting operations (R86). -/
def bitFields : List IntForm :=
  [{ lane := .popc, uni := .popcU, cw := none, regs := fun _ => 1
     val := fun x => fun | [b] => popcount (w x) b | _ => 0 },
   { lane := .clz, uni := .clzU, cw := none, regs := fun _ => 1
     val := fun x => fun | [b] => if b = 0 then w x else w x - 1 - Nat.log2 b | _ => 0 },
   { lane := .ctz, uni := .ctzU, cw := none, regs := fun _ => 1
     val := fun x => fun | [b] => ((List.range (w x)).find? (bitB b)).getD (w x) | _ => 0 },
   { lane := .brev, uni := .brevU, cw := none
     val := fun x => fun | [b] => ofBits (w x) fun i => bitB b (w x - 1 - i) | _ => 0 },
   { lane := .bfe, uni := .bfeU, cw := some fun _ => 32, ew := some fun _ => 32
     val := fun x => fun
       | [b, c, e] =>
         let p := min c (w x)
         let n := min e (w x)
         let f := ofBits n fun i => if p + i < w x then bitB b (p + i) else signedTy x.ty && bitB b (w x - 1)
         if n = 0 then 0 else if signedTy x.ty then signExt n (w x) f else f
       | _ => 0 },
   { lane := .bfi, uni := .bfiU, cw := some fun _ => 32, ew := some fun _ => 32, old := true
     val := fun x => fun
       | [b, c, e, a] =>
         let p := min c (w x)
         let n := min e (w x)
         ofBits (w x) fun i => if p ≤ i ∧ i < p + n then bitB b (i - p) else bitB a i
       | _ => 0 },
   { lane := .bpick, uni := .bpickU, cw := some fun _ => 32, ew := some fun _ => 32
     val := fun _ => fun | [b, c, e] => bpickOf b c e | _ => 0 },
   { lane := .lea, uni := .leaU, br := fun _ => 2, bw := fun _ => 64, regs := fun _ => 2, wide := true
     val := fun x => fun
       | [b, c] => (b + (if x.ty == .i32 then signExt 32 64 c else c) * 2 ^ srcNum x.e) % 2 ^ 64
       | _ => 0 }]

/-- R82, R83: iadd, isub, imul, imulhi, imad, imadw, iabs, ineg, imin and imax, per lane and once in a U-word: the result
of the exact operation, clamped with .sat and wrapped; nothing else changes. -/
def integerArithmetic : Prop := ∀ o ∈ arithmetic, o.runs

/-- R85: shl, shr, sra and rot, by the count modulo the width or, with .clamp, by the whole count. -/
def integerShifts : Prop := ∀ o ∈ shifts, o.runs

/-- R84: and, or, xor, not and blogic act on each bit. -/
def integerLogic : Prop := ∀ o ∈ logic, o.runs

/-- R86, R87: popc, clz, ctz, brev, bfe, bfi, bpick, and the address operation lea. -/
def integerBitFields : Prop := ∀ o ∈ bitFields, o.runs

end Sys2Proof.Claims

namespace Sys2Proof.Claims

open Sys2Proof Sys2Proof.Machine Sys2Proof.Safety

/-! ## Forms that write registers alone -/

/-- An instruction's own operation writes registers alone: from every state and operands on which the path issues it,
exec answers the state in which the path has passed the instruction and the registers read as given; nothing else of the
machine has changed. -/
def writesRegs (i : Instr) (regs : Run → Regs) : Prop :=
  ∀ (s : State) (r : Run), issueOf i s = some r → ∃ t, exec i s = .next t ∧ wrote r s t (regs r)

/-- The registers before the instruction. -/
abbrev old (r : Run) : Regs := regsOf r.g

/-- The s-register of an L-word with a uniform destination: written once, and only if a lane is active (R70). -/
def onceIn (r : Run) (a : Nat) (x : PV Nat) : Regs := if r.act.isEmpty then old r else (old r).putS a x

/-! ## Carries, comparisons and selections (04_integer.md) -/

/-- The sum with the carry in, and the carry out (R82). -/
def addCarry (x : Std) : List Nat → Nat × Bool
  | [b, c, i] => ((b + c + i) % 2 ^ w x, decide (2 ^ w x ≤ b + c + i))
  | _ => (0, false)

/-- The difference with the borrow in, and the borrow out (R82). -/
def subBorrow (x : Std) : List Nat → Nat × Bool
  | [b, c, i] => (wrapInt (w x) ((b : Int) - (c : Int) - (i : Int)), decide (b < c + i))
  | _ => (0, false)

/-- B, C and the predicate E of a lane, in reading order (R88). -/
def carrySrcs (r : Run) (x : Std) (l : Nat) : List (PV Nat) :=
  [r.g.readV x.b.toNat l x.ty.regs, r.g.operand x.c (w x) l, (r.g.getP (srcNum x.e) l).map b2n]

/-- The same of a U-word. -/
def carrySrcsU (r : Run) (x : Std) : List (PV Nat) :=
  [r.g.readS x.b.toNat (w x), r.g.operand x.c (w x) 0, (r.g.getQ (srcNum x.e)).map b2n]

/-- A result of a U-word as 64 bits (R80). -/
def ext64 (x : Std) (v : Nat) : Nat := if x.ty == .i32 then signExt 32 64 v else v % 2 ^ w x

/-- A carry form per lane: the result, and the carry in place of the predicate, both poisoned by any poison. -/
def carryLane (i : Std → Instr) (f : Std → List Nat → Nat × Bool) : Prop :=
  ∀ x, writesRegs (i x) fun r =>
    ((old r).putV r.act x.a.toNat x.ty.regs fun l => combine (carrySrcs r x l) fun vs => (f x vs).1).putP r.act (srcNum x.e)
      fun l => combineB (carrySrcs r x l) fun vs => (f x vs).2

/-- A carry form in a U-word. -/
def carryUni (i : Std → Instr) (f : Std → List Nat → Nat × Bool) : Prop :=
  ∀ x, writesRegs (i x) fun r =>
    ((old r).putS x.a.toNat (combine (carrySrcsU r x) fun vs => ext64 x (f x vs).1)).putQ (srcNum x.e)
      (combineB (carrySrcsU r x) fun vs => (f x vs).2)

/-- The comparison that F names: equal, not equal, less, less or equal, greater, greater or equal (R87). -/
def compares (x : Std) (b c : Int) : Bool :=
  match x.f.toNat with
  | 0 => b == c | 1 => b != c | 2 => b < c | 3 => b ≤ c | 4 => b > c | _ => b ≥ c

/-! ## Special registers (03_registers.md) -/

/-- The state in which the clock of a core has run on to a value, for a read of %clock; for every other register the
state as it is (R66). -/
def clockIn (r : Run) (n c : Nat) : State := if n = 83 then modCore r.s r.t.core fun k => { k with clock := c } else r.s

/-- The value of a special register, %clock reading the given value (Table 3.2). -/
def specialIn (r : Run) (n l c : Nat) : Nat := if n = 83 then c else r.special n l

/-- The group after swr of the low word of a value: %fflags takes bits 4:0, %gstat its writable fields, bits 1:0 and 9:8,
and no other register is written (R67). -/
def swrIn (g : Group) (n v : Nat) : Group :=
  if n = 81 then { g with fflags := BitVec.ofNat 5 v }
  else if n = 82 then { g with gstat := BitVec.ofNat 32 (bits v 9 8 * 256 + bits v 1 0) }
  else g

/-! ## Lane crossing (03_registers.md R72, R75, R76) -/

/-- Src(B, j) of all 32 lanes: the present value of a lane of the path, of an exited or of a held lane; of any other lane
one of the values its registers held since the paths parted (R72). -/
def acrossAll (r : Run) (x : Std) : List (PV Nat) :=
  (List.range 32).map fun j => r.g.acrossV r.s.tick r.lanes x.b.toNat j x.ty.regs

/-- The 32 predicates as a mask, or the token of the lowest poisoned lane (R76). -/
def predMask (r : Run) (x : Std) : PV Nat :=
  combine ((List.range 32).map fun j => (r.g.acrossP r.s.tick r.lanes x.b.toNat j).map b2n) fun bs =>
    maskOf ((List.range 32).filter fun j => bs.getD j 0 == 1)

/-- The lane that lxch reads for lane l: by F an index, a shift, a rotation or an exclusive-or of lane numbers within the
segment of width E (R75). -/
def sourceLane (x : Std) (c l : Nat) : Nat :=
  let n := srcNum x.e
  let base := l - l % n
  match x.f.toNat with
  | 0 => base + c % n
  | 1 =>
    let j : Int := (l : Int) + toSigned 32 c
    if (base : Int) ≤ j ∧ j < (base : Int) + (n : Int) then j.toNat else l
  | 2 => base + (l - base + c % n) % n
  | _ => l ^^^ (c % n)

/-- The lanes that hold the value of lane l. -/
def sameAs (vs : List (PV Nat)) (l : Nat) : Nat :=
  maskOf ((List.range 32).filter fun j => vs.getD j (.ok 0) == vs.getD l (.ok 0))

/-- The poison that a lane's match carries: its own token, else that of the lowest poisoned lane (R76). -/
def ownTok (vs : List (PV Nat)) (l : Nat) : Option Word :=
  match vs.getD l (.ok 0) with
  | .bad t => some t
  | .ok _ => firstTok vs

/-! ## Poison (03_registers.md R78) -/

/-- The registers after the poison of a v-register in a lane has been cleared: it keeps the token as its value. -/
def scrubV (r : Regs) (n : Nat) (lanes : List Nat) : Regs :=
  { r with v := fun m l => if m = n ∧ l ∈ lanes then (match r.v m l with
      | .bad t => .ok t
      | .ok y => .ok y) else r.v m l }

/-- The same of a predicate, which becomes false. -/
def scrubP (r : Regs) (n : Nat) (lanes : List Nat) : Regs :=
  { r with p := fun m l => if m = n ∧ l ∈ lanes then (match r.p m l with
      | .bad _ => .ok false
      | .ok y => .ok y) else r.p m l }

/-- The token of the register that F and B name in a lane, if it is poisoned: a v-register, a pair, a predicate or an
s-register. -/
def tokenIn (r : Run) (x : Std) (l : Nat) : Option Word :=
  match x.f.toNat with
  | 0 => (r.g.readV x.b.toNat l 1).tok?
  | 1 => (r.g.readV x.b.toNat l 2).tok?
  | 2 => (r.g.getP x.b.toNat l).tok?
  | _ => (r.g.getS x.b.toNat).tok?

/-- R82, R88: iaddc and isubb write the wrapped sum or difference with the carry in, and the carry out in its place. -/
def carryChains : Prop :=
  carryLane .iaddc addCarry ∧ carryLane .isubb subBorrow ∧ carryUni .iaddcU addCarry ∧ carryUni .isubbU subBorrow

/-- R74: the moves: mov, movi and movs into each active lane; mov, movi and movih into an s-register, movU with the
pending mark of its source (R161). -/
def moveInstructions : Prop :=
  (∀ x, writesRegs (.mov x) fun r => (old r).putV r.act x.a.toNat x.ty.regs fun l => r.g.operand x.c (w x) l) ∧
  (∀ x, writesRegs (.movi x) fun r => (old r).putV r.act x.a.toNat 1 fun _ => .ok x.imm.toNat) ∧
  (∀ x, writesRegs (.movs x) fun r => (old r).putV r.act x.a.toNat 1 fun _ => r.g.readS x.b.toNat 32) ∧
  (∀ x, writesRegs (.movU x) fun r =>
    { (old r).putS x.a.toNat ((r.g.getS x.b.toNat).map BitVec.toNat) with
      pend := fun n => if n = x.a.toNat then (old r).pend x.b.toNat else (old r).pend n }) ∧
  (∀ x, writesRegs (.moviU x) fun r => (old r).putS x.a.toNat (.ok (signExt 32 64 x.imm.toNat))) ∧
  (∀ x, writesRegs (.movih x) fun r => (old r).putS x.a.toNat
    ((r.g.readS x.a.toNat 32).map fun v => x.imm.toNat * 2 ^ 32 + v))

/-- R65 to R67: srd and ssr read a special register, %clock with a value that a read has let run on; swr writes the
writable fields of %fflags and %gstat alone, and raises a poisoned source. -/
def specialRegisters : Prop :=
  (∀ (x : One) (s : State) (r : Run), issueOf (.srd x) s = some r →
    ∃ t c, exec (.srd x) s = .next t ∧ wrote r (clockIn r x.b.toNat c) t
      ((old r).putV r.act x.a.toNat (if special64 x.b.toNat then 2 else 1) fun l => .ok (specialIn r x.b.toNat l c))) ∧
  (∀ (x : One) (s : State) (r : Run), issueOf (.ssr x) s = some r →
    ∃ t c, exec (.ssr x) s = .next t ∧ wrote r (clockIn r x.b.toNat c) t
      ((old r).putS x.a.toNat (.ok (specialIn r x.b.toNat 0 c)))) ∧
  (∀ (x : One) (s : State) (r : Run) (v : DWord), issueOf (.swr x) s = some r → r.g.getS x.b.toNat = .ok v →
    ∃ t, exec (.swr x) s = .next t ∧ passed r s t (swrIn r.g x.a.toNat (v.toNat % 2 ^ 32))) ∧
  (∀ (x : One) (s : State) (r : Run) (tok : Word), issueOf (.swr x) s = some r → r.g.getS x.b.toNat = .bad tok →
    exec (.swr x) s = .next (r.raise tok))

/-- R77: plop, pmask and pset: each place takes the truth-table bit of its two predicates, the bit of the operand that its
lane names, or the truth of a q-register or of a v-register's being nonzero. -/
def predicateLogic : Prop :=
  (∀ x, writesRegs (.plop x) fun r => (old r).putP r.act x.a.toNat fun l =>
    combineB [(r.g.getP x.b.toNat l).map b2n, (r.g.getP (srcNum x.c) l).map b2n] fun
      | [b, c] => bitB x.f.toNat (2 * b + c)
      | _ => false) ∧
  (∀ x, writesRegs (.plopU x) fun r => (old r).putQ x.a.toNat
    (combineB [(r.g.getQ x.b.toNat).map b2n, (r.g.getQ (srcNum x.c)).map b2n] fun
      | [b, c] => bitB x.f.toNat (2 * b + c)
      | _ => false)) ∧
  (∀ x, writesRegs (.pmask x) fun r => (old r).putP r.act x.a.toNat fun l => (r.g.operand x.c 32 l).map fun m => bitB m l) ∧
  (∀ x, writesRegs (.pset x) fun r => (old r).putP r.act x.a.toNat fun l =>
    match x.f.toNat with
    | 0 => r.g.getQ x.b.toNat
    | 1 => (r.g.getQ x.b.toNat).map not
    | 2 => (r.g.readV x.b.toNat l 1).map (· != 0)
    | _ => (r.g.readV x.b.toNat l 1).map (· == 0))

/-- R75, R76: rdlane, wrlane and lxch move values between lanes; match and pfold compare and fold over all 32. -/
def laneCrossing : Prop :=
  (∀ x, writesRegs (.rdlane x) fun r => onceIn r x.a.toNat
    (match r.g.operand x.c 32 0 with
    | .bad t => .bad t
    | .ok k => r.g.acrossV r.s.tick r.lanes x.b.toNat (k % 32) x.ty.regs)) ∧
  (∀ x, writesRegs (.wrlane x) fun r =>
    match r.g.operand x.c 32 0 with
    | .bad t => (old r).putV r.act x.a.toNat x.ty.regs fun _ => .bad t
    | .ok k => (old r).putV (r.act.filter (· == k % 32)) x.a.toNat x.ty.regs fun _ => r.g.readS x.b.toNat (w x)) ∧
  (∀ x, writesRegs (.lxch x) fun r => (old r).putV r.act x.a.toNat x.ty.regs fun l =>
    match r.g.operand x.c 32 l with
    | .bad t => .bad t
    | .ok c => r.g.acrossV r.s.tick r.lanes x.b.toNat (sourceLane x c l) x.ty.regs) ∧
  (∀ x, x.f.toNat = 0 → writesRegs (.matchv x) fun r => (old r).putV r.act x.a.toNat 1 fun l =>
    match ownTok (acrossAll r x) l with
    | some t => .bad t
    | none => .ok (sameAs (acrossAll r x) l)) ∧
  (∀ x, x.f.toNat ≠ 0 → writesRegs (.matchv x) fun r => (old r).putP r.act x.a.toNat fun l =>
    match ownTok (acrossAll r x) l with
    | some t => .bad t
    | none => .ok ((acrossAll r x).all fun v => v == (acrossAll r x).getD 0 (.ok 0))) ∧
  (∀ x, x.f.toNat < 4 → writesRegs (.pfold x) fun r => (old r).putP r.act x.a.toNat fun _ =>
    (predMask r x).map fun m =>
      match x.f.toNat with
      | 0 => m == 0xFFFFFFFF
      | 1 => m != 0
      | 2 => m == 0 || m == 0xFFFFFFFF
      | _ => popcount 32 m % 2 == 1) ∧
  (∀ x, 4 ≤ x.f.toNat → writesRegs (.pfold x) fun r => onceIn r x.a.toNat
    ((predMask r x).map fun m => if x.f.toNat = 4 then m else popcount 32 m))

/-- R75, R120: redux writes the sum, minimum, maximum, and, or, or exclusive-or of the 32 lanes once; fredux writes the sum,
minimum or maximum along the pairwise tree of R105, with the flags of the nodes above an active lane. -/
def reductions : Prop :=
  (∀ x, writesRegs (.redux x) fun r => onceIn r x.a.toNat (combine (acrossAll r x) fun vs =>
    match vs with
    | [] => 0
    | v :: rest => ext64 x (rest.foldl (fun a b =>
      match x.f.toNat with
      | 0 => (a + b) % 2 ^ w x
      | 1 => if val x b < val x a then b else a
      | 2 => if val x b > val x a then b else a
      | 3 => a &&& b
      | 4 => a ||| b
      | _ => a ^^^ b) v))) ∧
  (∀ (x : Std) (s : State) (r : Run) (tok : Word), issueOf (.fredux x) s = some r → r.act.isEmpty = false →
    firstTok (acrossAll r x) = some tok →
    ∃ t, exec (.fredux x) s = .next t ∧ wrote r s t ((old r).putS x.a.toNat (.bad tok))) ∧
  (∀ (x : Std) (s : State) (r : Run) (n : Node) (ns : List Node), issueOf (.fredux x) s = some r → r.act.isEmpty = false →
    firstTok (acrossAll r x) = none →
    treeFold (freduxOp (fmtTy x.ty) x.f.toNat r.g.ftz) 5
      ((acrossAll r x).mapIdx fun j v => { val := v.val, live := r.act.contains j }) = n :: ns →
    ∃ t, exec (.fredux x) s = .next t ∧ wrote r s t (((old r).putS x.a.toNat (.ok n.val)).orFlags n.flags)) ∧
  (∀ (x : Std) (s : State) (r : Run), issueOf (.fredux x) s = some r → r.act.isEmpty = true →
    ∃ t, exec (.fredux x) s = .next t ∧ wrote r s t (old r))

end Sys2Proof.Claims

namespace Sys2Proof.Claims

open Sys2Proof Sys2Proof.Machine Sys2Proof.Safety

/-! ## Floating point (05_formats.md, 06_float.md) -/

/-- The registers after results with flags: each active lane takes its result, and the flags of the lanes that are not
poisoned are accumulated (R69, R107, R108). -/
def floatRegs (r : Run) (a k : Nat) (f : Nat → PV (Nat × Flags)) : Regs :=
  { (old r).putV r.act a k (fun l => (f l).map Prod.fst) with
    fflags := r.act.foldl (fun u l =>
      match f l with
      | .ok v => u ||| v.2.bits
      | .bad _ => u) (old r).fflags }

/-- A per-lane floating-point instruction: the sources of a lane in reading order, and its result with flags from them,
with FTZ as %gstat holds it. -/
def floatLane (i : Std → Instr) (k : Std → Nat) (srcs : Run → Std → Nat → List (PV Nat))
    (f : Std → Bool → List Nat → Nat × Flags) : Prop :=
  ∀ x, writesRegs (i x) fun r => floatRegs r x.a.toNat (k x) fun l => combineF (srcs r x l) (f x r.g.ftz)

/-- The format of the type. -/
abbrev fm (x : Std) : Fmt := fmtTy x.ty

/-- Source B of the type's format. -/
abbrev fb (r : Run) (x : Std) (l : Nat) : PV Nat := r.g.readV x.b.toNat l ((fm x).width / 32)

/-- A C or E source of a format: an immediate is the integer, converted exactly (R10, R111). -/
def fsrc (f : Fmt) (r : Run) (s : Src) (l : Nat) : PV Nat :=
  match s with
  | .imm i =>
    let v := toSigned 8 i.toNat
    .ok (f.roundFV .rne false (.fin (decide (v < 0)) v.natAbs 0)).1
  | _ => r.g.operand s f.width l

/-- A packed source: an immediate stands in both elements (R111). -/
def psrc (f : Fmt) (r : Run) (s : Src) (l : Nat) : PV Nat :=
  match s with
  | .imm _ => (fsrc f r s l).map fun v => v + 2 ^ 16 * v
  | _ => r.g.operand s 32 l

/-- Sources B; B and C; B, C and E. -/
def one (r : Run) (x : Std) (l : Nat) : List (PV Nat) := [fb r x l]
def two (r : Run) (x : Std) (l : Nat) : List (PV Nat) := [fb r x l, fsrc (fm x) r x.c l]
def three (r : Run) (x : Std) (l : Nat) : List (PV Nat) := [fb r x l, fsrc (fm x) r x.c l, fsrc (fm x) r x.e l]

/-- A result from one, two or three operands. -/
def on1 (f : Std → Bool → Nat → Nat × Flags) (x : Std) (z : Bool) : List Nat → Nat × Flags
  | [b] => f x z b
  | _ => (0, {})
def on2 (f : Std → Bool → Nat → Nat → Nat × Flags) (x : Std) (z : Bool) : List Nat → Nat × Flags
  | [b, c] => f x z b c
  | _ => (0, {})
def on3 (f : Std → Bool → Nat → Nat → Nat → Nat × Flags) (x : Std) (z : Bool) : List Nat → Nat × Flags
  | [b, c, e] => f x z b c e
  | _ => (0, {})

/-- One rounding of an exact result to the type, with the flags of reading signalling NaNs (R95, R107). -/
def rounded (x : Std) (z : Bool) (read : List FV) (v : FV × Flags) : Nat × Flags :=
  finish (fm x) x.rnd x.sat z read v

/-- Two element results side by side, with the flags of either (R92, R119). -/
def both (f : Nat → Nat × Flags) : Nat × Flags := ((f 0).1 + 2 ^ 16 * (f 1).1, (f 0).2.or (f 1).2)

/-- Element j of a packed pair, and the element of C that pairs with it: the other one with .swp. -/
def elem (v j : Nat) : Nat := v / 2 ^ (16 * j) % 2 ^ 16
def swapped (x : Std) (c j : Nat) : Nat := elem c (if bitB x.f.toNat 2 then 1 - j else j)

/-- The bits of an f32 that holds an integer, a power of two, and an integer and some quarters. -/
def f32Of (n : Int) : Nat := (fmt32.roundFV .rne false (.fin (decide (n < 0)) n.natAbs 0)).1
def pow32 (k : Int) : Nat := (fmt32.roundFV .rne false (.fin false 1 k)).1
def quarters (n : Int) (q : Nat) : Nat := (fmt32.roundFV .rne false (.fin (decide (4 * n + q < 0)) (4 * n + q).natAbs (-2))).1

/-- Rows of Table 6.3 that hold for f32 and f64: NaN, zeros, infinities and negative numbers. -/
def commonRows (f : Fmt) (z : Bool) : Prop :=
  (∀ b c, f.decode b = .nan c → frcpOf f z b = (f.nan, { io := c }) ∧ frsqOf f z b = (f.nan, { io := c }) ∧
    ∀ rnd, fsqrtOf f rnd z b = (f.nan, { io := c })) ∧
  (∀ b m e, f.read z b = .fin true m e → m ≠ 0 → frsqOf f z b = (f.nan, { io := true }) ∧
    ∀ rnd, fsqrtOf f rnd z b = (f.nan, { io := true })) ∧
  frcpOf f z 0 = (f.inf, { dz := true }) ∧ frcpOf f z f.sign = (f.sign + f.inf, { dz := true }) ∧
  frcpOf f z f.inf = (0, {}) ∧ frcpOf f z (f.sign + f.inf) = (f.sign, {}) ∧
  frsqOf f z 0 = (f.inf, { dz := true }) ∧ frsqOf f z f.sign = (f.sign + f.inf, { dz := true }) ∧
  frsqOf f z f.inf = (0, {}) ∧ frsqOf f z (f.sign + f.inf) = (f.nan, { io := true }) ∧
  ∀ rnd, fsqrtOf f rnd z f.sign = (f.sign, {}) ∧ fsqrtOf f rnd z f.inf = (f.inf, {}) ∧
    fsqrtOf f rnd z (f.sign + f.inf) = (f.nan, { io := true })

/-- Table 6.3 (R116) for f32: its inputs give exactly the results shown, with the flags shown; those of an integer argument of
fsin and fcos up to 64. -/
def f32Rows (z : Bool) : Prop :=
  (∀ b c, fmt32.decode b = .nan c → ∀ v, (v = fexp2Of z b ∨ v = flog2Of z b ∨ v = fturnOf false z b ∨ v = fturnOf true z b) →
    v = (fmt32.nan, { io := c })) ∧
  (∀ k : Int, -126 ≤ k → k ≤ 126 →
    frcpOf fmt32 z (pow32 k) = (pow32 (-k), {}) ∧ frcpOf fmt32 z (2 ^ 31 + pow32 k) = (2 ^ 31 + pow32 (-k), {})) ∧
  (∀ k : Int, -63 ≤ k → k ≤ 63 → frsqOf fmt32 z (pow32 (2 * k)) = (pow32 (-k), {})) ∧
  (∀ n : Int, -126 ≤ n → n ≤ 127 → fexp2Of z (f32Of n) = (pow32 n, {})) ∧
  fexp2Of z (2 ^ 31) = (pow32 0, {}) ∧ fexp2Of z 0xFF800000 = (0, {}) ∧ fexp2Of z 0x7F800000 = (0x7F800000, {}) ∧
  fexp2Of z (f32Of 128) = (0x7F800000, { of_ := true, nx := true }) ∧
  (∀ n : Int, -126 ≤ n → n ≤ 127 → flog2Of z (pow32 n) = (f32Of n, {})) ∧
  flog2Of z 0 = (0xFF800000, { dz := true }) ∧ flog2Of z (2 ^ 31) = (0xFF800000, { dz := true }) ∧
  flog2Of z 0x7F800000 = (0x7F800000, {}) ∧ flog2Of z 0xFF800000 = (fmt32.nan, { io := true }) ∧
  (∀ b m e, fmt32.read z b = .fin true m e → m ≠ 0 → flog2Of z b = (fmt32.nan, { io := true })) ∧
  (∀ n : Int, -64 ≤ n → n ≤ 64 →
    fturnOf false z (f32Of n) = (if n < 0 then 2 ^ 31 else 0, {}) ∧ fturnOf true z (f32Of n) = (pow32 0, {}) ∧
    fturnOf false z (quarters n 1) = (pow32 0, {}) ∧ fturnOf true z (quarters n 1) = (0, {}) ∧
    fturnOf false z (quarters n 2) = (0, {}) ∧ fturnOf true z (quarters n 2) = (2 ^ 31 + pow32 0, {}) ∧
    fturnOf false z (quarters n 3) = (2 ^ 31 + pow32 0, {}) ∧ fturnOf true z (quarters n 3) = (0, {})) ∧
  fturnOf false z (2 ^ 31) = (2 ^ 31, {}) ∧ fturnOf true z (2 ^ 31) = (pow32 0, {}) ∧
  ∀ b, (b = 0x7F800000 ∨ b = 0xFF800000) → fturnOf false z b = (fmt32.nan, { io := true }) ∧ fturnOf true z b = (fmt32.nan, { io := true })

/-- R113, R114, R117: fadd, fsub, fmul and ffma round the exact sum, difference, product or fused result once; fmin, fmax,
fround, fldexp and fdivfix give theirs; each active lane takes its result and the flags of unpoisoned lanes accumulate. -/
def floatArithmetic : Prop :=
  floatLane .fadd (fun x => x.ty.regs) two (on2 fun x z b c =>
    rounded x z [(fm x).read z b, (fm x).read z c] (FV.sum x.rnd [(fm x).read z b, (fm x).read z c])) ∧
  floatLane .fsub (fun x => x.ty.regs) two (on2 fun x z b c =>
    rounded x z [(fm x).read z b, (fm x).read z c] (FV.sum x.rnd [(fm x).read z b, ((fm x).read z c).negate])) ∧
  floatLane .fmul (fun x => x.ty.regs) two (on2 fun x z b c =>
    rounded x z [(fm x).read z b, (fm x).read z c] (((fm x).read z b).mul ((fm x).read z c))) ∧
  floatLane .ffma (fun x => x.ty.regs) three (on3 fun x z b c e =>
    let p := ((fm x).read z b).mul ((fm x).read z c)
    let t := FV.sum x.rnd [p.1, (fm x).read z e]
    rounded x z [(fm x).read z b, (fm x).read z c, (fm x).read z e] (t.1, p.2.or t.2)) ∧
  floatLane .fmin (fun x => x.ty.regs) two (on2 fun x z b c => fpickOf (fm x) false z b c) ∧
  floatLane .fmax (fun x => x.ty.regs) two (on2 fun x z b c => fpickOf (fm x) true z b c) ∧
  floatLane .fround (fun x => x.ty.regs) one (on1 fun x z b => froundOf (fm x) x.rnd (x.f == 1) z b) ∧
  floatLane .fldexp (fun x => x.ty.regs) (fun r x l => [fb r x l, r.g.operand x.c 32 l])
    (on2 fun x z b n => fldexpOf (fm x) x.rnd x.sat z b n) ∧
  floatLane .fdivfix (fun x => x.ty.regs) three (on3 fun x z b c e => fdivfixOf (fm x) x.rnd x.sat z b c e)

/-- R115, R116: each special function completes: every active lane takes the function's result on the operand's bits and FTZ,
and its flags accumulate; the inputs of Table 6.3 give the results and flags shown there. Which value within the bound of
Table 6.2 is returned is free (log 10), so elsewhere the result is named, not computed. -/
def specialFunctions : Prop :=
  floatLane .frcp (fun x => x.ty.regs) one (on1 fun x z b => frcpOf (fm x) z b) ∧
  floatLane .frsq (fun x => x.ty.regs) one (on1 fun x z b => frsqOf (fm x) z b) ∧
  floatLane .fsqrt (fun x => x.ty.regs) one (on1 fun x z b => fsqrtOf (fm x) x.rnd z b) ∧
  floatLane .fexp2 (fun x => x.ty.regs) one (on1 fun _ z b => fexp2Of z b) ∧
  floatLane .flog2 (fun x => x.ty.regs) one (on1 fun _ z b => flog2Of z b) ∧
  floatLane .fsin (fun x => x.ty.regs) one (on1 fun _ z b => fturnOf false z b) ∧
  floatLane .fcos (fun x => x.ty.regs) one (on1 fun _ z b => fturnOf true z b) ∧
  ∀ z : Bool, commonRows fmt32 z ∧ commonRows fmt64 z ∧ f32Rows z

/-- R102, R118, R119: each of these completes: the packed instructions form two elements each, fdp2 and idp4 their dot products,
lmul the products of L6 codes, and cvt converts one element and keeps the rest of an element destination. -/
def packedAndConversions : Prop :=
  floatLane .pkop (fun _ => 1) (fun r x l => [r.g.readV x.b.toNat l 1, psrc (fm x) r x.c l])
    (on2 fun x z b c => both fun j => pkopElem (fm x) (x.f.toNat % 4) x.rnd x.sat z (elem b j) (swapped x c j)) ∧
  floatLane .pkmul (fun _ => 1) (fun r x l => [r.g.readV x.b.toNat l 1, psrc (fm x) r x.c l])
    (on2 fun x z b c => both fun j => fmulOf (fm x) x.rnd x.sat z (elem b j) (swapped x c j)) ∧
  floatLane .pkfma (fun _ => 1) (fun r x l => [r.g.readV x.b.toNat l 1, psrc (fm x) r x.c l, psrc (fm x) r x.e l])
    (on3 fun x z b c e => both fun j => ffmaOf (fm x) x.rnd x.sat z (elem b j) (swapped x c j) (elem e j)) ∧
  floatLane .fdp2 (fun _ => 1) (fun r x l => [r.g.readV x.b.toNat l 1, psrc (fm x) r x.c l, fsrc fmt32 r x.e l])
    (on3 fun x z b c e => fdp2Of (fm x) x.rnd x.sat z b c e) ∧
  (∀ x, writesRegs (.idp4 x) fun r => (old r).putV r.act x.a.toNat 1 fun l =>
    combine [r.g.readV x.b.toNat l 1, r.g.operand x.c 32 l, r.g.operand x.e 32 l] fun
      | [b, c, e] => idp4Of x.ty x.sat b c e
      | _ => 0) ∧
  (∀ x, x.f.toNat = 0 → writesRegs (.lmul x) fun r => floatRegs r x.a.toNat 1 fun l =>
    combineF [r.g.readV x.b.toNat l 1, r.g.operand x.c 32 l] (on2 (fun x z p q =>
      lmulOneOf z (bits (srcNum x.e) 5 4) p q) x r.g.ftz)) ∧
  (∀ x, x.f.toNat ≠ 0 → writesRegs (.lmul x) fun r => floatRegs r x.a.toNat 1 fun l =>
    combineF [r.g.readV x.b.toNat l 1, r.g.operand x.c 32 l, r.g.readV x.a.toNat l 1] (on3 (fun x z p q a =>
      lmulDotOf x.rnd x.sat z p q a) x r.g.ftz)) ∧
  (∀ (x : Std) (src : NumType), NumType.ofCode x.f = some src →
    let z := fun (r : Run) => r.g.ftz && decide (32 ≤ src.bits) && decide (32 ≤ w x)
    let conv := fun (r : Run) (b : Nat) => convertOf x.ty src x.rnd x.sat (z r)
      (if src.bits < 32 then b / 2 ^ (src.bits * bits (srcNum x.e) 5 4) % 2 ^ src.bits else b)
    (w x < 32 → writesRegs (.cvt x) fun r => floatRegs r x.a.toNat 1 fun l =>
      combineF [r.g.readV x.b.toNat l src.regs, r.g.readV x.a.toNat l 1] fun
        | [b, a] => (setBits a (w x * bits (srcNum x.e) 1 0 + w x - 1) (w x * bits (srcNum x.e) 1 0) (conv r b).1, (conv r b).2)
        | _ => (0, {})) ∧
    (32 ≤ w x → writesRegs (.cvt x) fun r => floatRegs r x.a.toNat x.ty.regs fun l =>
      combineF [r.g.readV x.b.toNat l src.regs] fun
        | [b] => conv r b
        | _ => (0, {})))

/-- R113, R114: fcmp writes the truth of its comparison, unordered operands counting as unequal, and accumulates flags;
fclass writes the one class bit of the operand's bits and sets no flag. -/
def floatCompareAndClass : Prop :=
  (∀ x, writesRegs (.fcmp x) fun r =>
    let c := fun (l : Nat) => combineF (two r x l) (on2 (fun x z b c =>
      let v := fcmpOf (fm x) x.f.toNat z b c
      (b2n v.1, v.2)) x r.g.ftz)
    { (old r).putP r.act x.a.toNat (fun l => (c l).map fun v => v.1 == 1) with
      fflags := r.act.foldl (fun u l =>
        match c l with
        | .ok v => u ||| v.2.bits
        | .bad _ => u) (old r).fflags }) ∧
  (∀ x, writesRegs (.fclass x) fun r => (old r).putV r.act x.a.toNat 1 fun l => (fb r x l).map (fclassOf (fm x)))

end Sys2Proof.Claims

namespace Sys2Proof.Claims

open Sys2Proof Sys2Proof.Machine Sys2Proof.Safety

/-! ## Control (08_issue.md) -/

/-- The path has sent its threads to addresses and, beside that, only registers have changed. -/
def jumped (r : Run) (s t : State) (regs : Regs) (dest : List (Nat × Nat)) : Prop :=
  ∃ g, sent r s t g dest ∧ sameRest r.g g ∧ (∀ l, sameThread (r.g.thread l) (g.thread l) ∧ (g.thread l).pc = (r.g.thread l).pc) ∧
    Regs.same (regsOf g) regs

/-- Where the lanes of the path go when some of them take a transfer: to their targets, and the others past the
instruction (R150 to R152, R155). -/
def goes (r : Run) (take : Nat → Option Nat) : List (Nat × Nat) :=
  r.lanes.map fun l => (l, (take l).getD (passLoop (r.g.thread l) r.pc r.len).1)

/-- One target for every active lane. -/
def allTo (r : Run) (a : Nat) (l : Nat) : Option Nat := if l ∈ r.act then some a else none

/-- The target of an I-tail: the instruction's address plus the sign-extended offset, modulo 2^56 (R148). -/
def tailTarget (r : Run) (imm : Word) : Nat := (r.pc + signExt 32 56 imm.toNat) % 2 ^ 56

/-- The target of a lane's register pair: bits 55:0 (R148). -/
def pairTarget (r : Run) (b : BitVec 8) (l : Nat) : PV Nat := (r.g.readV b.toNat l 2).map (· % 2 ^ 56)

/-- bri and ret (R27, R151). -/
def indirectJump (i : One → Instr) : Prop :=
  ∀ (x : One) (s : State) (r : Run), issueOf (i x) s = some r →
    (firstTok (r.act.map (pairTarget r x.b)) = none →
      (∀ l ∈ r.act, (pairTarget r x.b l).val % 4 = 0) →
      ∃ t, exec (i x) s = .next t ∧
        jumped r s t (old r) (goes r fun l => if l ∈ r.act then some (pairTarget r x.b l).val else none)) ∧
    (∀ tok, firstTok (r.act.map (pairTarget r x.b)) = some tok → exec (i x) s = .next (r.raise tok)) ∧
    (firstTok (r.act.map (pairTarget r x.b)) = none →
      ∀ a, ((r.act.map fun l => (pairTarget r x.b l).val).find? fun a => a % 4 != 0) = some a →
      exec (i x) s = .next (r.fault 4 a))

/-- ujmp and uret (R27, R152). -/
def registerJump (i : One → Instr) : Prop :=
  ∀ (x : One) (s : State) (r : Run), issueOf (i x) s = some r →
    (∀ v, r.g.getS x.b.toNat = .ok v → v.toNat % 4 = 0 →
      ∃ t, exec (i x) s = .next t ∧ jumped r s t (old r) (goes r (allTo r (v.toNat % 2 ^ 56)))) ∧
    (∀ v, r.g.getS x.b.toNat = .ok v → v.toNat % 4 ≠ 0 → exec (i x) s = .next (r.fault 4 (v.toNat % 2 ^ 56))) ∧
    (∀ tok, r.g.getS x.b.toNat = .bad tok → exec (i x) s = .next (r.raise tok))

/-- Must the path commit before its threads end (R355)? -/
def commitsFirst (r : Run) : Bool := (r.t.paired || r.t.contained) && !(mget {} r.path r.g.paths).committed

/-- The state once a matrix thread of a leased team has exited: the team's lease ends, and its core's engine is free (R255). -/
def leaseEnds (u : State) (tid gnum : Nat) : State :=
  let t := teamOf u tid
  if gnum = 32 ∧ t.lease.isSome = true ∧ (t.group 32).exited = true then
    modCore (modTeam u tid fun k => { k with lease := none }) t.core fun c =>
      { c with holder := if c.holder = some tid then none else c.holder }
  else u

/-- The value a meeting register reads as, and the register a value gives: none is all ones (R146). -/
def meetNum (m : Option Nat) : Nat := m.getD (2 ^ 56 - 1)

/-- The group after setmt: each active lane's pair takes the old meeting address and its meeting register the new one
(R153). -/
def meets (r : Run) (s t : State) (a : BitVec 8) (new : Nat → Option Nat) : Prop :=
  ∃ g, passed r s t g ∧ sameRest r.g g ∧
    (∀ l, g.thread l = if l ∈ r.act then { r.g.thread l with meet := new l } else r.g.thread l) ∧
    Regs.same (regsOf g) ((old r).putV r.act a.toNat 2 fun l => .ok (meetNum (r.g.thread l).meet))

/-- The records of brx: the active lanes in order, each at the next of the free places of spawn memory (R157). -/
def exiled (r : Run) (x : Imm) : List SpawnRec :=
  let free := (List.range r.t.hdr.records).filter fun n => !(r.t.spawn.any fun c => c.at_ == n)
  r.act.mapIdx fun i l =>
    { at_ := free.getD i 0, target := tailTarget r x.imm, vals := (List.range r.t.hdr.live).map fun n => r.g.getV n l }

/-! ## Handles (R160 to R163) -/

/-- The entry that a handle value names: none where its operation is over and the entry has another sequence number. -/
def entryOf (r : Run) (h : Nat) : Option HandleEnt :=
  (mfind (bits h 37 32) r.t.handles).filter fun e => e.seq == h % 2 ^ 32

/-- Is a value no handle (R162)? -/
def noHandle (h : Nat) : Bool := bits h 63 60 == 0 || decide (5 ≤ bits h 63 60) || bits h 59 38 != 0

/-- What hwait, htest and hcancel do alike: a poisoned operand is passed on, a value that is no handle is Fault(0x0D), and
a stale handle gives the status 4 (R162). -/
def handleFront (i : One → Instr) : Prop :=
  ∀ (x : One) (s : State) (r : Run), issueOf (i x) s = some r →
    (∀ tok, r.g.getS x.b.toNat = .bad tok →
      ∃ t, exec (i x) s = .next t ∧ wrote r s t ((old r).putS x.a.toNat (.bad tok))) ∧
    (∀ v, r.g.getS x.b.toNat = .ok v → noHandle v.toNat = true → exec (i x) s = .next (r.fault 0x0D)) ∧
    (∀ v, r.g.getS x.b.toNat = .ok v → noHandle v.toNat = false → entryOf r v.toNat = none →
      ∃ t, exec (i x) s = .next t ∧ wrote r s t ((old r).putS x.a.toNat (.ok 4)))

/-- R148, R150: bra sends the active lanes to PC + offset and the others past it, and with .uni records a divergence in
%gstat.UNIF, or raises 0x0F where UNIFEN asks for it. -/
def branches : Prop :=
  ∀ (x : Imm) (s : State) (r : Run), issueOf (.bra x) s = some r →
    let parts := bitB x.a.toNat 0 && !r.act.isEmpty && decide (r.act.length < r.lanes.length)
    ((parts && r.g.gstat.getLsbD 1) = false →
      ∃ t, exec (.bra x) s = .next t ∧
        sent r s t (if parts then { r.g with gstat := r.g.gstat ||| 0x100 } else r.g) (goes r (allTo r (tailTarget r x.imm)))) ∧
    ((parts && r.g.gstat.getLsbD 1) = true → exec (.bra x) s = .next (r.fault 0x0F))

/-- R27, R151, R152: bri, ret, ujmp and uret send the threads to the addresses their registers hold; a poisoned register is
raised and a target with bits 1:0 not zero is Fault(0x04) at the transferring instruction. -/
def registerTransfers : Prop :=
  indirectJump .bri ∧ indirectJump .ret ∧ registerJump .ujmp ∧ registerJump .uret

/-- R151, R152: ubra, call and ucall: the path goes to PC + offset, a call having written PC + 8 to each active lane's pair
or to S[A]. -/
def callsAndUniformBranches : Prop :=
  (∀ (x : Imm) (s : State) (r : Run), issueOf (.ubra x) s = some r →
    ∃ t, exec (.ubra x) s = .next t ∧ jumped r s t (old r) (goes r (allTo r (tailTarget r x.imm)))) ∧
  (∀ (x : Imm) (s : State) (r : Run), issueOf (.call x) s = some r →
    ∃ t, exec (.call x) s = .next t ∧
      jumped r s t ((old r).putV r.act x.a.toNat 2 fun _ => .ok ((r.pc + 8) % 2 ^ 56)) (goes r (allTo r (tailTarget r x.imm)))) ∧
  (∀ (x : Imm) (s : State) (r : Run), issueOf (.ucall x) s = some r →
    ∃ t, exec (.ucall x) s = .next t ∧
      jumped r s t ((old r).putS x.a.toNat (.ok ((r.pc + 8) % 2 ^ 56))) (goes r (allTo r (tailTarget r x.imm))))

/-- R153: setmt gives each active lane its old meeting address and sets the new one, which is an instruction address or
none. -/
def meetingPoints : Prop :=
  (∀ (x : Imm) (s : State) (r : Run), issueOf (.setmt x) s = some r →
    ∃ t, exec (.setmt x) s = .next t ∧ meets r s t x.a fun _ => some (tailTarget r x.imm)) ∧
  (∀ (x : Imm) (s : State) (r : Run), issueOf (.setmtR x) s = some r →
    firstTok (r.act.map (pairTarget r x.b)) = none →
    (∀ l ∈ r.act, (pairTarget r x.b l).val % 4 = 0 ∨ (pairTarget r x.b l).val = 2 ^ 56 - 1) →
    ∃ t, exec (.setmtR x) s = .next t ∧ meets r s t x.a fun l =>
      if (pairTarget r x.b l).val = 2 ^ 56 - 1 then none else some (pairTarget r x.b l).val)

/-- R154, R255: exit ends the threads of Active(), and exit.u those of the path, the others passing it; where the matrix
thread has ended that way, its lease ends too; in a team that buffers its effects the path first commits. -/
def exits : Prop :=
  (∀ (x : One) (s : State) (r : Run), issueOf (.exit x) s = some r → (commitsFirst r && !r.act.isEmpty) = false →
    ∃ u t, exec (.exit x) s = .next t ∧ t = leaseEnds u r.tid r.gnum ∧
      passed { r with lanes := r.lanes.filter fun l => !r.act.contains l } s u
        { (r.g.endThreads r.act) with
          partly := r.g.partly || ((r.t.paired || r.t.contained) && !(r.lanes.filter fun l => !r.act.contains l).isEmpty) } ∧
      ∀ l ∈ r.act, ((groupAt t r.tid r.gnum).thread l).exited = true) ∧
  (∀ (x : One) (s : State) (r : Run), issueOf (.exitU x) s = some r → commitsFirst r = false →
    ∃ u t, exec (.exitU x) s = .next t ∧ t = leaseEnds u r.tid r.gnum ∧
      passed { r with lanes := [] } s u (r.g.endThreads r.lanes) ∧
      ∀ l ∈ r.lanes, ((groupAt t r.tid r.gnum).thread l).exited = true) ∧
  (∀ (x : One) (s : State) (r : Run), issueOf (.exit x) s = some r → (commitsFirst r && !r.act.isEmpty) = true →
    ∃ t, exec (.exit x) s = .next t ∧ waits r s t (.twin 2))

/-- R154: nop, nop.u and yld change nothing but that their path passes them. -/
def noOperations : Prop :=
  (∀ x, writesRegs (.nop x) old) ∧ (∀ x, writesRegs (.nopU x) old) ∧ (∀ x, writesRegs (.yld x) old)

/-- R155: loop with a count of 0 goes behind the body; otherwise every thread of the path gets an entry with the start,
the last word and the count, and goes to the start; a fifth entry is Fault(0x08). -/
def hardwareLoops : Prop :=
  ∀ (x : Imm) (s : State) (r : Run) (v : DWord), issueOf (.loop x) s = some r → r.g.getS x.b.toNat = .ok v →
    let n := v.toNat % 2 ^ 32
    let start := (r.pc + 8) % 2 ^ 56
    (n = 0 → ∃ t, exec (.loop x) s = .next t ∧
      jumped r s t (old r) (r.lanes.map fun l => (l, (tailTarget r x.imm + 4) % 2 ^ 56))) ∧
    (n ≠ 0 → (∀ l ∈ r.lanes, (r.g.thread l).loops.length < 4) →
      ∃ t, exec (.loop x) s = .next t ∧ jumped r s t (old r) (r.lanes.map fun l => (l, start)) ∧
        ((∀ l, (r.g.thread l).meet = none) → ∀ l ∈ r.lanes, ((groupAt t r.tid r.gnum).thread l).loops =
          { start := start, last := tailTarget r x.imm, rem := n } :: (r.g.thread l).loops)) ∧
    (n ≠ 0 → (∃ l ∈ r.lanes, 4 ≤ (r.g.thread l).loops.length) → exec (.loop x) s = .next (r.fault 8))

/-- R157: brx with room for its lanes puts a record per active lane, in lane order, with the values of the first `live`
registers, into spawn memory, also where it stands in the save area (Table 19.6), and ends those threads; without room it
sets %gstat.FALL and branches. That each takes the lowest free place is the model's choice (log 18). -/
def exileBranches : Prop :=
  ∀ (x : Imm) (s : State) (r : Run), issueOf (.brx x) s = some r → r.act.isEmpty = false →
    r.t.hdr.live ≤ r.t.vBudget r.g.role → r.t.hdr.live ≤ r.t.hdr.vecRegs →
    let full := r.t.hdr.records == 0 || r.t.hdr.satellites == 0 || decide (r.t.hdr.records - r.t.spawn.length < r.act.length)
    (full = true → ∃ t, exec (.brx x) s = .next t ∧
      sent r s t { r.g with gstat := r.g.gstat ||| 0x200 } (goes r (allTo r (tailTarget r x.imm)))) ∧
    (full = false → commitsFirst r = false → ∃ t, exec (.brx x) s = .next t ∧
      passed { r with lanes := r.lanes.filter fun l => !r.act.contains l }
        ((exiled r x).foldl (fun u c => (hwWrite u (coreMaster r.t.core) (r.t.spawnPa c) c.bytes).1)
          (modTeam s r.tid fun k => { k with spawn := k.spawn ++ exiled r x })) t
        (r.g.endThreads r.act))

end Sys2Proof.Claims

namespace Sys2Proof.Claims

open Sys2Proof Sys2Proof.Machine Sys2Proof.Safety

/-! ## Memory (11_memory.md) and scratch (10_local.md) -/

/-- Bytes of the width of an access, and the v-registers of its value. -/
abbrev bytesOf (x : Mem) : Nat := widthBytes x.wid
def regsOfBytes (n : Nat) : Nat := (n + 3) / 4

/-- Does an access of the order acquire, does it release (Table 1.6)? -/
def acquiring (o : MemOrd) : Bool := o == .acq || o == .ar
def releasingOrd (o : MemOrd) : Bool := o == .rel || o == .ar

/-- Is a scope core or wider? -/
def wideScope (c : Scope) : Bool := c != .grp && c != .team

/-- The effective address of a lane, and of a U-word: base plus offset, modulo 2^56; poisoned by either (R207). -/
def laneEa (r : Run) (x : Mem) (l : Nat) : PV Nat := r.ea x.b x.c (bytesOf x) l
def uniEa (r : Run) (x : Mem) : PV Nat := r.uea x.b x.c (bytesOf x)

/-- A loaded value: b8 and b16 zero-extended, s8 and s16 sign-extended to the destination's width (R208). -/
def extended (x : Mem) (dst : Nat) (bs : List Byte) : Nat :=
  match x.wid with
  | .s8 => signExt 8 dst (ofBytes bs)
  | .s16 => signExt 16 dst (ofBytes bs)
  | _ => ofBytes bs

/-- What the lanes of an ld take, performed in lane order from a state: a poisoned address passes on; under .spec an access
that fails, or meets a device page or memory poison, gives its token; none where a target reports an error that is no
token (R208). -/
def laneLoads (r : Run) (x : Mem) : List Nat → State → Option (State × List (Nat × PV Nat))
  | [], s => some (s, [])
  | l :: ls, s =>
    let also := fun (u : State) (v : PV Nat) => (laneLoads r x ls u).map fun o => (o.1, (l, v) :: o.2)
    let token := fun (c : Nat) => PV.bad (mkToken c l false false r.pc)
    match laneEa r x l with
    | .bad t => also s (.bad t)
    | .ok va =>
      let c := checkAccess s r.who va (bytesOf x) .read
      match if x.spec then specCode c else none with
      | some k => also (noteDenial s r.who va c) (token k)
      | none =>
        match readVa s (r.whoLane l) va (bytesOf x) .read x.hint with
        | (u, .bytes bs) => also u (.ok (extended x 32 (r.overlay [l] va bs)))
        | (u, .report c) => if x.spec then also u (token c) else none

/-- No lane of an access fails a check or must wait (R207). -/
def allPass (s : State) (who : Who) (vas : List Nat) (n : Nat) (k : Kind) : Prop :=
  ∀ va ∈ vas, ∃ p, checkAccess s who va n k = .ok p

/-- The state in which a path that performs a release stands: at a scope of core or wider its team's stash has been written
back and the earlier writes of its threads have been performed; at a narrower one a wider release of the team covers them
(R186, R203, R204). -/
def released (r q : Run) (o : MemOrd) (c : Scope) : Prop :=
  if !releasingOrd o then q = r
  else if wideScope c then ∃ q', r.writeBack (fun _ => true) = (q', none) ∧ q = { q' with s := release q'.s q'.who c }
  else q = { r with s := release r.s r.who c }

/-- The same for an atomic: a compare-and-swap that fails in every lane has no release (R210). -/
def releasedAtom (r q : Run) (x : Mem) (as : List AtomArg) : Prop :=
  if srcNum x.e == 9 && releasingOrd x.ord && r.casFails (bytesOf x) as (r.atomBacks (bytesOf x) as r.s).1 then q = r
  else released r q x.ord x.scope

/-- The state in which the lanes of an atomic are performed: acquired where its order says so, with the dirty bytes of the
stash lines it touches written back (R184, R187, R204). -/
def readyAtom (r q : Run) (x : Mem) (as : List AtomArg) (t : State) : Prop :=
  q.atomBacks (bytesOf x) as (if acquiring x.ord then acquire q.s r.who x.scope else q.s) = (t, none)

/-- The addresses and bytes of the active lanes of an st (R209). -/
def laneStores (r : Run) (x : Mem) : List (Nat × Nat × List Byte) :=
  r.act.map fun l => (l, (laneEa r x l).val, toBytes (bytesOf x) (r.g.readV x.a.toNat l (regsOfBytes (bytesOf x))).val)

/-- Stores performed in order; a report of a target goes to the group. -/
def doStores (r : Run) (who : Nat → Who) (x : Mem) (as : List (Nat × Nat × List Byte)) (s : State) : State :=
  as.foldl (fun u a =>
    match writeVa u (who a.1) a.2.1 a.2.2 x.hint with
    | (t, c) => if c = 0 then t else addReport t r.tid r.gnum c) s

/-- The place of an address is normal memory at a physical address that the targets let the path's core access. -/
def plainPlace (s : State) (who : Who) (va n pa : Nat) (k : Kind) : Prop :=
  checkAccess s who va n k = .ok (.normal pa) ∧ inHbm pa = true ∧ inHbm (pa + n) = true ∧
  lineAllows (noteTranslation s who va (.ok (.normal pa))) who.master who.cid pa k.access = true

/-- No snoop to a core and no write-back from it is on its way for the line of an address. -/
def quietLine (s : State) (core pa : Nat) : Prop :=
  (∀ n ∈ s.snoops, n.2.stash = true ∨ n.2.who ≠ core ∨ n.2.pa / 128 ≠ pa / 128) ∧
  ∀ q ∈ s.requests, q.2.isRead = true ∨ q.2.core ≠ core ∨ q.2.pa / 128 ≠ pa / 128

/-- A scratch byte of a team. -/
def scratchByte (s : State) (tid off : Nat) : Byte := mget 0 off (teamOf s tid).scratch

/-- Bytes of a scratch access, and the address of a lane (Table 10.3, R181). -/
def scratchWidth (x : Std) : Nat := if x.f = 1 then 16 else x.ty.bits / 8
def scratchEa (r : Run) (x : Std) (n l : Nat) : PV Nat := r.ea x.b x.c n l

/-- Where a scratch address of a path lies: the team and the offset, after the checks of R179 and R181. -/
def inScratch (s : State) (who : Who) (va n tid off : Nat) : Prop :=
  isLocal va = true ∧ checkLocal s who.team who.cid who.icn va n true = .ok (.scratch tid off)

/-- What a scratch access of an address that has passed its checks reads: the bytes, none where it meets an error or a denial
(R178, R182). -/
def scratchGot (s : State) (who : Who) (va n : Nat) : Option (List Byte) :=
  match checkLocal s who.team who.cid who.icn va n true with
  | .ok (.scratch k o) =>
    match (readScratch s who k o n).2 with
    | .bytes bs => some bs
    | .report _ => none
  | _ => none

/-- The first deferred code that a fence takes: none are recorded (R212). -/
def noDeferred (r : Run) : Prop := ((collectReports r.s r.tid r.gnum) |> r.groupIn).deferredFirst = none

/-- The order of a fence: 00 stands for .sc, which acquires and releases (R199). -/
def fenceOrds (o : MemOrd) : Bool × Bool := (o != .acq, o != .rel)

/-- R207, R208: ld and sld whose lanes pass their checks load every lane in order and extend by the width; no other
register and no flag changes. -/
def loadsComplete : Prop :=
  (∀ (x : Mem) (s t : State) (r : Run) (vs : List (Nat × PV Nat)), issueOf (.ld x) s = some r →
    (x.spec = false → ∀ l ∈ r.act, ∀ va, laneEa r x l = .ok va → ∃ p, checkAccess s r.who va (bytesOf x) .read = .ok p) →
    (x.spec = true → ∀ l ∈ r.act, ∀ va, laneEa r x l = .ok va → ∀ q, checkAccess s r.who va (bytesOf x) .read ≠ .wait q) →
    laneLoads r x r.act (if !r.act.isEmpty && acquiring x.ord then acquire s r.who x.scope else s) = some (t, vs) →
    ∃ u, exec (.ld x) s = .next u ∧
      wrote r t u ((old r).putV r.act x.a.toNat (regsOfBytes (bytesOf x)) fun l => (mfind l vs).getD (.ok 0))) ∧
  (∀ (x : Mem) (s t : State) (r : Run) (va : Nat) (bs : List Byte), issueOf (.sld x) s = some r →
    uniEa r x = .ok va → (∃ p, checkAccess s r.who va (bytesOf x) .read = .ok p) →
    (x.spec = true → specCode (checkAccess s r.who va (bytesOf x) .read) = none) →
    readVa (if acquiring x.ord then acquire s r.who x.scope else s) r.who va (bytesOf x) .read x.hint = (t, .bytes bs) →
    ∃ u, exec (.sld x) s = .next u ∧
      wrote r t u ((old r).putS x.a.toNat (.ok (extended x 64 (r.overlay r.lanes va bs))))) ∧
  (∀ (x : Mem) (s : State) (r : Run) (tok : Word), issueOf (.sld x) s = some r → uniEa r x = .bad tok →
    ∃ u, exec (.sld x) s = .next u ∧ wrote r s u ((old r).putS x.a.toNat (.bad tok)))

/-- R192, R194, R208: a plain ld of one lane from normal memory takes the bytes that its core sees there once it has passed,
lowest address lowest; and where no snoop and no write-back of the line is on its way, the bytes that every core sees are
as before, and no byte of memory, of scratch or of a surface changes. -/
def loadFromNormalMemory : Prop :=
  ∀ (x : Mem) (s : State) (r : Run) (l va pa : Nat), issueOf (.ld x) s = some r → r.act = [l] → x.ord = .plain →
    r.t.paired = false → r.t.contained = false → laneEa r x l = .ok va → plainPlace s r.who va (bytesOf x) pa .read →
    (∀ a, pa ≤ a → a < pa + bytesOf x → isMarked s a = false) →
    ∃ u, exec (.ld x) s = .next u ∧
      (∀ n k, k < 32 → (regsOf (groupAt u r.tid r.gnum)).v n k =
        ((old r).putV [l] x.a.toNat (regsOfBytes (bytesOf x)) fun _ =>
          .ok (extended x 32 ((range' pa (bytesOf x)).map (coreByte u r.t.core)))).v n k) ∧
      (quietLine s r.t.core pa → u.mem = s.mem ∧ u.surf = s.surf ∧ (∀ k o, scratchByte u k o = scratchByte s k o) ∧
        ∀ c a, a < 2 ^ 52 → coreByte u c a = coreByte s c a)

/-- R207, R209: st and sst whose lanes pass their checks perform the release of their order and then store every lane in
order, and write no register; a team that buffers its effects is not meant here. -/
def storesComplete : Prop :=
  (∀ (x : Mem) (s : State) (r q : Run), issueOf (.st x) s = some r → r.act.isEmpty = false →
    r.t.paired = false → r.t.contained = false →
    (∀ l ∈ r.act, firstTok [laneEa r x l, r.g.readV x.a.toNat l (regsOfBytes (bytesOf x))] = none) →
    allPass s r.who ((laneStores r x).map fun a => a.2.1) (bytesOf x) .write → released r q x.ord x.scope →
    ∃ u, exec (.st x) s = .next u ∧ wrote r (doStores q r.whoLane x (laneStores r x) q.s) u (old r)) ∧
  (∀ (x : Mem) (s : State) (r q : Run), issueOf (.sst x) s = some r → r.t.paired = false → r.t.contained = false →
    firstTok [uniEa r x, r.g.readS x.a.toNat 64] = none →
    allPass s r.who [(uniEa r x).val] (bytesOf x) .write → released r q x.ord x.scope →
    ∃ u, exec (.sst x) s = .next u ∧
      wrote r (doStores q (fun _ => r.who) x [(0, (uniEa r x).val, toBytes (bytesOf x) (r.g.readS x.a.toNat 64).val)] q.s) u
        (old r)) ∧
  (∀ (x : Mem) (s : State) (r : Run), issueOf (.st x) s = some r → r.act.isEmpty = true →
    ∃ u, exec (.st x) s = .next u ∧ wrote r s u (old r)) ∧
  (∀ (x : Mem) (s : State) (r : Run) (tok : Word), issueOf (.st x) s = some r →
    (r.act.findSome? fun l => firstTok [laneEa r x l, r.g.readV x.a.toNat l (regsOfBytes (bytesOf x))]) = some tok →
    exec (.st x) s = .next (r.raise tok)) ∧
  (∀ (x : Mem) (s : State) (r : Run) (tok : Word), issueOf (.sst x) s = some r →
    firstTok [uniEa r x, r.g.readS x.a.toNat 64] = some tok → exec (.sst x) s = .next (r.raise tok))

/-- R192, R209: after a plain st of one lane to normal memory the core it stands on reads the stored bytes, and every other byte as
before; no other core sees a change yet, and no register, no byte of scratch and no surface changes. -/
def storeToNormalMemory : Prop :=
  ∀ (x : Mem) (s : State) (r : Run) (l va pa d : Nat), issueOf (.st x) s = some r → r.act = [l] → x.ord = .plain →
    x.hint ≠ .nl1 → r.t.core < Config.cores → r.t.paired = false → r.t.contained = false → laneEa r x l = .ok va →
    r.g.readV x.a.toNat l (regsOfBytes (bytesOf x)) = .ok d → plainPlace s r.who va (bytesOf x) pa .write →
    ∃ u, exec (.st x) s = .next u ∧
      (∀ a, a < 2 ^ 52 → coreByte u r.t.core a =
        if pa ≤ a ∧ a < pa + bytesOf x then BitVec.ofNat 8 (d / 256 ^ (a - pa)) else coreByte s r.t.core a) ∧
      (∀ c a, a < 2 ^ 52 → c ≠ r.t.core → coreByte u c a = coreByte s c a) ∧
      u.mem = s.mem ∧ u.surf = s.surf ∧ (∀ k o, scratchByte u k o = scratchByte s k o) ∧
      Regs.same (regsOf (groupAt u r.tid r.gnum)) (old r)

/-- R210: atom, satom and red whose lanes pass their checks write back the stash lines they touch, then perform one
read-modify-write per lane in lane order; atom and satom write the old values and their flags, red writes no register and
no flag. -/
def atomicsComplete : Prop :=
  (∀ (x : Mem) (s t q' : State) (r q : Run) (g : Group), issueOf (.atom x) s = some r → r.act.isEmpty = false →
    r.t.paired = false →
    let k := regsOfBytes (bytesOf x)
    let cmp := fun (l : Nat) => if srcNum x.e = 9 then r.g.readV (x.a.toNat + k) l k else .ok 0
    (∀ l ∈ r.act, firstTok [laneEa r x l, r.g.readV x.a.toNat l k, cmp l] = none) →
    let as : List AtomArg := r.act.map fun l =>
      { lane := l, va := (laneEa r x l).val, val := (r.g.readV x.a.toNat l k).val, cmp := (cmp l).val }
    allPass s r.who (as.map AtomArg.va) (bytesOf x) .atomic → releasedAtom r q x as → readyAtom r q x as q' →
    q.atomLanes (srcNum x.e) (bytesOf x) false (fun g l old f => (g.writeV x.a.toNat l k (.ok old)).orFlags f)
      as q' q.g none = (t, g, none) →
    ∃ u, exec (.atom x) s = .next u ∧ passed r t u g ∧
      (∀ n l, l < 32 → ¬(l ∈ r.act ∧ x.a.toNat ≤ n ∧ n < x.a.toNat + k) →
        (regsOf (groupAt u r.tid r.gnum)).v n l = (old r).v n l)) ∧
  (∀ (x : Mem) (s t q' : State) (r q : Run) (g : Group), issueOf (.satom x) s = some r → r.t.paired = false →
    let cmp := if srcNum x.e = 9 then r.g.readS (x.a.toNat + 1) (8 * bytesOf x) else .ok 0
    firstTok [uniEa r x, r.g.readS x.a.toNat (8 * bytesOf x), cmp] = none →
    let as : List AtomArg :=
      [{ lane := 0, va := (uniEa r x).val, val := (r.g.readS x.a.toNat (8 * bytesOf x)).val, cmp := cmp.val }]
    allPass s r.who [(uniEa r x).val] (bytesOf x) .atomic → releasedAtom r q x as → readyAtom r q x as q' →
    q.atomLanes (srcNum x.e) (bytesOf x) false (fun g _ old f => (g.writeS x.a.toNat (.ok old)).orFlags f)
      as q' q.g none = (t, g, none) →
    ∃ u, exec (.satom x) s = .next u ∧ passed r t u g ∧
      (∀ n, n ≠ x.a.toNat → (regsOf (groupAt u r.tid r.gnum)).s n = (old r).s n)) ∧
  (∀ (x : Mem) (s t q' : State) (r q : Run) (g : Group), issueOf (.red x) s = some r → r.act.isEmpty = false →
    r.t.paired = false → r.t.contained = false →
    let k := regsOfBytes (bytesOf x)
    (∀ l ∈ r.act, firstTok [laneEa r x l, r.g.readV x.a.toNat l k] = none) →
    let as : List AtomArg := r.act.map fun l =>
      { lane := l, va := (laneEa r x l).val, val := (r.g.readV x.a.toNat l k).val, cmp := 0 }
    allPass s r.who (as.map AtomArg.va) (bytesOf x) .atomic → releasedAtom r q x as → readyAtom r q x as q' →
    q.atomLanes (srcNum x.e) (bytesOf x) true (fun g _ _ _ => g) as q' q.g none = (t, g, none) →
    ∃ u, exec (.red x) s = .next u ∧ wrote r t u (old r)) ∧
  (∀ (x : Mem) (s : State) (r : Run), issueOf (.atom x) s = some r → r.act.isEmpty = false → r.t.paired = true →
    exec (.atom x) s = .next (r.fault 0x16)) ∧
  (∀ (x : Mem) (s : State) (r : Run), issueOf (.satom x) s = some r → r.t.paired = true →
    exec (.satom x) s = .next (r.fault 0x16))

/-- R210, Table 11.12: the new value of each atomic operation, in bytes of its width; a compare-and-swap that fails writes
nothing, and fadd sets its flags. -/
def atomicOperations : Prop :=
  ∀ (n old v c : Nat), (n = 4 ∨ n = 8) → old < 2 ^ (8 * n) → v < 2 ^ (8 * n) →
    (atomicOf 0 n old v c).1 = some ((old + v) % 2 ^ (8 * n)) ∧
    (∀ m, (atomicOf 1 n old v c).1 = some m → toSigned (8 * n) m = min (toSigned (8 * n) old) (toSigned (8 * n) v)) ∧
    (atomicOf 2 n old v c).1 = some (min old v) ∧
    (∀ m, (atomicOf 3 n old v c).1 = some m → toSigned (8 * n) m = max (toSigned (8 * n) old) (toSigned (8 * n) v)) ∧
    (atomicOf 4 n old v c).1 = some (max old v) ∧
    (atomicOf 5 n old v c).1 = some (old &&& v) ∧ (atomicOf 6 n old v c).1 = some (old ||| v) ∧
    (atomicOf 7 n old v c).1 = some (old ^^^ v) ∧ (atomicOf 8 n old v c).1 = some v ∧
    (atomicOf 9 n old v c).1 = (if old = c then some v else none)

/-- R181, R182: ldl and ldl.x4 take the scratch bytes at each lane's address, extended by the type; ldl.addr the address
with the team made explicit; stl stores every lane in order, and atml performs every lane; no other register changes, and
no byte of memory, except in the save area of a saved team. -/
def scratchInstructions : Prop :=
  (∀ (x : Std) (s : State) (r : Run), issueOf (.ldl x) s = some r →
    (∀ l ∈ r.act, ∀ va, scratchEa r x (scratchWidth x) l = .ok va →
      isLocal va = true ∧ (scratchGot s r.who va (scratchWidth x)).isSome = true) →
    ∃ t, exec (.ldl x) s = .next t ∧
      wrote r s t ((old r).putV r.act x.a.toNat (regsOfBytes (scratchWidth x)) fun l =>
        (scratchEa r x (scratchWidth x) l).map fun va =>
          let v := ofBytes ((scratchGot s r.who va (scratchWidth x)).getD [])
          if x.ty == .i8 || x.ty == .i16 then signExt x.ty.bits 32 v else v)) ∧
  (∀ (x : Std) (s : State) (r : Run), issueOf (.ldlAddr x) s = some r →
    (∀ l ∈ r.act, ∀ va, scratchEa r x 8 l = .ok va →
      isLocal va = true ∧ ∃ k o, checkLocal s r.who.team r.who.cid r.who.icn va 1 false = .ok (.scratch k o)) →
    ∃ t, exec (.ldlAddr x) s = .next t ∧
      wrote r s t ((old r).putV r.act x.a.toNat 2 fun l => (scratchEa r x 8 l).map fun va =>
        if bits va 49 20 = 0 then setBits va 49 20 (r.t.bind.save % 2 ^ 30) else va)) ∧
  (∀ (x : Std) (s : State) (r : Run), issueOf (.stl x) s = some r →
    (∀ l ∈ r.act, firstTok [scratchEa r x (scratchWidth x) l, r.g.readV x.a.toNat l (regsOfBytes (scratchWidth x))] = none) →
    (∀ l ∈ r.act, ∃ k o, inScratch s r.who (scratchEa r x (scratchWidth x) l).val (scratchWidth x) k o) →
    ∃ t, exec (.stl x) s = .next t ∧
      wrote r (r.act.foldl (fun u l => r.putScratch u (scratchEa r x (scratchWidth x) l).val
        (toBytes (scratchWidth x) (r.g.readV x.a.toNat l (regsOfBytes (scratchWidth x))).val)) s) t (old r) ∧
      ((∀ k, (teamOf s k).loc ≠ .saved) → t.mem = s.mem)) ∧
  (∀ (x : Std) (s : State) (r : Run), issueOf (.atml x) s = some r → r.act.isEmpty = false → r.t.paired = false →
    (∀ l ∈ r.act, firstTok [scratchEa r x (x.ty.bits / 8) l, r.g.operand x.e x.ty.bits l,
      if x.f = 7 then r.g.readV x.a.toNat l x.ty.regs else .ok 0] = none) →
    (∀ l ∈ r.act, isLocal (scratchEa r x (x.ty.bits / 8) l).val = true ∧
      (scratchGot s r.who (scratchEa r x (x.ty.bits / 8) l).val (x.ty.bits / 8)).isSome = true) →
    ∃ t u g, exec (.atml x) s = .next t ∧
      (u, g) = r.atmlLanes x (fun l => (scratchEa r x (x.ty.bits / 8) l).val) r.act s r.g ∧ passed r u t g ∧
      ((∀ k, (teamOf s k).loc ≠ .saved) → t.mem = s.mem) ∧
      (∀ n l, l < 32 → ¬(l ∈ r.act ∧ x.a.toNat ≤ n ∧ n < x.a.toNat + x.ty.regs) →
        (regsOf (groupAt t r.tid r.gnum)).v n l = (old r).v n l)) ∧
  (∀ (x : Std) (s : State) (r : Run), issueOf (.atml x) s = some r → r.act.isEmpty = false → r.t.paired = true →
    exec (.atml x) s = .next (r.fault 0x16))

/-- R178, R181, R182: scratch of a team reads as its bytes where no error stands there, and of a saved team as its save
area holds them; an stl of one lane leaves in scratch the stored bytes at its address and every other byte of every team
as it was; and an atml of one lane gives the lane the old value and leaves the new one. -/
def scratchStores : Prop :=
  (∀ (s : State) (who : Who) (k o n : Nat), (mfind k s.teams).isSome = true → (teamOf s k).loc ≠ .saved →
    scratchFlawed s k o n = false → readScratch s who k o n = (s, .bytes ((range' o n).map (scratchByte s k)))) ∧
  (∀ (s : State) (who : Who) (k o n : Nat), (mfind k s.teams).isSome = true → (teamOf s k).loc = .saved →
    isMarked s ((teamOf s k).scratchPa o) = false → inHbm ((teamOf s k).scratchPa o) = true →
    lineAllows s who.master 0 ((teamOf s k).scratchPa o) .read = true →
    readScratch s who k o n = (s, .bytes (physBytes s ((teamOf s k).scratchPa o) n))) ∧
  (∀ (x : Std) (s : State) (r : Run) (l va d k o : Nat), issueOf (.stl x) s = some r → r.act = [l] →
    scratchEa r x (scratchWidth x) l = .ok va → r.g.readV x.a.toNat l (regsOfBytes (scratchWidth x)) = .ok d →
    inScratch s r.who va (scratchWidth x) k o → (teamOf s k).loc ≠ .saved →
    ∃ t, exec (.stl x) s = .next t ∧ ∀ j a, scratchByte t j a =
      if j = k ∧ o ≤ a ∧ a < o + scratchWidth x ∧ (mfind k s.teams).isSome then BitVec.ofNat 8 (d / 256 ^ (a - o))
      else scratchByte s j a) ∧
  (∀ (x : Std) (s : State) (r : Run) (l va e k o n : Nat), issueOf (.atml x) s = some r → r.act = [l] →
    r.t.paired = false → x.f.toNat < 7 → n = x.ty.bits / 8 → scratchEa r x n l = .ok va → r.g.operand x.e x.ty.bits l = .ok e →
    inScratch s r.who va n k o → (mfind k s.teams).isSome → (teamOf s k).loc ≠ .saved → scratchFlawed s k o n = false →
    let was := ofBytes ((range' o n).map (scratchByte s k))
    ∀ new, (atomicOf (atmlOp x.f.toNat (signedTy x.ty)) n was e 0).1 = some new →
    ∃ t, exec (.atml x) s = .next t ∧
      (∀ m, m < x.ty.regs → (regsOf (groupAt t r.tid r.gnum)).v (x.a.toNat + m) l = wordOf (.ok was) m) ∧
      ∀ j a, scratchByte t j a =
        if j = k ∧ o ≤ a ∧ a < o + n then BitVec.ofNat 8 (new / 256 ^ (a - o)) else scratchByte s j a)

/-- R354, R356: a plain st of one lane to normal memory in a team that buffers its effects changes no byte of memory or of a
first-level cache: its bytes become an item behind those that the team holds; an item that does not fit waits for a commit,
and is not there. -/
def bufferedStores : Prop :=
  ∀ (x : Mem) (s : State) (r : Run) (l va pa d : Nat), issueOf (.st x) s = some r → r.act = [l] → x.ord = .plain →
    r.t.buffers = true → laneEa r x l = .ok va → r.g.readV x.a.toNat l (regsOfBytes (bytesOf x)) = .ok d →
    checkAccess s r.who va (bytesOf x) .write = .ok (.normal pa) →
    (r.t.overflows [bytesOf x] = true → exec (.st x) s = .next (r.waitIn s (.twin 0))) ∧
    (r.t.overflows [bytesOf x] = false → ∃ u, exec (.st x) s = .next u ∧ u.mem = s.mem ∧ u.l1 = s.l1 ∧
      (teamOf u r.tid).items = r.t.items ++
        [{ group := r.gnum, thread := l, eff := .write va (toBytes (bytesOf x) d) .plain x.scope x.hint }] ∧
      Regs.same (regsOf (groupAt u r.tid r.gnum)) (old r))

end Sys2Proof.Claims

namespace Sys2Proof.Claims

open Sys2Proof Sys2Proof.Machine Sys2Proof.Safety

/-! ## Barriers and rings (09_barriers.md) -/

/-- The path has passed with registers as given, and its team has then changed by `f`; nothing else has. -/
def wroteTeam (r : Run) (s t : State) (regs : Regs) (f : Team → Team) : Prop :=
  ∃ u, wrote r s u regs ∧ t = modTeam u r.tid f

/-- The team with a barrier replaced. -/
def withBarrier (n : Nat) (b : Barrier) (k : Team) : Team := { k with barriers := mput n b k.barriers }

/-- A barrier after an arrival that brings `tx` bytes (R167). -/
def arrived (b : Barrier) (tx : Nat) : Barrier := { b with pending := b.pending - 1, tx := tx }

/-- The team after such an arrival: where it completes the phase, the PHASE advances, the counts start again and every
waiter is released with the status 0; each group's urgency ends (R142, R167). -/
def afterArrival (n : Nat) (b : Barrier) (k : Team) : Team :=
  if b.pending = 0 ∧ b.tx = 0 then
    let u := (withBarrier n { b with phase := (b.phase + 1) % 2 ^ 32, pending := b.count } (withBarrier n b k)).releaseWaiters n false
    { u with groups := u.groups.map fun g => (g.1, { g.2 with urgent := 0 }) }
  else withBarrier n b k

/-- The state after the release at team scope that an arrival and an rgadv make for their threads (R172). -/
def teamShared (r : Run) (s : State) : State := release s r.who .team

/-- The barrier an instruction names, below the declared count (R164, R169). -/
def names (r : Run) (x : Std) (n : Nat) : Prop := r.barrierNum x = .ok n ∧ n < r.t.hdr.barriers

/-- May the group arrive at or set up barriers (R166)? -/
def ordinary (r : Run) : Prop := r.g.satellite = false ∧ r.g.pixel = none

/-- The outstanding bytes after an arrival of barr or barw: the .tx form adds S[B] (R170). -/
def txAfter (x : Std) (b : Barrier) (v : Nat) : Nat := if x.f = 1 then (b.tx + v) % 2 ^ 32 else b.tx

/-- The arrival of an instruction is in order: the barrier is VALID with arrivals due, and its byte count, where it has
one, is below 2^32 (R170). -/
def arrivalOk (r : Run) (x : Std) (n v : Nat) : Prop :=
  names r x n ∧ ordinary r ∧ (r.t.barrier n).valid = true ∧ (r.t.barrier n).pending ≠ 0 ∧
  (if x.f = 1 then r.g.readS x.b.toNat 64 = .ok v ∧ v < 2 ^ 32 else True)

/-- Does a token still block at a barrier: VALID, the same EPOCH, the same PHASE (R170)? -/
def stillBlocks (b : Barrier) (tok : Nat) : Prop := b.valid = true ∧ b.epoch = tok / 2 ^ 32 % 256 ∧ b.phase = tok % 2 ^ 32

/-- The status a token takes that does not block: 1 after an invalidation (R170). -/
def waitStatus (b : Barrier) (tok : Nat) : Bool := !(b.valid && b.epoch == tok / 2 ^ 32 % 256)

/-- The stage an instruction names, and whether it is full (R171). -/
def stageOf (r : Run) (x : Std) (n k : Nat) (full : Bool) : Prop :=
  ∃ e ring, r.g.operand x.e 64 0 = .ok e ∧ n = srcNum x.c ∧ n < r.t.hdr.rings ∧ mfind n r.t.rings = some ring ∧ k = e % 16 ∧
    k < ring.depth ∧ full = bitB ring.full k

/-- A ring of the path's team. -/
def ringAt (r : Run) (n : Nat) : Ring := mget {} n r.t.rings

/-- .full, F bit 0 clear, asks for a full stage (R171). -/
def wantsFull (x : Std) : Bool := bitN x.f.toNat 0 == 0

/-! ## Stash windows (10_local.md) -/

/-- The descriptor's fields (Table 10.4). -/
def winLen (d : Nat) : Nat := d % 2 ^ 32
def winOff (d : Nat) : Nat := d / 2 ^ 32 % 2 ^ 20

/-- Do two ranges share an address? -/
def meet_ (a n b m : Nat) : Prop := a < b + m ∧ b < a + n

/-- The status that kmap gives (Tables 10.4, 10.6): 3 for a bad number, base or descriptor, 1 for a window in use, 2 for a
window that would overlap, else 0. -/
def mapStatus (t : Team) (n base d : Nat) : Nat → Prop
  | 0 => n < 16 ∧ mfind n t.windows = none ∧ base % 128 = 0 ∧ winLen d % 128 = 0 ∧ winLen d ≠ 0 ∧ winOff d % 128 = 0 ∧
      d / 2 ^ 62 % 4 ≠ 3 ∧ winOff d + winLen d ≤ t.hdr.stashBytes ∧ base + winLen d ≤ 15 * 2 ^ 52 ∧
      ∀ w ∈ t.windows, ¬meet_ base (winLen d) w.2.base w.2.len ∧ ¬meet_ (winOff d) (winLen d) w.2.soff w.2.len
  | 1 => n < 16 ∧ mfind n t.windows ≠ none
  | 2 => n < 16 ∧ mfind n t.windows = none ∧ base % 128 = 0 ∧ winLen d % 128 = 0 ∧ winLen d ≠ 0 ∧ winOff d % 128 = 0 ∧
      d / 2 ^ 62 % 4 ≠ 3 ∧ winOff d + winLen d ≤ t.hdr.stashBytes ∧ base + winLen d ≤ 15 * 2 ^ 52 ∧
      ∃ w ∈ t.windows, meet_ base (winLen d) w.2.base w.2.len ∨ meet_ (winOff d) (winLen d) w.2.soff w.2.len
  | _ => 16 ≤ n ∨ (mfind n t.windows = none ∧ (base % 128 ≠ 0 ∨ winLen d % 128 ≠ 0 ∨ winLen d = 0 ∨ winOff d % 128 ≠ 0 ∨
      d / 2 ^ 62 % 4 = 3 ∨ t.hdr.stashBytes < winOff d + winLen d ∨ 15 * 2 ^ 52 < base + winLen d))

/-- The team with the words and dirty bits of a stash range gone. -/
def emptied (off len : Nat) (k : Team) : Team :=
  let inside := fun (o : Nat) => off ≤ o && o < off + len
  { k with
    valid := k.valid.filter fun w => !inside (4 * w), dirty := k.dirty.filter fun o => !inside o
    stashPa := k.stashPa.filter fun l => !inside (128 * l.1) }

/-- kunmap, kwb and kinv: 3 for a number past 15, 4 for a window that is not live, nothing else changed (R191). -/
def windowFront (i : Std → Instr) : Prop :=
  (∀ (x : Std) (s : State) (r : Run) (n : Nat), issueOf (i x) s = some r → r.g.operand x.e 64 0 = .ok n → 16 ≤ n →
    ∃ t, exec (i x) s = .next t ∧ wrote r s t ((old r).putS x.a.toNat (.ok 3))) ∧
  (∀ (x : Std) (s : State) (r : Run) (n : Nat), issueOf (i x) s = some r → r.g.operand x.e 64 0 = .ok n → n < 16 →
    mfind n r.t.windows = none → ∃ t, exec (i x) s = .next t ∧ wrote r s t ((old r).putS x.a.toNat (.ok 4))) ∧
  (∀ (x : Std) (s : State) (r : Run) (tok : Word), issueOf (i x) s = some r → r.g.operand x.e 64 0 = .bad tok →
    exec (i x) s = .next (r.raise tok))

/-! ## Copies (13_copy.md) -/

/-- Room in the copy queue of the path's core: 64 entries, 16 of them for a group; a team that is saved has none there
(R226). -/
def copyHasRoom (r : Run) (s : State) : Prop :=
  let mine := s.copies.filter fun c => c.2.busy && (teamOf s c.2.team).core == r.t.core && (teamOf s c.2.team).onCore
  mine.length < 64 ∧ (mine.filter fun c => c.2.team == r.tid && c.2.group == r.gnum).length < 16

/-- Bytes of the destination, the source and the metadata of a lane (Tables 13.1, 13.2), 0 where there is none, and the
barrier form. -/
structure CopyForm where
  instr : Std → Instr
  kind : CopyKind
  dst : Std → Nat
  src : Std → Nat
  info : Std → Nat
  bar : Std → Bool

/-- cpl, cpz, cpx.expand and cpx.compact (R231, R232). -/
def copyForms : List CopyForm :=
  let width := fun (x : Std) => 4 * 2 ^ (x.f.toNat % 4)
  let info := fun (x : Std) => if x.ty.bits = 8 then 2 else 1
  [{ instr := .cpl, kind := .cpl, dst := width, src := width, info := fun _ => 0, bar := fun x => bitB x.f.toNat 2 },
   { instr := .cpz, kind := .cpz, dst := width, src := fun _ => 0, info := fun _ => 0, bar := fun x => bitB x.f.toNat 2 },
   { instr := .cpxExpand, kind := .expand, dst := fun _ => 16, src := fun _ => 8, info := info, bar := fun _ => false },
   { instr := .cpxCompact, kind := .compact, dst := fun _ => 8, src := fun _ => 16, info := info, bar := fun _ => false }]

/-- An address of a lane: bits 55:0 of a pair. -/
def pairVa (r : Run) (n l : Nat) : PV Nat := (r.g.readV n l 2).map (· % 2 ^ 56)

/-- The addresses of a lane with their sizes and kinds, destination, source, metadata (R227). -/
def copyAddrs (o : CopyForm) (r : Run) (x : Std) (l : Nat) : List (PV Nat × Nat × Kind) :=
  [(pairVa r x.a.toNat l, o.dst x, .write)] ++ (if o.src x = 0 then [] else [(pairVa r x.b.toNat l, o.src x, .read)]) ++
    (if o.info x = 0 then []
     else [(pairVa r (srcNum x.c) l, o.info x, if o.kind == .compact then .write else .read)])

/-- An address passes the checks of R227 for the copy engine: those of R207, and no device page. -/
def copyPasses (s : State) (who : Who) (va n : Nat) (k : Kind) : Prop :=
  ∃ p, checkAccess s who va n k = .ok p ∧ ∀ pa, p ≠ .device pa

/-- The entry at the next number: the operation, whose lanes join an entry that is already there. -/
def joined (s : State) (op : CopyOp) : CopyOp :=
  match mfind s.nextId s.copies with
  | some e => { e with lanes := e.lanes ++ op.lanes }
  | none => op

/-- A copy has been queued: one entry more, with the translations it used held; nothing else has changed. (The number it
takes is new; were it listed, the lanes would join the entry.) -/
def queued (s u : State) (op : CopyOp) : Prop :=
  ∃ tlb nonLeaf, u = { s with tlb := tlb, nonLeaf := nonLeaf, nextId := s.nextId + 1, copies := mput s.nextId (joined s op) s.copies }

/-- The handle entry that a new operation takes (R160): the lowest one never used; where all 64 have been used, one whose
operation is over and not FAULTED, and no such one was over before it. -/
def handleFor (r : Run) (e : Nat) : Prop :=
  (e < 64 ∧ mfind e r.t.handles = none ∧ ∀ i, i < e → mfind i r.t.handles ≠ none) ∨
  ((∀ i, i < 64 → mfind i r.t.handles ≠ none) ∧ r.t.freeHandle = some e)

/-- R166 to R170, R172: binit, barr, bwait, barw, binv and btest on the barrier they name: what the barrier becomes, what the
destination takes, who is released, and when the path waits; an arrival releases at team scope. -/
def barrierInstructions : Prop :=
  (∀ (x : Std) (s : State) (r : Run) (n c : Nat), issueOf (.binit x) s = some r → names r x n → ordinary r →
    r.g.readS x.b.toNat 64 = .ok c → 1 ≤ c → c < 4096 → (r.t.waiters n = [] ∨ x.f ≠ 0) →
    ∃ t, exec (.binit x) s = .next t ∧ wroteTeam r s t (old r) fun k =>
      (withBarrier n { phase := 0, epoch := ((r.t.barrier n).epoch + 1) % 256, valid := true, count := c, pending := c, tx := 0 }
        k).releaseWaiters n true) ∧
  (∀ (x : Std) (s : State) (r : Run) (n v : Nat), issueOf (.barr x) s = some r → arrivalOk r x n v →
    let b := r.t.barrier n
    ∃ t, exec (.barr x) s = .next t ∧
      wroteTeam r (teamShared r s) t ((old r).putS x.a.toNat (.ok (b.phase + b.epoch * 2 ^ 32))) (afterArrival n (arrived b (txAfter x b v)))) ∧
  (∀ (x : Std) (s : State) (r : Run) (n tok : Nat), issueOf (.bwait x) s = some r → names r x n →
    r.g.readS x.b.toNat 64 = .ok tok →
    (stillBlocks (r.t.barrier n) tok → ∃ t, exec (.bwait x) s = .next t ∧
      waits r s t (.barrier n (tok % 2 ^ 32) (tok / 2 ^ 32 % 256) x.a.toNat)) ∧
    (¬stillBlocks (r.t.barrier n) tok → ∃ t, exec (.bwait x) s = .next t ∧
      wrote r s t ((old r).putQ x.a.toNat (.ok (waitStatus (r.t.barrier n) tok))))) ∧
  (∀ (x : Std) (s : State) (r : Run) (n v : Nat), issueOf (.barw x) s = some r → arrivalOk r x n v →
    let b := r.t.barrier n
    let tok := b.phase + b.epoch * 2 ^ 32
    ∃ t u, exec (.barw x) s = .next t ∧
      t = modTeam u r.tid (fun k => afterArrival n (arrived b (txAfter x b v)) (k.noteArrived r.gnum r.path)) ∧
      (stillBlocks b tok → waits r (teamShared r s) u (.barrier n (tok % 2 ^ 32) (tok / 2 ^ 32 % 256) x.a.toNat)) ∧
      (¬stillBlocks b tok → wrote r (teamShared r s) u ((old r).putQ x.a.toNat (.ok (waitStatus b tok))))) ∧
  (∀ (x : Std) (s : State) (r : Run) (n : Nat), issueOf (.binv x) s = some r → names r x n → ordinary r →
    let b := r.t.barrier n
    (b.valid = true → ∃ t, exec (.binv x) s = .next t ∧ wroteTeam r s t (old r) fun k =>
      (withBarrier n { b with epoch := (b.epoch + 1) % 256, valid := false } k).releaseWaiters n true) ∧
    (b.valid = false → ∃ t, exec (.binv x) s = .next t ∧ wrote r s t (old r))) ∧
  (∀ (x : Std) (s : State) (r : Run) (n tok : Nat), issueOf (.btest x) s = some r → names r x n →
    r.g.readS x.b.toNat 64 = .ok tok →
    ∃ t p, exec (.btest x) s = .next t ∧ (p = false ↔ stillBlocks (r.t.barrier n) tok) ∧
      wrote r s t ((old r).putQ x.a.toNat (.ok p)))

/-- R164, R166, R170: the barrier faults: a number at or beyond the declared count, a count of 0 or of 4096 and more, an
arrival of a satellite or pixel group, at an invalid barrier, or where no arrival is due, are Fault(0x0C). -/
def barrierFaults : Prop :=
  (∀ (x : Std) (s : State) (r : Run) (n : Nat), issueOf (.binv x) s = some r → r.barrierNum x = .ok n →
    r.t.hdr.barriers ≤ n → exec (.binv x) s = .next (r.fault 0x0C)) ∧
  (∀ (x : Std) (s : State) (r : Run) (n tok : Nat), issueOf (.bwait x) s = some r → r.barrierNum x = .ok n →
    r.g.readS x.b.toNat 64 = .ok tok → r.t.hdr.barriers ≤ n → exec (.bwait x) s = .next (r.fault 0x0C)) ∧
  (∀ (x : Std) (s : State) (r : Run) (n c : Nat), issueOf (.binit x) s = some r → names r x n →
    r.g.readS x.b.toNat 64 = .ok c → (c = 0 ∨ 4096 ≤ c ∨ ¬ordinary r ∨ (r.t.waiters n ≠ [] ∧ x.f = 0)) →
    exec (.binit x) s = .next (r.fault 0x0C)) ∧
  (∀ (x : Std) (s : State) (r : Run) (n v : Nat), issueOf (.barr x) s = some r → names r x n →
    r.g.readS x.b.toNat 64 = .ok v →
    (¬ordinary r ∨ (r.t.barrier n).valid = false ∨ (r.t.barrier n).pending = 0 ∨ (x.f = 1 ∧ 2 ^ 32 ≤ v)) →
    exec (.barr x) s = .next (r.fault 0x0C)) ∧
  (∀ (x : Std) (s : State) (r : Run) (n v : Nat), issueOf (.barw x) s = some r → names r x n →
    r.g.readS x.b.toNat 64 = .ok v →
    (¬ordinary r ∨ (r.t.barrier n).valid = false ∨ (r.t.barrier n).pending = 0 ∨ (x.f = 1 ∧ 2 ^ 32 ≤ v)) →
    exec (.barw x) s = .next (r.fault 0x0C)) ∧
  (∀ (x : Std) (s : State) (r : Run) (tok : Word), issueOf (.btest x) s = some r → r.g.readS x.b.toNat 64 = .bad tok →
    exec (.btest x) s = .next (r.raise tok))

/-- R167: a path that is released from a barrier takes the status in its q-register and passes its instruction of two
words, and no other register of its group changes. -/
def barrierRelease : Prop :=
  ∀ (t : Team) (n gnum path q : Nat) (g : Group) (inv : Bool), t.waiters n = [(gnum, path, q)] →
    mfind gnum t.groups = some g → g.pathLanes path ≠ [] →
    ∃ u, mfind gnum (t.releaseWaiters n inv).groups = some u ∧
      Regs.same (regsOf u) ((regsOf g).putQ q (.ok inv)) ∧
      advanced (g.pathLanes path) (g.thread ((g.pathLanes path).headD 0)).pc 8 g u ∧
      t.releaseWaiters n inv = { t with groups := (t.releaseWaiters n inv).groups } ∧
      ∀ k, k ≠ gnum → mfind k (t.releaseWaiters n inv).groups = mfind k t.groups

/-- R171, R172: rgwait passes a stage that is as it wants it and waits at one that is not; rgwait.test takes whether it is;
rgadv turns a stage that is not, releases at team scope, and lets the paths that wait for the stage pass; it is Fault(0x0C)
at one that is. -/
def ringInstructions : Prop :=
  (∀ (x : Std) (s : State) (r : Run) (n k : Nat) (full : Bool), issueOf (.rgwait x) s = some r → stageOf r x n k full →
    (full = wantsFull x → ∃ t, exec (.rgwait x) s = .next t ∧ wrote r s t (old r)) ∧
    (full ≠ wantsFull x → ∃ t, exec (.rgwait x) s = .next t ∧ waits r s t (.ring n k !(wantsFull x)))) ∧
  (∀ (x : Std) (s : State) (r : Run) (n k : Nat) (full : Bool), issueOf (.rgwaitTest x) s = some r → stageOf r x n k full →
    ∃ t, exec (.rgwaitTest x) s = .next t ∧ wrote r s t ((old r).putQ x.a.toNat (.ok (full == wantsFull x)))) ∧
  (∀ (x : Std) (s : State) (r : Run) (n k : Nat) (full : Bool), issueOf (.rgadv x) s = some r → stageOf r x n k full →
    full ≠ wantsFull x →
    ∃ t new, exec (.rgadv x) s = .next t ∧
      (∀ i, i < 16 → bitB new i = if i = k then wantsFull x else bitB (ringAt r n).full i) ∧
      wroteTeam r (teamShared r s) t (old r) fun u =>
        ({ u with rings := mput n { ringAt r n with full := new } u.rings }).releaseRing n k !(wantsFull x)) ∧
  (∀ (t : Team) (n k gnum path : Nat) (e : Bool) (g : Group), t.ringWaiters n k e = [(gnum, path)] →
    mfind gnum t.groups = some g → g.pathLanes path ≠ [] →
    ∃ u, mfind gnum (t.releaseRing n k e).groups = some u ∧ Regs.same (regsOf u) (regsOf g) ∧
      advanced (g.pathLanes path) (g.thread ((g.pathLanes path).headD 0)).pc 8 g u ∧
      t.releaseRing n k e = { t with groups := (t.releaseRing n k e).groups } ∧
      ∀ j, j ≠ gnum → mfind j (t.releaseRing n k e).groups = mfind j t.groups) ∧
  (∀ (x : Std) (s : State) (r : Run) (n k : Nat) (full : Bool), issueOf (.rgadv x) s = some r → stageOf r x n k full →
    full = wantsFull x → exec (.rgadv x) s = .next (r.fault 0x0C)) ∧
  (∀ (x : Std) (s : State) (r : Run) (e : Nat), issueOf (.rgwait x) s = some r → r.g.operand x.e 64 0 = .ok e →
    (r.t.hdr.rings ≤ srcNum x.c ∨ (mget {} (srcNum x.c) r.t.rings).depth ≤ e % 16) →
    exec (.rgwait x) s = .next (r.fault 0x0C))

/-- R186, R187, R191: kmap gives the status of Table 10.6 and, with 0, makes the window live with none of its words valid;
kunmap writes its window back and empties it, kinv empties it, kwb and kwb.all write back; each gives 0 when it is done. -/
def stashWindows : Prop :=
  (∀ (x : Std) (s : State) (r : Run) (n b d st : Nat), issueOf (.kmap x) s = some r → r.g.readS x.b.toNat 64 = .ok b →
    r.g.operand x.c 64 0 = .ok d → r.g.operand x.e 64 0 = .ok n → st < 4 → mapStatus r.t n (b % 2 ^ 56) d st →
    ∃ t, exec (.kmap x) s = .next t ∧
      wrote r (modTeam s r.tid fun k => if st = 0 then
          { emptied (winOff d) (winLen d) k with
            windows := mput n { base := b % 2 ^ 56, len := winLen d, soff := winOff d, mode := d / 2 ^ 62 % 4 } k.windows }
        else k) t ((old r).putS x.a.toNat (.ok st))) ∧
  windowFront .kunmap ∧ windowFront .kwb ∧ windowFront .kinv ∧
  (∀ (x : Std) (s : State) (r q : Run) (n : Nat) (w : Window), issueOf (.kunmap x) s = some r →
    r.g.operand x.e 64 0 = .ok n → n < 16 → mfind n r.t.windows = some w → copiesInto s r.tid w = false →
    r.t.paired = false → r.t.contained = false → r.writeBack (fun k => k == n) = (q, none) →
    ∃ t, exec (.kunmap x) s = .next t ∧
      wrote r (modTeam q.s r.tid fun k => { emptied w.soff w.len k with windows := merase n k.windows }) t
        ((old r).putS x.a.toNat (.ok 0))) ∧
  (∀ (x : Std) (s : State) (r : Run) (n : Nat) (w : Window), issueOf (.kinv x) s = some r →
    r.g.operand x.e 64 0 = .ok n → n < 16 → mfind n r.t.windows = some w → copiesInto s r.tid w = false →
    ∃ t, exec (.kinv x) s = .next t ∧
      wrote r (modTeam s r.tid fun k => { emptied w.soff w.len k with windows := merase n k.windows }) t
        ((old r).putS x.a.toNat (.ok 0))) ∧
  (∀ (x : Std) (s : State) (r q : Run) (n : Nat), issueOf (.kwb x) s = some r → r.g.operand x.e 64 0 = .ok n → n < 16 →
    (mfind n r.t.windows).isSome → r.t.paired = false → r.t.contained = false → r.writeBack (fun k => k == n) = (q, none) →
    ∃ t, exec (.kwb x) s = .next t ∧ wrote r q.s t ((old r).putS x.a.toNat (.ok 0))) ∧
  (∀ (x : Std) (s : State) (r q : Run), issueOf (.kwbAll x) s = some r → r.t.paired = false → r.t.contained = false →
    r.writeBack (fun _ => true) = (q, none) →
    ∃ t, exec (.kwbAll x) s = .next t ∧ wrote r q.s t ((old r).putS x.a.toNat (.ok 0)))

/-- R226, R227, R231, R232: cpl, cpz, cpx.expand and cpx.compact with room, unpoisoned addresses and passed checks queue one
entry with the addresses of every active lane, and the path goes on; no register changes and no byte moves yet. -/
def copiesQueued : Prop :=
  ∀ o ∈ copyForms, ∀ (x : Std) (s : State) (r : Run), issueOf (o.instr x) s = some r →
    (r.act.isEmpty = true → ∃ t, exec (o.instr x) s = .next t ∧ wrote r s t (old r)) ∧
    (∀ n, r.act.isEmpty = false → copyHasRoom r s → r.t.paired = false → r.t.contained = false →
      (o.bar x = true → r.barrierNum x = .ok n ∧ n < r.t.hdr.barriers) →
      (∀ l ∈ r.act, ∀ a ∈ copyAddrs o r x l, ∃ va, a.1 = .ok va ∧ copyPasses s (whoEngine s r.tid 2) va a.2.1 a.2.2) →
      ∃ t u op, exec (o.instr x) s = .next t ∧ wrote r u t (old r) ∧ queued s u op ∧
        op.team = r.tid ∧ op.group = r.gnum ∧ op.kind = o.kind ∧ op.ty = x.ty ∧ op.fails = [] ∧
        (o.src x = 0 ∨ o.info x = 0 → op.size = o.dst x) ∧
        op.bar = (if o.bar x then some (n, (r.t.barrier n).epoch) else none) ∧
        op.lanes.map (fun l => (l.lane, l.dst.1, l.src.map Prod.fst, l.meta_.map Prod.fst, l.done)) =
          r.act.map fun l => (l, (pairVa r x.a.toNat l).val,
            (if o.src x = 0 then none else some (pairVa r x.b.toNat l).val),
            (if o.info x = 0 then none else some (pairVa r (srcNum x.c) l).val), false)) ∧
    (r.act.isEmpty = false → ¬copyHasRoom r s → ∃ t, exec (o.instr x) s = .next t ∧ waits r s t .room)

/-- R160, R229, R234, R235: cpst with room, without a recorded copy code, performs its release and queues a stamp of S[A] at
its address; cpw with its operands aligned takes a handle, which S[A] holds pending, and queues the bulk copy, or ends
it at once with a length of 0. -/
def stampsAndBulkCopies : Prop :=
  (∀ (x : Std) (s : State) (r q : Run) (v va : Nat) (c : Scope), issueOf (.cpst x) s = some r → copyHasRoom r s →
    r.g.readS x.a.toNat 64 = .ok v → r.uea x.b x.c 8 = .ok va → copyPasses s (whoEngine s r.tid 2) va 8 .write →
    r.g.copyCode = 0 → Scope.ofCode x.f.toNat = some c → r.t.paired = false → r.t.contained = false → released r q .rel c →
    ∃ t u op, exec (.cpst x) s = .next t ∧ wrote r u t (old r) ∧ queued q.s u op ∧ op.team = r.tid ∧ op.group = r.gnum ∧
      op.kind = .stamp ∧ op.va = va ∧ op.val = BitVec.ofNat 64 v ∧ op.scope = c) ∧
  (∀ (x : Std) (s : State) (r : Run) (d f n e : Nat), issueOf (.cpw x) s = some r → copyHasRoom r s →
    r.g.readS x.b.toNat 64 = .ok d → r.g.operand x.c 64 0 = .ok f → r.g.operand x.e 64 0 = .ok n →
    d % 16 = 0 → f % 16 = 0 → n % 16 = 0 → n < 2 ^ 40 → handleFor r e → r.t.paired = false → r.t.contained = false →
    let q := (r.t.hseq + 1) % 2 ^ 32
    let taken := fun (k : Team) => { k with hseq := q, handles := mput e { kind := 3, seq := q } r.t.handles }
    (n = 0 → ∃ t, exec (.cpw x) s = .next t ∧
      wrote r (takeSeq (modTeam (modTeam s r.tid taken) r.tid fun k => k.completeHandle e q 0 0)) t
        ((old r).putHandle x.a.toNat (3 * 2 ^ 60 + e * 2 ^ 32 + q))) ∧
    (n ≠ 0 → ∃ t u op, exec (.cpw x) s = .next t ∧ wrote r u t ((old r).putHandle x.a.toNat (3 * 2 ^ 60 + e * 2 ^ 32 + q)) ∧
      queued (modTeam s r.tid taken) u op ∧ op.team = r.tid ∧ op.group = r.gnum ∧ op.kind = .cpw ∧ op.dst = d % 2 ^ 56 ∧
      op.src = f % 2 ^ 56 ∧ op.len = n ∧ op.gaps = [(0, (d % 2 ^ 56 % 128 + n + 127) / 128)] ∧ op.handles = [(r.tid, e, q)])) ∧
  (∀ (x : Std) (s : State) (r : Run) (d f n : Nat), issueOf (.cpw x) s = some r → copyHasRoom r s →
    r.g.readS x.b.toNat 64 = .ok d → r.g.operand x.c 64 0 = .ok f → r.g.operand x.e 64 0 = .ok n →
    (d % 16 ≠ 0 ∨ f % 16 ≠ 0 ∨ n % 16 ≠ 0 ∨ 2 ^ 40 ≤ n) → ∃ a, exec (.cpw x) s = .next (r.fault 4 a))

end Sys2Proof.Claims

namespace Sys2Proof.Claims

open Sys2Proof Sys2Proof.Machine Sys2Proof.Safety

/-! ## The launch graph (07_launch.md) -/

/-- The state in which a graph instruction's atomic meets the node: what the core's first-level cache holds dirty of its line
has been performed, and its copy of the count is gone (R128, R195). -/
def atNode (u : State) (core pa : Nat) : State := l1Forget (flushLine u core pa) core (pa + 4) 4

/-- gdec, gadd and gsig on a node in normal memory whose atomic is allowed (R139): a release and an acquire at pkg scope,
then one atomic on the node; S[A] takes the old count and, in bits 39:32, the status. It waits while the notification buffer
of the node's slice is full (R130). -/
def graphRuns (i : Std → Instr) (count : Run → Std → PV Nat) (op : Nat → GraphOp) : Prop :=
  (∀ (x : Std) (s : State) (r q : Run) (b n pa : Nat), issueOf (i x) s = some r → r.g.readS x.b.toNat 64 = .ok b →
    count r x = .ok n → b % 128 = 0 → isLocal (b % 2 ^ 56) = false → r.t.paired = false → r.t.contained = false →
    checkAccess s r.who (b % 2 ^ 56) 8 .atomic = .ok (.normal pa) → released r q .rel .pkg →
    let u := acquire (noteTranslation q.s r.who (b % 2 ^ 56) (.ok (.normal pa))) r.who .pkg
    inHbm pa = true → lineAllows u r.who.master r.who.cid pa .atomic = true → isMarked u pa = false →
    let o := graphAtomic (atNode u r.t.core pa) r.t.bind.cid r.t.bind.icn (b % 2 ^ 56) pa (op n)
    (notifyStalls u pa = false →
      ∃ t, exec (i x) s = .next t ∧ wrote r o.1 t ((old r).putS x.a.toNat (.ok (o.2.1 + o.2.2 * 2 ^ 32)))) ∧
    (notifyStalls u pa = true → ∃ t, exec (i x) s = .next t ∧ waits r u t .room)) ∧
  (∀ (x : Std) (s : State) (r : Run) (b n : Nat), issueOf (i x) s = some r → r.g.readS x.b.toNat 64 = .ok b →
    count r x = .ok n →
    (b % 128 ≠ 0 → exec (i x) s = .next (r.fault 4 (b % 2 ^ 56))) ∧
    (b % 128 = 0 → r.t.paired = true → exec (i x) s = .next (r.fault 0x16))) ∧
  (∀ (x : Std) (s : State) (r : Run) (tok : Word), issueOf (i x) s = some r → r.g.readS x.b.toNat 64 = .bad tok →
    exec (i x) s = .next (r.raise tok))

/-- None of the bytes of a node lies in the context table, which is memory of its own (R41). -/
def nodeInMemory (s : State) (pa : Nat) : Prop := ∀ k, k < 128 → inCtxTable s (pa + k) = false

/-- The count of the node at a physical address. -/
def countAt (s : State) (pa : Nat) : Nat := physNat s (pa + 4) 4

/-! ## Faults (19_faults.md) -/

/-- The teams that are kept under a SAVE, as copy 0. -/
def kept (s : State) (save : Nat) : List (Nat × Team) := s.teams.filter fun e => e.1 % copyOne == save && !isCopy1 e.1

/-- Nothing of the machine but one group changes, and of that group registers and fields as given. -/
def passedAs (r : Run) (s t : State) (g0 : Group) (threads : Nat → Thread) (regs : Regs) : Prop :=
  ∃ g, passed r s t g ∧ sameRest g0 g ∧ (∀ l, g.thread l = threads l) ∧ Regs.same (regsOf g) regs

/-- The path takes a fault that no continuation takes: it stands still at its instruction, its group holds the fault, and its
team starts to be saved; no register of the group changes (R333, R337). -/
def heldAt (r : Run) (t : State) (code addr : Nat) : Prop :=
  ∃ f, (groupAt t r.tid r.gnum).swapped = some f ∧ f.code = code ∧ f.addr = addr ∧ f.pc = r.pc ∧ f.mask = maskOf r.lanes ∧
    f.held = true ∧ (groupAt t r.tid r.gnum).waitOf r.path = .fault ∧
    Regs.same (regsOf (groupAt t r.tid r.gnum)) (regsOf r.g) ∧
    (∀ l, (groupAt t r.tid r.gnum).thread l = r.g.thread l) ∧
    (r.t.loc = .resident → (teamOf t r.tid).loc = .saving)

/-- R139: gdec, gadd and gsig perform their atomic on the node that S[B] names, and give the old count with the status. -/
def graphInstructions : Prop :=
  graphRuns .gdec (fun _ _ => .ok 0) (fun _ => .count .dec) ∧
  graphRuns .gadd (fun r x => r.g.operand x.c 32 0) (fun n => .count (.add (n % 2 ^ 32))) ∧
  graphRuns .gsig (fun _ _ => .ok 0) (fun _ => .sig)

/-- R128, Table 7.9: what a graph-count atomic leaves: a decrement counts down, fires at 1 (with REARM the count starts
again at INIT) and underflows at 0; an addition adds and overflows past 2^32 - 1; a reserved KIND is left alone. -/
def graphCounts : Prop :=
  ∀ (s : State) (cid icn va pa : Nat), nodeInMemory s pa → pa % 128 = 0 →
    let kind := physNat s pa 1
    let n := countAt s pa
    ((kind = 0 ∨ 6 ≤ kind) → ∀ op, countAtomic s cid icn va pa op = (s, n, 4)) ∧
    (kind ≠ 0 → kind < 6 →
      (n = 0 → countAtomic s cid icn va pa .dec = (s, 0, 2)) ∧
      (2 ≤ n → (countAtomic s cid icn va pa .dec).2 = (n, 0) ∧ countAt (countAtomic s cid icn va pa .dec).1 pa = n - 1 ∧
        (countAtomic s cid icn va pa .dec).1.notifs = s.notifs) ∧
      (n = 1 → (countAtomic s cid icn va pa .dec).2 = (1, 1) ∧
        countAt (countAtomic s cid icn va pa .dec).1 pa = (if bitB (physNat s (pa + 2) 2) 0 then physNat s (pa + 8) 4 else 0) ∧
        ∃ k x, (countAtomic s cid icn va pa .dec).1.notifs = mput k x s.notifs ∧
          x = { die := homeOf pa / 4, cid := cid, icn := icn, va := va, pa := pa }) ∧
      (∀ a, a < 2 ^ 32 → 2 ^ 32 ≤ n + a → countAtomic s cid icn va pa (.add a) = (s, n, 3)) ∧
      (∀ a, n + a < 2 ^ 32 → (countAtomic s cid icn va pa (.add a)).2 = (n, 0) ∧
        countAt (countAtomic s cid icn va pa (.add a)).1 pa = n + a))

/-- R333, R335, R337: a fault that no continuation takes, in a group that holds none under swap-out, leaves its path standing
at its instruction with nothing written: the group holds the fault with its code, address, pc and mask, and a resident team
starts to be saved. A second one under swap-out is not held: its path waits, and its instruction is not yet issued. -/
def faultsAreHeld : Prop :=
  ∀ (s : State) (r : Run) (f : FaultIn), runOf s = some r → f.consumes = false →
    (f.tr = none → mfind r.g.role.num r.t.conts = none → r.g.swapped = none → heldAt r (r.faultIn s f) f.code f.addr) ∧
    (r.g.swapped ≠ none → waits r s (r.faultIn s f) .second)

/-- R335, R336: a fault in a role with a continuation, in a group that holds no other fault, sends its path to the
continuation: S[base] takes the code and the token, the next two registers the address and the pc. -/
def faultsAreRedirected : Prop :=
  ∀ (s : State) (r : Run) (f : FaultIn) (k : Cont), runOf s = some r →
    f.consumes = false → f.tr = none → mfind r.g.role.num r.t.conts = some k → r.g.redirected = none → r.g.swapped = none →
    let t := r.faultIn s f
    let u := groupAt t r.tid r.gnum
    (∃ e, u.redirected = some e ∧ e.code = f.code ∧ e.addr = f.addr ∧ e.pc = r.pc ∧ e.mask = maskOf r.lanes ∧ e.cont = true) ∧
    Regs.same (regsOf u) ((((regsOf r.g).putS k.base (.ok (f.code + (if f.code = 0x12 then f.token.toNat else 0) * 2 ^ 32))).putS
      (k.base + 1) (.ok f.addr)).putS (k.base + 2) (.ok r.pc)) ∧
    (∀ l, (u.thread l).pc = if l ∈ r.lanes then k.pc else (r.g.thread l).pc) ∧
    (teamOf t r.tid).loc = r.t.loc

/-- R350, R52: the consumption of an uncorrectable error by a team that is neither paired nor contained, of a live context
that may be killed, starts the kill of its context: the incarnation advances, the context is DEAD, and the path waits; and
the steps that follow the acknowledgements leave no team of the context. Its record is not meant to lie in the context
table. -/
def poisonConsumptionKills : Prop :=
  (∀ (s : State) (r : Run), runOf s = some r → r.t.paired = false → r.t.contained = false → r.t.bind.cid ≠ 0 →
    bitB (ctxOf s r.t.bind.cid).flags 2 = false → (ctxOf s r.t.bind.cid).state = 1 →
    (addRecord s { r.record { code := 5 } false with terminal := true }).1.ctx = s.ctx →
    let t := r.faultIn s { code := 5 }
    (ctxOf t r.t.bind.cid).icn = ((ctxOf s r.t.bind.cid).icn + 1) % 256 ∧ (ctxOf t r.t.bind.cid).state = 2 ∧
    (groupAt t r.tid r.gnum).waitOf r.path = .quiet r.t.bind.cid) ∧
  (∀ (s : State) (cid k : Nat) (t : Team), mfind k s.teams = some t → t.bind.cid = cid →
    mfind k (killSteps s cid).teams = none)

end Sys2Proof.Claims

namespace Sys2Proof.Claims

open Sys2Proof Sys2Proof.Machine Sys2Proof.Safety

/-! ## Matrix (15_matrix.md) -/

/-- The sequence number of the next handle of the team (R160). -/
def nextSeq (r : Run) : Nat := (r.t.hseq + 1) % 2 ^ 32

/-- The team with a handle entry taken for an operation of a kind. -/
def tookHandle (r : Run) (e kind : Nat) (k : Team) : Team :=
  { k with hseq := nextSeq r, handles := mput e { kind := kind, seq := nextSeq r } r.t.handles }

/-- The thread holds a lease, and the engine of its core has room for another operation (R255, R256). -/
def engineReady (r : Run) (s : State) : Prop := r.t.lease.isSome = true ∧ (acceptedOn s r.t.core).length < 8

/-- An operation has been accepted: the path has passed with a pending handle of KIND 1 in S[A], and the engine then holds
the operation. -/
def acceptedAs (r : Run) (s t : State) (a e : Nat) (op : MxOp) : Prop :=
  ∃ u, wrote r (modTeam s r.tid (tookHandle r e 1)) u ((old r).putHandle a (2 ^ 60 + e * 2 ^ 32 + nextSeq r)) ∧
    t = acceptOp u op

/-- What every accepted operation carries (R256, R266). -/
def opOf (r : Run) (x : Std) (kind : MxKind) (e : Nat) (op : MxOp) : Prop :=
  op.kind = kind ∧ op.team = r.tid ∧ op.entry = e ∧ op.seq = nextSeq r ∧ op.pc = r.pc ∧ op.cid = r.t.bind.cid ∧
  op.icn = r.t.bind.icn ∧ op.tile = srcNum x.c ∧ op.cols = 64 * (x.f.toNat % 4 + 1) ∧ op.chunk = 0 ∧ op.bands = 0 ∧
  op.faulted = none

/-- The registers of an operand block, none of them poisoned (R257). -/
def blockIs (r : Run) (b : Nat) (vs : List Nat) : Prop := ∀ k, k < vs.length → r.g.readS (b + k) 64 = .ok (vs.getD k 0)

/-- The path looks an identifier up for a requester of its core: its own buffered write, the core's cache or a
fill, which the cache then holds (R238, R252). -/
def looks (r : Run) (m : Master) (s u : State) (n : Nat) (x : Except Nat (Option Nat)) : Prop :=
  ({ r with s := s } : Run).tid_ m n = (u, x)

/-- The matrix load pipes of the path's core, as the requester of R387. -/
def pipesOf (r : Run) (s : State) : Master := (whoEngine s r.tid 1).master

/-- The identifiers of an operation are valid in the context, and their records as given; `u` is the state once they have
been looked up in turn. -/
def recordsAre (r : Run) (m : Master) (s u : State) : List (Nat × Nat) → Prop
  | [] => u = s
  | e :: l => ∃ v, looks r m s v e.1 (.ok (some e.2)) ∧ recordsAre r m v u l

/-- An operation's records pass the checks of R266: a row of Table 15.1, its surface views, and no padding under PAD 3. -/
def opChecks (r : Run) (s u : State) (op : MxOp) : Prop :=
  mxMatches op = true ∧ mxViewFails u (whoEngine s r.tid 1) op = 0 ∧ (mxPadFails op && !op.spec) = false

/-- The reserved bits of the first block register are clear; bits 41:32 only where there are outliers, 25:16 only where
there is a B (Table 15.2). -/
def wordOk (w : Nat) (ol b : Bool) : Prop :=
  w / 2 ^ 42 % 2 ^ 22 = 0 ∧ w / 2 ^ 26 % 64 = 0 ∧ w / 2 ^ 10 % 64 = 0 ∧ (ol = false → w / 2 ^ 32 % 2 ^ 10 = 0) ∧
  (b = false → w / 2 ^ 16 % 2 ^ 10 = 0)

/-- The signed halves of the block registers from `j` on: the origins of a window (R257). -/
def originOf (vs : List Nat) (j : Nat) : List Int :=
  [toSigned 32 (vs.getD j 0 % 2 ^ 32), toSigned 32 (vs.getD j 0 / 2 ^ 32), toSigned 32 (vs.getD (j + 1) 0 % 2 ^ 32),
    toSigned 32 (vs.getD (j + 1) 0 / 2 ^ 32)]

/-- The element of a tile that a lane of tdrain or tfeed names (R254, R271). -/
def tileCol (x : Std) (l : Nat) : Nat := (if x.f = 0 then 0 else 32) + l

/-- Where an f32 or i32 element stands, and the two words of an f64 one (R254). -/
def cellOf (tile row col : Nat) : Nat := 8192 * tile + 64 * row + col
def elemOf (k : Team) (wide : Bool) (tile row col : Nat) : PV Nat :=
  if wide then
    combine [(mget (.ok 0) (cellOf tile row col) k.tiles).map BitVec.toNat,
      (mget (.ok 0) (cellOf (tile + 1) row col) k.tiles).map BitVec.toNat] fun | [a, b] => a + 2 ^ 32 * b | _ => 0
  else (mget (.ok 0) (cellOf tile row col) k.tiles).map BitVec.toNat

/-- What a core's first-level cache holds of a byte of memory, and what the core has sent there that is still under way. -/
def cachedAt (s : State) (core a : Nat) : List (Nat × L1Cell) :=
  s.l1.filter fun e => e.1 / 2 ^ 52 == core && e.1 % 2 ^ 52 == a
def sentAt (s : State) (core a : Nat) : List Byte :=
  (s.requests.filter fun q => q.2.core == core && !q.2.isRead).flatMap fun q =>
    (q.2.bytes.filter fun b => q.2.pa + b.1 == a).map Prod.snd

/-- Every operation that writes one of `n` tiles has been waited for by the group or by the matrix thread (R263, log 81). -/
def tilesOrdered (r : Run) (tile n : Nat) : Prop :=
  ∀ y ∈ r.t.races, ∀ k, tile ≤ k → k < tile + n → y.tile ≤ k → k < y.tile + y.count → r.t.waited r.gnum y = true

/-- The matrix operation that a handle names, with its entry (R258). -/
def mxHandle (r : Run) (h : Nat) (e : HandleEnt) : Prop :=
  h / 2 ^ 60 = 1 ∧ h / 2 ^ 38 % 2 ^ 22 = 0 ∧ mfind (h / 2 ^ 32 % 64) r.t.handles = some e ∧ e.seq = h % 2 ^ 32

/-! ## Tensor identifiers (14_tensorids.md) -/

/-- A poisoned operand is raised. -/
def raises (i : Instr) (p : Run → PV Nat) : Prop :=
  ∀ (s : State) (r : Run) (tok : Word), issueOf i s = some r → p r = .bad tok → exec i s = .next (r.raise tok)

/-- The core of the path, as the requester of R387. -/
def coreOfPath (r : Run) : Master := { cls := 0, idx := r.t.core }

/-- R255, R265: mlease of 1 to 64 by a thread without a lease on a free engine is granted at once, and asks and waits
otherwise; any other count, or a lease already held, is Fault(0x0E); mfree ends the lease, if there is one. -/
def matrixLeases : Prop :=
  (∀ (x : Std) (s : State) (r : Run) (n : Nat), issueOf (.mlease x) s = some r → r.g.operand x.c 64 0 = .ok n →
    1 ≤ n → n ≤ 64 → r.t.lease = none → (coreOf s r.t.core).holder = none → (coreOf s r.t.core).asking = [] →
    ∃ t u, exec (.mlease x) s = .next t ∧ wrote r u t ((old r).putS x.a.toNat (.ok n)) ∧
      u = modCore (modTeam s r.tid fun k => { k with lease := some n }) r.t.core fun c =>
        { c with holder := some r.tid, lastLease := r.t.bind.mslot, asking := [] }) ∧
  (∀ (x : Std) (s : State) (r : Run) (n : Nat), issueOf (.mlease x) s = some r → r.g.operand x.c 64 0 = .ok n →
    1 ≤ n → n ≤ 64 → r.t.lease = none → ((coreOf s r.t.core).holder ≠ none ∨ (coreOf s r.t.core).asking ≠ []) →
    ∃ t u, exec (.mlease x) s = .next t ∧ waits r u t (.lease (some (x.a.toNat, n))) ∧ u = { s with cores := u.cores } ∧
      ((coreOf u r.t.core).asking.any fun a => a.1 == r.tid) = true) ∧
  (∀ (x : Std) (s : State) (r : Run) (n : Nat), issueOf (.mlease x) s = some r → r.g.operand x.c 64 0 = .ok n →
    (n = 0 ∨ 64 < n ∨ r.t.lease ≠ none) → exec (.mlease x) s = .next (r.fault 0x0E)) ∧
  (∀ (x : One) (s : State) (r : Run), issueOf (.mfree x) s = some r →
    (r.t.lease = none → ∃ t, exec (.mfree x) s = .next t ∧ wrote r s t (old r)) ∧
    (r.t.lease ≠ none → ∃ t u, exec (.mfree x) s = .next t ∧ wrote r u t (old r) ∧
      (teamOf u r.tid).lease = none ∧ (coreOf u r.t.core).holder ≠ some r.tid ∧ u = { s with teams := u.teams, cores := u.cores } ∧
      ∀ k, k ≠ r.tid → mfind k u.teams = mfind k s.teams))

/-- R256, R257, R266 to R269: mma, mmas, mmo, mld, mst and mzero, by a thread with a lease on an engine with room, with an
unpoisoned block, valid identifiers and passed checks, are accepted: S[A] holds their handle, pending, and the engine the
operation with its tile, columns, records and origins; no tile and no byte of memory changes yet. -/
def matrixOperationsAccepted : Prop :=
  (∀ (x : Std) (s : State) (r : Run) (e : Nat), issueOf (.mzero x) s = some r → engineReady r s → handleFor r e →
    ∃ t op, exec (.mzero x) s = .next t ∧ acceptedAs r s t x.a.toNat e op ∧ opOf r x .mzero e op) ∧
  (∀ (x : Std) (s : State) (r : Run) (e : Nat) (vs : List Nat) (wa wb wo : Nat) (u : State), issueOf (.mma x) s = some r →
    engineReady r s → handleFor r e → vs.length = 6 → blockIs r x.b.toNat vs → wordOk (vs.getD 0 0) (bitB x.f.toNat 2) true →
    vs.getD 5 0 < 2 ^ 32 →
    recordsAre r (pipesOf r s) s u ([(vs.getD 0 0 % 2 ^ 10, wa), (vs.getD 0 0 / 2 ^ 16 % 2 ^ 10, wb)] ++
      if bitB x.f.toNat 2 then [(vs.getD 0 0 / 2 ^ 32 % 2 ^ 10, wo)] else []) → (bitB x.f.toNat 2 = false → wo = 0) →
    let op : MxOp := { kind := .mma, team := r.tid, entry := e, seq := nextSeq r, pc := r.pc, cid := r.t.bind.cid
                       icn := r.t.bind.icn, tile := srcNum x.c, cols := 64 * (x.f.toNat % 4 + 1), spec := x.spec
                       outliers := bitB x.f.toNat 2, sat := x.sat, ty := x.ty, recA := wa, recB := wb, recO := wo
                       ao := originOf vs 1, bo := originOf vs 3, k := vs.getD 5 0 }
    opChecks r s u op → ∃ t, exec (.mma x) s = .next t ∧ acceptedAs r u t x.a.toNat e op) ∧
  (∀ (x : Std) (s : State) (r : Run) (e : Nat) (vs md : List Nat) (wa wb wo : Nat) (u : State), issueOf (.mmas x) s = some r →
    engineReady r s → handleFor r e → vs.length = 6 → blockIs r x.b.toNat vs → md.length = 2 → blockIs r (srcNum x.e) md →
    wordOk (vs.getD 0 0) (bitB x.f.toNat 2) true → vs.getD 5 0 < 2 ^ 32 →
    recordsAre r (pipesOf r s) s u ([(vs.getD 0 0 % 2 ^ 10, wa), (vs.getD 0 0 / 2 ^ 16 % 2 ^ 10, wb)] ++
      if bitB x.f.toNat 2 then [(vs.getD 0 0 / 2 ^ 32 % 2 ^ 10, wo)] else []) → (bitB x.f.toNat 2 = false → wo = 0) →
    let op : MxOp := { kind := .mmas, team := r.tid, entry := e, seq := nextSeq r, pc := r.pc, cid := r.t.bind.cid
                       icn := r.t.bind.icn, tile := srcNum x.c, cols := 64 * (x.f.toNat % 4 + 1), spec := x.spec
                       outliers := bitB x.f.toNat 2, sat := x.sat, ty := x.ty, recA := wa, recB := wb, recO := wo
                       ao := originOf vs 1, bo := originOf vs 3, k := vs.getD 5 0
                       meta_ := (md.getD 0 0 % 2 ^ 56, md.getD 1 0) }
    opChecks r s u op → toSigned 32 (vs.getD 1 0 % 2 ^ 32) % 4 = 0 → isLocal (md.getD 0 0 % 2 ^ 56) = true →
    md.getD 0 0 % 128 = 0 → md.getD 1 0 % 16 = 0 → md.getD 1 0 < 2 ^ 32 →
    ∃ t, exec (.mmas x) s = .next t ∧ acceptedAs r u t x.a.toNat e op) ∧
  (∀ (x : Std) (s : State) (r : Run) (e : Nat) (vs : List Nat) (wb wo : Nat) (u : State), issueOf (.mmo x) s = some r →
    engineReady r s → handleFor r e → vs.length = 6 → blockIs r x.b.toNat vs → wordOk (vs.getD 0 0) true true →
    vs.getD 5 0 < 2 ^ 32 →
    recordsAre r (pipesOf r s) s u [(vs.getD 0 0 / 2 ^ 16 % 2 ^ 10, wb), (vs.getD 0 0 / 2 ^ 32 % 2 ^ 10, wo)] →
    let op : MxOp := { kind := .mmo, team := r.tid, entry := e, seq := nextSeq r, pc := r.pc, cid := r.t.bind.cid
                       icn := r.t.bind.icn, tile := srcNum x.c, cols := 64 * (x.f.toNat % 4 + 1), spec := x.spec
                       outliers := true, sat := x.sat, ty := x.ty, recB := wb, recO := wo
                       ao := originOf vs 1, bo := originOf vs 3, k := vs.getD 5 0 }
    opChecks r s u op → ∃ t, exec (.mmo x) s = .next t ∧ acceptedAs r u t x.a.toNat e op) ∧
  (∀ (x : Std) (s : State) (r : Run) (e : Nat) (vs : List Nat) (wa : Nat) (u : State), issueOf (.mld x) s = some r →
    engineReady r s → handleFor r e → vs.length = 3 → blockIs r x.b.toNat vs → wordOk (vs.getD 0 0) false false →
    recordsAre r (pipesOf r s) s u [(vs.getD 0 0 % 2 ^ 10, wa)] → tKind wa < 2 →
    let op : MxOp := { kind := .mld, team := r.tid, entry := e, seq := nextSeq r, pc := r.pc, cid := r.t.bind.cid
                       icn := r.t.bind.icn, tile := srcNum x.c, cols := 64 * (x.f.toNat % 4 + 1), spec := x.spec, sat := x.sat
                       ty := x.ty, recA := wa, ao := originOf vs 1, bo := [0, 0, 0, 0] }
    mxViewFails u (whoEngine s r.tid 1) op = 0 → (mxPadFails op && !op.spec) = false →
    ∃ t, exec (.mld x) s = .next t ∧ acceptedAs r u t x.a.toNat e op) ∧
  (∀ (x : Std) (s : State) (r : Run) (e : Nat) (vs : List Nat) (wa : Nat) (u : State), issueOf (.mst x) s = some r →
    engineReady r s → handleFor r e → vs.length = 3 → blockIs r x.b.toNat vs → wordOk (vs.getD 0 0) false false →
    recordsAre r (pipesOf r s) s u [(vs.getD 0 0 % 2 ^ 10, wa)] → tKind wa < 2 → tScaled wa = bitB x.f.toNat 2 →
    let op : MxOp := { kind := .mst, team := r.tid, entry := e, seq := nextSeq r, pc := r.pc, cid := r.t.bind.cid
                       icn := r.t.bind.icn, tile := srcNum x.c, cols := 64 * (x.f.toNat % 4 + 1), sat := x.sat
                       mx := bitB x.f.toNat 2, ty := x.ty, recA := wa, ao := originOf vs 1, bo := [0, 0, 0, 0] }
    mxViewFails u (whoEngine s r.tid 1) op = 0 → mxPadFails op = false →
    (bitB x.f.toNat 2 = true → (originOf vs 1).getD (tSdim wa) 0 % 32 = 0) →
    ∃ t, exec (.mst x) s = .next t ∧ acceptedAs r u t x.a.toNat e op)

/-- R255, R256: the acceptance of an operation puts it into the engine's queue, makes it the thread's last one, and uses up
one of the lease; at the last one the lease ends. -/
def acceptanceUsesTheLease : Prop :=
  ∀ (s : State) (op : MxOp) (k : Team) (n : Nat), mfind op.team s.teams = some k → k.lease = some n → n ≠ 0 →
    let t := acceptOp s op
    t.mxops = mput s.nextId op s.mxops ∧ t.nextId = s.nextId + 1 ∧ t.mem = s.mem ∧ t.l1 = s.l1 ∧
    (teamOf t op.team).lease = (if n = 1 then none else some (n - 1)) ∧ (teamOf t op.team).tiles = k.tiles ∧
    (n = 1 → (coreOf t k.core).holder ≠ some op.team) ∧ (n ≠ 1 → t.cores = s.cores)

/-- R266: a matrix operation whose block has a reserved bit set is Fault(0x06); one whose identifier is not valid is
Fault(0x01), or with .spec is accepted with every element to be poisoned; a fill that fails is a fault with its code. -/
def matrixOperationFaults : Prop :=
  (∀ (x : Std) (s : State) (r : Run) (vs : List Nat), issueOf (.mma x) s = some r → vs.length = 6 →
    blockIs r x.b.toNat vs → (¬wordOk (vs.getD 0 0) (bitB x.f.toNat 2) true ∨ 2 ^ 32 ≤ vs.getD 5 0) →
    exec (.mma x) s = .next (r.fault 6)) ∧
  (∀ (x : Std) (s u : State) (r : Run) (vs : List Nat), issueOf (.mld x) s = some r → vs.length = 3 →
    blockIs r x.b.toNat vs → wordOk (vs.getD 0 0) false false → x.spec = false →
    looks r (pipesOf r s) s u (vs.getD 0 0 % 2 ^ 10) (.ok none) →
    exec (.mld x) s = .next (r.faultIn u { code := 1 })) ∧
  (∀ (x : Std) (s u : State) (r : Run) (e : Nat) (vs : List Nat), issueOf (.mld x) s = some r → vs.length = 3 →
    blockIs r x.b.toNat vs → wordOk (vs.getD 0 0) false false → x.spec = true →
    looks r (pipesOf r s) s u (vs.getD 0 0 % 2 ^ 10) (.ok none) → engineReady r s → handleFor r e →
    ∃ t op, exec (.mld x) s = .next t ∧ acceptedAs r u t x.a.toNat e op ∧ op.allBad = some 1) ∧
  (∀ (x : Std) (s u : State) (r : Run) (vs : List Nat) (c : Nat), issueOf (.mld x) s = some r → vs.length = 3 →
    blockIs r x.b.toNat vs → wordOk (vs.getD 0 0) false false → looks r (pipesOf r s) s u (vs.getD 0 0 % 2 ^ 10) (.error c) →
    exec (.mld x) s = .next (r.faultIn u { code := c })) ∧
  (∀ (x : Std) (s u : State) (r : Run) (vs : List Nat) (w : Nat), issueOf (.mst x) s = some r → vs.length = 3 →
    blockIs r x.b.toNat vs → wordOk (vs.getD 0 0) false false → recordsAre r (pipesOf r s) s u [(vs.getD 0 0 % 2 ^ 10, w)] →
    (2 ≤ tKind w ∨ tScaled w ≠ bitB x.f.toNat 2) → exec (.mst x) s = .next (r.faultIn u { code := 6 })) ∧
  (∀ (x : Std) (s : State) (r : Run) (vs : List Nat) (tok : Word) (k : Nat), issueOf (.mma x) s = some r →
    k = vs.length → k < 6 → blockIs r x.b.toNat vs → r.g.readS (x.b.toNat + k) 64 = .bad tok →
    exec (.mma x) s = .next (r.raise tok))

/-- R258, R267, R270: mma.resume has a FAULTED operation accepted again under its handle; mrow takes an operation's progress
without waiting; mready takes memory as the core sees it now, with what its first-level cache holds and what it has sent, as the team's operand-ready point. -/
def matrixProgress : Prop :=
  (∀ (x : Std) (s : State) (r : Run) (h id : Nat) (e : HandleEnt) (op : MxOp), issueOf (.mmaResume x) s = some r →
    engineReady r s → r.g.readS x.a.toNat 64 = .ok h → mxHandle r h e →
    (s.mxops.find? fun o => o.2.team == r.tid && o.2.entry == h / 2 ^ 32 % 64 && o.2.seq == e.seq && o.2.faulted.isSome) =
      some (id, op) →
    ∃ t u, exec (.mmaResume x) s = .next t ∧
      wrote r (modTeam { s with mxops := merase id s.mxops } r.tid fun k =>
        { k with handles := mput (h / 2 ^ 32 % 64) { e with status := 0x80, code := 0, cancel := false } k.handles }) u
        ((old r).putHandle x.a.toNat h) ∧
      t = acceptOp u { op with faulted := none, flags := 0 }) ∧
  (∀ (x : Std) (s : State) (r : Run) (h : Nat), issueOf (.mmaResume x) s = some r → r.g.readS x.a.toNat 64 = .ok h →
    (∀ e, ¬mxHandle r h e) → exec (.mmaResume x) s = .next (r.fault 0x0D)) ∧
  (∀ (x : One) (s : State) (r : Run), issueOf (.mready x) s = some r →
    ∃ t u, exec (.mready x) s = .next t ∧ wrote r u t (old r) ∧
      u = modTeam s r.tid (fun k => { k with ready := (teamOf u r.tid).ready }) ∧
      ∃ m, (teamOf u r.tid).ready = some m ∧
        ∀ a, (∀ e, cachedAt s r.t.core a = [e] → mget 0 a m = e.2.byte) ∧
          (∀ b, cachedAt s r.t.core a = [] → sentAt s r.t.core a = [b] → mget 0 a m = b) ∧
          (cachedAt s r.t.core a = [] → sentAt s r.t.core a = [] → mget 0 a m = mget 0 a s.mem)) ∧
  (∀ (x : One) (s : State) (r : Run) (h : DWord) (e : HandleEnt), issueOf (.mrow x) s = some r →
    r.g.getS x.b.toNat = .ok h → mxHandle r h.toNat e →
    ∃ t, exec (.mrow x) s = .next t ∧ wrote r s t ((old r).putS x.a.toNat (.ok e.progress.toNat))) ∧
  (∀ (x : One) (s : State) (r : Run) (h : DWord), issueOf (.mrow x) s = some r → r.g.getS x.b.toNat = .ok h →
    (∀ e, ¬mxHandle r h.toNat e) → exec (.mrow x) s = .next (r.fault 0x0D)) ∧
  (∀ (x : One) (s : State) (r : Run) (tok : Word), issueOf (.mrow x) s = some r → r.g.getS x.b.toNat = .bad tok →
    ∃ t, exec (.mrow x) s = .next t ∧ wrote r s t ((old r).putS x.a.toNat (.bad tok)))

/-- R254, R271: tdrain gives every active lane its element of a row of a tile, and tfeed writes it, an f64 element in two tiles,
where every operation that writes the tile has been waited for; an unordered tdrain never gives poison; a row above 127 is Fault(0x0A), and a team without a matrix role is
Fault(0x0E). -/
def tilesAndRegisters : Prop :=
  (∀ (x : Std) (s : State) (r : Run) (row : Nat), issueOf (.tdrain x) s = some r → r.act.isEmpty = false →
    r.t.hdr.matrix = true → r.g.operand x.c 64 0 = .ok row → row < 128 →
    ∃ t f, exec (.tdrain x) s = .next t ∧ wrote r s t ((old r).putV r.act x.a.toNat x.ty.regs f) ∧
      (tilesOrdered r x.b.toNat x.ty.regs → ∀ l ∈ r.act, f l = elemOf r.t (x.ty.regs == 2) x.b.toNat row (tileCol x l)) ∧
      (¬tilesOrdered r x.b.toNat x.ty.regs → ∀ l ∈ r.act, ∃ n, f l = .ok n)) ∧
  (∀ (x : Std) (s : State) (r : Run) (row : Nat), issueOf (.tfeed x) s = some r → r.act.isEmpty = false →
    r.t.hdr.matrix = true → r.g.operand x.c 64 0 = .ok row → row < 128 →
    ∃ t u, exec (.tfeed x) s = .next t ∧ wrote r u t (old r) ∧
      u = modTeam s r.tid (fun k => { k with tiles := (teamOf u r.tid).tiles, races := (teamOf u r.tid).races }) ∧
      (tilesOrdered r x.a.toNat x.ty.regs → (teamOf u r.tid).races = r.t.races ∧ ∀ l ∈ r.act, elemOf (teamOf u r.tid) (x.ty.regs == 2) x.a.toNat row (tileCol x l) =
        (r.g.readV x.b.toNat l x.ty.regs).map (· % 2 ^ (32 * x.ty.regs))) ∧
      (∀ tile k col, k < 128 → col < 64 → ¬(k = row ∧ x.a.toNat ≤ tile ∧ tile < x.a.toNat + x.ty.regs ∧ ∃ l ∈ r.act, col = tileCol x l) →
        mget (.ok 0) (cellOf tile k col) (teamOf u r.tid).tiles = mget (.ok 0) (cellOf tile k col) r.t.tiles)) ∧
  (∀ (x : Std) (s : State) (r : Run), issueOf (.tdrain x) s = some r → r.act.isEmpty = true →
    ∃ t, exec (.tdrain x) s = .next t ∧ wrote r s t (old r)) ∧
  (∀ (x : Std) (s : State) (r : Run) (row : Nat), issueOf (.tdrain x) s = some r → r.act.isEmpty = false →
    r.g.operand x.c 64 0 = .ok row →
    (r.t.hdr.matrix = false → exec (.tdrain x) s = .next (r.fault 0x0E)) ∧
    (r.t.hdr.matrix = true → 128 ≤ row → exec (.tdrain x) s = .next (r.fault 0x0A))) ∧
  (∀ (x : Std) (s : State) (r : Run) (row : Nat), issueOf (.tfeed x) s = some r → r.act.isEmpty = false →
    r.g.operand x.c 64 0 = .ok row →
    (r.t.hdr.matrix = false → exec (.tfeed x) s = .next (r.fault 0x0E)) ∧
    (r.t.hdr.matrix = true → 128 ≤ row → exec (.tfeed x) s = .next (r.fault 0x0A)))

/-- R249 to R252: tidset of a well-formed record writes the identifier with VALID and the incarnation and gives 0; tidinv of a
valid one clears VALID and gives 0; tidq gives a word of the record, or 0 for one that is not valid; tidq.state gives
whether it is valid; numbers past 1023 give their statuses, and a record that breaks R242 the offset of R388. -/
def tensorIdentifiers : Prop :=
  (∀ (x : Std) (s t : State) (r : Run) (b n : Nat) (ws : List DWord), issueOf (.tidset x) s = some r →
    r.g.readS x.b.toNat 64 = .ok b → r.barrierNum x = .ok n → n < 1024 → b % 64 = 0 → r.t.paired = false →
    r.t.contained = false → r.readOwn (acquire s r.who .pkg) (b % 2 ^ 56) 8 = (t, .ok ws) →
    let rec_ := ofBytes (ws.flatMap fun w => toBytes 8 w.toNat)
    (firstBadOffset rec_ = none → tidMayWrite t (coreOfPath r) r.t.bind.cid n = true →
      ∃ u, exec (.tidset x) s = .next u ∧
        wrote r (tidWrite t (coreOfPath r) r.t.bind.cid r.t.bind.icn n ws true) u ((old r).putS x.a.toNat (.ok 0))) ∧
    (∀ o, firstBadOffset rec_ = some o →
      ∃ u, exec (.tidset x) s = .next u ∧ wrote r t u ((old r).putS x.a.toNat (.ok (2 + o * 0x100))))) ∧
  (∀ (x : Std) (s : State) (r : Run) (b n : Nat), issueOf (.tidset x) s = some r → r.g.readS x.b.toNat 64 = .ok b →
    r.barrierNum x = .ok n →
    (1024 ≤ n → r.t.paired = false →
      ∃ t, exec (.tidset x) s = .next t ∧ wrote r s t ((old r).putS x.a.toNat (.ok 1))) ∧
    (1024 ≤ n → r.t.paired = true → r.lanes ≠ [] →
      ∃ t g, exec (.tidset x) s = .next t ∧ passed r s t g ∧ sameRest r.g g ∧
        Regs.same (regsOf g) ((old r).putS x.a.toNat (.ok 1)) ∧
        ∀ l, g.thread l = if l = r.lanes.headD 0 then
          { r.g.thread l with sig := BitVec.ofNat 64 (crcFeed (r.g.thread l).sig.toNat [1]) } else r.g.thread l) ∧
    (n < 1024 → b % 64 ≠ 0 → exec (.tidset x) s = .next (r.fault 4 (b % 2 ^ 56)))) ∧
  (∀ (x : One) (s : State) (r : Run) (n : Nat), issueOf (.tidinv x) s = some r → r.g.readS x.b.toNat 64 = .ok n →
    r.t.paired = false →
    (1024 ≤ n → ∃ t, exec (.tidinv x) s = .next t ∧ wrote r s t ((old r).putS x.a.toNat (.ok 1))) ∧
    (∀ u, n < 1024 → looks r (coreOfPath r) s u n (.ok none) →
      ∃ t, exec (.tidinv x) s = .next t ∧ wrote r u t ((old r).putS x.a.toNat (.ok 3))) ∧
    (∀ u w, n < 1024 → looks r (coreOfPath r) s u n (.ok (some w)) → r.t.contained = false →
      tidMayWrite u (coreOfPath r) r.t.bind.cid n = true →
      ∃ t, exec (.tidinv x) s = .next t ∧
        wrote r (tidWrite u (coreOfPath r) r.t.bind.cid r.t.bind.icn n [] false) t ((old r).putS x.a.toNat (.ok 0)))) ∧
  (∀ (x : Std) (s : State) (r : Run) (n : Nat), issueOf (.tidq x) s = some r → r.barrierNum x = .ok n →
    (∀ u w, looks r (coreOfPath r) s u n (.ok (some w)) →
      ∃ t, exec (.tidq x) s = .next t ∧ wrote r u t ((old r).putS x.a.toNat (.ok (w / 2 ^ (64 * x.f.toNat) % 2 ^ 64)))) ∧
    (∀ u, looks r (coreOfPath r) s u n (.ok none) →
      ∃ t, exec (.tidq x) s = .next t ∧ wrote r u t ((old r).putS x.a.toNat (.ok 0))) ∧
    (∀ u c, looks r (coreOfPath r) s u n (.error c) → exec (.tidq x) s = .next (r.faultIn u { code := c }))) ∧
  (∀ (x : Std) (s : State) (r : Run) (n : Nat), issueOf (.tidqState x) s = some r → r.barrierNum x = .ok n →
    (1024 ≤ n → ∃ t, exec (.tidqState x) s = .next t ∧ wrote r s t ((old r).putS x.a.toNat (.ok 2))) ∧
    (∀ u v, n < 1024 → looks r (coreOfPath r) s u n (.ok v) →
      ∃ t, exec (.tidqState x) s = .next t ∧ wrote r u t ((old r).putS x.a.toNat (.ok (if v.isSome then 1 else 0))))) ∧
  (∀ x, raises (.tidset x) fun r => r.g.readS x.b.toNat 64) ∧ (∀ x, raises (.tidinv x) fun r => r.g.readS x.b.toNat 64) ∧
  (∀ x, raises (.tidq x) fun r => r.barrierNum x) ∧ (∀ x, raises (.tidqState x) fun r => r.barrierNum x)

/-- R237 to R239, R250: a valid identifier is one whose state has VALID and the context's incarnation; an identifier past 1023
is never valid; a core holds a record once it has filled it, and a hit gives that record unless the entry has been
replaced; a write of an identifier drops it from every cache, and after tidinv's write in memory none is valid. -/
def identifierValidity : Prop :=
  (∀ (s : State) (m : Master) (cid n : Nat), 1024 ≤ n → tidFill s m cid n = .ok none) ∧
  (∀ (s : State) (m : Master) (cid n st : Nat), n < 1024 → tidRead s m (tidStatePa s cid n) 2 = .ok st →
    ((bitB st 15 = false ∨ st % 256 ≠ (ctxOf s cid).icn) → tidFill s m cid n = .ok none) ∧
    (bitB st 15 = true → st % 256 = (ctxOf s cid).icn →
      ∀ w, tidRead s m (tidRecPa s cid n) 64 = .ok w → tidFill s m cid n = .ok (some w))) ∧
  (∀ (s : State) (m : Master) (cid icn n : Nat), n < 1024 → icn < 256 → tidMayWrite s m cid n = true →
    inCtxTable s (tidStatePa s cid n) = false → inCtxTable s (tidStatePa s cid n + 1) = false →
    bitB (physNat (tidWrite s m cid icn n [] false) (tidStatePa s cid n) 2) 15 = false) ∧
  (∀ (s : State) (core : Nat) (m : Master) (cid n w : Nat),
    (mfind (idKey core cid n) s.ids = none → tidFill s m cid n = .ok (some w) →
      (tidLook s core m cid n).2 = .ok (some w) ∧ mfind (idKey core cid n) (tidLook s core m cid n).1.ids = some w) ∧
    (mfind (idKey core cid n) s.ids = some w →
      (tidLook s core m cid n).2 = .ok (some w) ∨ (tidLook s core m cid n).2 = tidFill s m cid n)) ∧
  (∀ (s : State) (m : Master) (core cid icn n : Nat) (ws : List DWord) (v : Bool), cid < 1024 → n < 1024 →
    mfind (idKey core cid n) (tidWrite s m cid icn n ws v).ids = none)

end Sys2Proof.Claims

namespace Sys2Proof.Claims

open Sys2Proof Sys2Proof.Machine Sys2Proof.Safety

/-! ## Collectives (18_fabric.md) -/

/-- The fields of a declaration (R325). -/
def declTag (d : Nat) : Nat := d % 2 ^ 32
def declSize (d : Nat) : Nat := d / 2 ^ 32 % 2 ^ 7
def declRank (d : Nat) : Nat := d / 2 ^ 40 % 2 ^ 8

/-- A declaration is well formed: no reserved bit, a size up to 64, and a rank below it. -/
def declOk (d : Nat) : Prop := d / 2 ^ 48 = 0 ∧ bitB d 39 = false ∧ declSize d ≤ 64 ∧ declRank d < declSize d

/-- No slot of the path is busy: the one named has no operation outstanding, if it is bound. -/
def slotIdle (r : Run) (k : Nat) : Prop := ∀ sl, mfind k r.t.slots = some sl → r.slotBusy k sl = 0

/-- A collective operation with its kind. -/
def collForms : List ((Std → Instr) × ColKind) := [(.colag, .gather), (.colrs, .reduce), (.colaa, .all), (.colbar, .barrier)]

/-- Source, destination and size of an operation: three registers from B on, none for a barrier (R327). -/
def collOps (r : Run) (x : Std) (k : ColKind) (src dst m : Nat) : Prop :=
  if k == .barrier then src = 0 ∧ dst = 0 ∧ m = 0
  else ∃ a b, r.g.readS x.b.toNat 64 = .ok a ∧ r.g.readS (x.b.toNat + 1) 64 = .ok b ∧ r.g.readS (x.b.toNat + 2) 64 = .ok m ∧
    src = a % 2 ^ 56 ∧ dst = b % 2 ^ 56

/-- Bytes of the source and the destination of a rank (R327). -/
def collBytes (k : ColKind) (n m : Nat) : Nat × Nat :=
  match k with
  | .gather => (m, n * m) | .all => (n * m, n * m) | .reduce => (n * m, m) | .barrier => (0, 0)

/-! ## Surfaces (16_surfaces.md) -/

/-- An operation of the path has been sent to the bricks with an entry for every active lane; nothing else has changed. -/
def surfSent (r : Run) (s u : State) (i : Instr) (k : SurfKind) (x : Std) (regs : Nat) (op : SurfOp) : Prop :=
  u = { s with sfops := mput s.nextId op s.sfops, nextId := s.nextId + 1 } ∧
  op = { team := r.tid, group := r.gnum, path := r.path, cid := r.t.bind.cid, icn := r.t.bind.icn, kind := k, f := x.f.toNat
         a := x.a.toNat, regs := regs, spec := x.spec, ftz := r.g.ftz, words := (encode i).map BitVec.toNat, order := r.g.sequence
         lanes := r.act.map fun l => (r.surfCheck k x regs l).1 }

/-- The operands of a lane of a surface operation, in reading order. -/
def surfSrcs (r : Run) (k : SurfKind) (x : Std) (regs l : Nat) : List (PV Nat) :=
  [r.g.readV x.b.toNat l 1, r.g.operand x.c 64 l] ++
    (match k with
      | .load => []
      | .depth => [r.g.operand x.e 32 l]
      | _ => [r.g.readV x.a.toNat l regs])

/-- sfblend and sfst, sfld and sfdepth: with every lane's checks of R286 passed the operation is sent, the writing forms
passing at once and the reading ones waiting for their result. -/
def surfRuns (i : Std → Instr) (k : SurfKind) (regs : Std → Nat) : Prop :=
  (∀ (x : Std) (s : State) (r : Run), issueOf (i x) s = some r → r.act.isEmpty = true →
    ∃ t, exec (i x) s = .next t ∧ wrote r s t (old r)) ∧
  (∀ (x : Std) (s : State) (r : Run), issueOf (i x) s = some r → r.act.isEmpty = false → r.inWindow = true →
    r.t.paired = false → r.t.contained = false →
    (k ≠ .load → ∀ l ∈ r.act, firstTok (surfSrcs r k x (regs x) l) = none) →
    (∀ l ∈ r.act, (r.surfCheck k x (regs x) l).2 = 0) →
    ∃ t u op, exec (i x) s = .next t ∧ surfSent r s u (i x) k x (regs x) op ∧
      if k == .store || k == .blend then wrote r u t (old r) else waits r u t (.result s.nextId)) ∧
  (∀ (x : Std) (s : State) (r : Run), issueOf (i x) s = some r → r.act.isEmpty = false → r.inWindow = false →
    ∃ t, exec (i x) s = .next t ∧ waits r s t .room)

/-- The entry of a live surface of the context, readable by the path's core (R286, R291). -/
def surfaceLive (r : Run) (s : State) (n : Nat) : Prop :=
  n < 1024 ∧ sfReadCode s (coreOfPath r) r.t.bind.cid n = 0 ∧ sfLive s r.t.bind.cid n = true

/-- The core may write the bytes of a surface table entry from `off` on (R387). -/
def tableWrite (r : Run) (s t : State) (n off : Nat) (bs : List Byte) : Prop :=
  hwWrite s (coreOfPath r) (sfEntry s r.t.bind.cid n + off) bs = (t, true)

/-- sffree, sfpin, sfpin.unpin and sfevict answer 6 for a number past 1023 and 4 for a surface that is not live (R291). -/
def surfaceFront (i : Std → Instr) : Prop :=
  (∀ (x : Std) (s : State) (r : Run) (n : Nat), issueOf (i x) s = some r → r.barrierNum x = .ok n →
    (1024 ≤ n → ∃ t, exec (i x) s = .next t ∧ wrote r s t ((old r).putS x.a.toNat (.ok 6))) ∧
    (n < 1024 → sfReadCode s (coreOfPath r) r.t.bind.cid n = 0 → sfLive s r.t.bind.cid n = false →
      r.g.waitOf r.path ≠ .freeing n → ∃ t, exec (i x) s = .next t ∧ wrote r s t ((old r).putS x.a.toNat (.ok 4)))) ∧
  (∀ x, raises (i x) fun r => r.barrierNum x)

/-! ## Footing (17_footing.md) -/

/-- Room in the vertical queue: 32 entries per core, 8 per group, those of pushes in store buffers among them (R292). -/
def vqHasRoom (r : Run) (s : State) : Prop :=
  let mine := ((s.texops.filter fun e => e.2.core == r.t.core).map fun e => (e.2.team, e.2.group)) ++
    ((s.pushes.filter fun e => e.2.core == r.t.core).map fun e => (e.2.team, e.2.group)) ++
    (s.teams.filter fun t => t.2.core == r.t.core).flatMap fun t => (t.2.items.filter Item.isPush).map fun i => (t.1, i.group)
  mine.length < 32 ∧ (mine.filter fun e => e == (r.tid, r.gnum)).length < 8

/-- vqpush and rsbind by a geometry team of a draw, with room, read 64 bytes at issue and send them to the
sequencer with their ordinal (R295, R298); at or beyond NEXT + 1024 the path waits until the push has left the queue (R296). -/
def pushRuns (i : Std → Instr) (bind : Bool) : Prop :=
  (∀ (x : Std) (s t : State) (r : Run) (b k : Nat) (d : Draw) (n : Inst) (ws : List DWord), issueOf (i x) s = some r →
    (r.g.waitOf r.path).isPush = false → vqHasRoom r s → r.g.readS x.b.toNat 64 = .ok b → r.g.operand x.c 64 0 = .ok k →
    bitB r.t.bind.tx 31 = false → mfind r.t.bind.ticket s.insts = some n → n.draw = some d → b % 64 = 0 →
    r.t.paired = false → r.t.contained = false → r.readOwn s (b % 2 ^ 56) 8 = (t, .ok ws) →
    let sent := { t with
      pushes := mput t.nextId { team := r.tid, group := r.gnum, core := r.t.core, ticket := r.t.bind.ticket, ordinal := k % 2 ^ 32
                                data := ofBytes (ws.flatMap fun w => toBytes 8 w.toNat), bind := bind } t.pushes
      nextId := t.nextId + 1 }
    (k % 2 ^ 32 < d.next + 1024 → ∃ u, exec (i x) s = .next u ∧ wrote r sent u (old r)) ∧
    (d.next + 1024 ≤ k % 2 ^ 32 → ∃ u, exec (i x) s = .next u ∧ waits r sent u (.pushed t.nextId))) ∧
  (∀ (x : Std) (s : State) (r : Run), issueOf (i x) s = some r → (r.g.waitOf r.path).isPush = true →
    ∃ u, exec (i x) s = .next u ∧ wrote r s u (old r)) ∧
  (∀ (x : Std) (s : State) (r : Run), issueOf (i x) s = some r → (r.g.waitOf r.path).isPush = false → ¬vqHasRoom r s →
    ∃ t, exec (i x) s = .next t ∧ waits r s t .room) ∧
  (∀ (x : Std) (s : State) (r : Run) (b k : Nat), issueOf (i x) s = some r → (r.g.waitOf r.path).isPush = false → vqHasRoom r s →
    r.g.readS x.b.toNat 64 = .ok b → r.g.operand x.c 64 0 = .ok k →
    (bitB r.t.bind.tx 31 = true ∨ ∀ n, mfind r.t.bind.ticket s.insts = some n → n.draw = none) →
    exec (i x) s = .next (r.fault 0x0B))

/-- A texture operation's lanes: the operands of each active lane, or its first poison. -/
def texLanes (r : Run) (ops : Nat → List (PV Nat)) : List (Nat × PV (List Nat)) :=
  r.act.map fun l => (l, match firstTok (ops l) with
    | some t => .bad t
    | none => .ok ((ops l).map PV.val))

/-- u, v and the layer of a lane (R308). -/
def texCoords (r : Run) (x : Std) (l : Nat) : List (PV Nat) :=
  [r.g.readV x.b.toNat l 1, r.g.readV (x.b.toNat + 1) l 1, r.g.readV (x.b.toNat + 2) l 1]

/-- An operation has been put into the vertical queue. -/
def texQueued (s u : State) (op : TexOp) : Prop :=
  u = { s with texops := mput s.nextId op s.texops, nextId := s.nextId + 1 }

/-- A descriptor of KIND 2 names an identifier, which is looked up once, at issue: its record, or the code that the lanes
get (R251, R307, log 79). -/
def imageRecord (r : Run) (d : Nat) (t t' : State) (rec_ code : Nat) : Prop :=
  if texKindOf d = 2 then
    (looks r (whoEngine t r.tid 3).master t t' (fieldAt d 0 8) (.ok (some rec_)) ∧ code = 0) ∨
    (looks r (whoEngine t r.tid 3).master t t' (fieldAt d 0 8) (.ok none) ∧ rec_ = 0 ∧ code = 1) ∨
    (looks r (whoEngine t r.tid 3).master t t' (fieldAt d 0 8) (.error code) ∧ rec_ = 0)
  else t' = t ∧ rec_ = 0 ∧ code = 0

/-- tex, texg and texq with room read their descriptor, and with a well-formed one queue the operation and wait for its
results; poison in the descriptor's address passes on, and a malformed descriptor is Fault(0x0B) (R309 to R311). -/
def texRuns (i : Std → Instr) (k : TexKind) (regs : Nat) (ops : Run → Std → Nat → List (PV Nat)) : Prop :=
  (∀ (x : Std) (s t : State) (r : Run) (v : Nat) (bs : List Byte), issueOf (i x) s = some r → r.act.isEmpty = false →
    vqHasRoom r s → r.g.operand x.c 64 0 = .ok v → v % 32 = 0 →
    readDesc s r.who (v % 2 ^ 56) (List.range 8) = (t, .ok bs) →
    let d := ofBytes (r.overlay r.act (v % 2 ^ 56) bs)
    (∀ t' rec_ code, texMalformed d = false → imageRecord r d t t' rec_ code →
      ∃ u w op, exec (i x) s = .next u ∧ texQueued t' w op ∧ waits r w u (.result t'.nextId) ∧ op.rec_ = rec_ ∧ op.recCode = code ∧
      op.team = r.tid ∧ op.group = r.gnum ∧ op.path = r.path ∧ op.core = r.t.core ∧ op.kind = k ∧ op.a = x.a.toNat ∧
      op.spec = x.spec ∧ op.f = x.f.toNat ∧ op.desc = d ∧ op.lanes = texLanes r (ops r x)) ∧
    (texMalformed d = true → x.spec = false →
      exec (i x) s = .next (r.faultIn t { code := 0x0B, addr := v % 2 ^ 56 }))) ∧
  (∀ (x : Std) (s : State) (r : Run) (tok : Word), issueOf (i x) s = some r → r.act.isEmpty = false → vqHasRoom r s →
    r.g.operand x.c 64 0 = .bad tok →
    ∃ t, exec (i x) s = .next t ∧ wrote r s t ((old r).putV r.act x.a.toNat regs fun _ => .bad tok)) ∧
  (∀ (x : Std) (s : State) (r : Run) (v : Nat), issueOf (i x) s = some r → r.act.isEmpty = false → vqHasRoom r s →
    r.g.operand x.c 64 0 = .ok v → v % 32 ≠ 0 → x.spec = false → exec (i x) s = .next (r.fault 4 (v % 2 ^ 56))) ∧
  (∀ (x : Std) (s : State) (r : Run), issueOf (i x) s = some r → r.act.isEmpty = true →
    ∃ t, exec (i x) s = .next t ∧ wrote r s t (old r))

/-! ## Contexts and translations (02_contexts.md, 12_translation.md) -/

/-- One message to every target that the incarnation of a CID is live, or is not (R42, R45, R52). -/
def messages (s : State) (cid icn : Nat) (live : Bool) : List (Nat × Update) :=
  allTargets.mapIdx fun i g => (s.nextId + i, { target := g, cid := cid, icn := icn, live := live })

/-- The word that ckill and crcl give: the status, the incarnation and the state (R59). -/
def ctxAnswer (st icn state : Nat) : Nat := st + icn * 0x100 + state * 0x10000

/-- The path passes with an answer after a release and an acquire at sys scope. -/
def answers (i : One → Instr) (x : One) (s : State) (r q : Run) (word : Nat) : Prop :=
  ∃ t, exec (i x) s = .next t ∧ wrote r (acquire q.s q.who .sys) t ((old r).putS x.a.toNat (.ok word))

/-- What ckill and crcl answer without an effect: 5 for reserved bits, 3 for CID 0, 2 for a CLOSED one, and a status of the
form for one in a state in which it does nothing (R58, R60, Table 2.5). -/
def ctxFront (i : One → Instr) (reserved : Nat → Prop) (st code : Nat) : Prop :=
  (∀ (x : One) (s : State) (r q : Run) (v : DWord), issueOf (i x) s = some r → r.g.getS x.b.toNat = .ok v →
    r.t.paired = false → r.t.contained = false → released r q .rel .sys →
    let cid := v.toNat % 1024
    let c := ctxOf q.s cid
    (reserved v.toNat → answers i x s r q (ctxAnswer 5 0 0)) ∧
    (¬reserved v.toNat → cid = 0 → answers i x s r q (ctxAnswer 3 0 0)) ∧
    (¬reserved v.toNat → cid ≠ 0 → inTransition q.s cid = true →
      ∃ t, exec (i x) s = .next t ∧ onlyGroup q.s t r.tid r.gnum ∧ (groupAt t r.tid r.gnum).waitOf r.path = .context cid) ∧
    (¬reserved v.toNat → cid ≠ 0 → inTransition q.s cid = false → c.state = 0 → answers i x s r q (ctxAnswer 2 c.icn 0)) ∧
    (¬reserved v.toNat → cid ≠ 0 → inTransition q.s cid = false → c.state = st → st ≠ 0 →
      answers i x s r q (ctxAnswer code c.icn st))) ∧
  (∀ (x : One) (s : State) (r : Run) (tok : Word), issueOf (i x) s = some r → r.g.getS x.b.toNat = .bad tok →
    exec (i x) s = .next (r.raise tok))

/-- The four forms of tlbinv: what they read, and the extents they cover (R224). -/
structure TlbForm where
  instr : Std → Instr
  /-- the statuses that do nothing -/
  refuses : Run → Std → Nat → Prop
  extents : Run → Std → State → List Extent → Prop

/-- The CID of S[C], where its upper bits are zero. -/
def cidOperand (r : Run) (x : Std) (c : Nat) : Prop := r.g.operand x.c 64 0 = .ok c ∧ c < 1024

/-- tlbinv.page, .range, .cid and .all. -/
def tlbForms : List TlbForm :=
  [{ instr := .tlbinvPage
     refuses := fun r x st => ∃ b c, r.g.getS x.b.toNat = .ok b ∧ r.g.operand x.c 64 0 = .ok c ∧
       ((st = 1 ∧ 1024 ≤ c) ∨ (st = 2 ∧ c < 1024 ∧ isLocal (b.toNat % 2 ^ 56) = true))
     extents := fun r x s es => ∃ b c, r.g.getS x.b.toNat = .ok b ∧ cidOperand r x c ∧ isLocal (b.toNat % 2 ^ 56) = false ∧
       es = pagesOf s { cls := 0, idx := r.t.core } c (b.toNat % 2 ^ 56) },
   { instr := .tlbinvRange
     refuses := fun r x st => ∃ b c n, r.g.getS x.b.toNat = .ok b ∧ r.g.operand x.c 64 0 = .ok c ∧ r.g.operand x.e 64 0 = .ok n ∧
       ((st = 1 ∧ 1024 ≤ c) ∨ (st = 2 ∧ c < 1024 ∧
         (isLocal (b.toNat % 2 ^ 56) = true ∨ n = 0 ∨ 2 ^ 56 < b.toNat % 2 ^ 56 + n)))
     extents := fun r x s es => ∃ b c n, r.g.getS x.b.toNat = .ok b ∧ cidOperand r x c ∧ r.g.operand x.e 64 0 = .ok n ∧
       isLocal (b.toNat % 2 ^ 56) = false ∧ n ≠ 0 ∧ b.toNat % 2 ^ 56 + n ≤ 2 ^ 56 ∧
       es = { cid := some c, lo := b.toNat % 2 ^ 56, hi := b.toNat % 2 ^ 56 + n } ::
         (pagesOf s { cls := 0, idx := r.t.core } c (b.toNat % 2 ^ 56) ++
           pagesOf s { cls := 0, idx := r.t.core } c (b.toNat % 2 ^ 56 + n - 1)) },
   { instr := .tlbinvCid
     refuses := fun r x st => ∃ c, r.g.operand x.c 64 0 = .ok c ∧ st = 1 ∧ 1024 ≤ c
     extents := fun r x _ es => ∃ c, cidOperand r x c ∧ es = [{ cid := some c, lo := 0, hi := 2 ^ 56 }] },
   { instr := .tlbinvAll
     refuses := fun _ _ _ => False
     extents := fun _ _ _ es => es = [{ cid := none, lo := 0, hi := 2 ^ 56 }] }]

/-- Does a translation of the extents remain in a TLB or a non-leaf cache? -/
def holdsTranslation (s : State) (es : List Extent) : Prop :=
  (∃ e ∈ s.tlb, Tlb.within e es = true) ∨ (∃ e ∈ s.nonLeaf, Tlb.over e es = true)

/-- R324, R325: coldecl on an idle slot binds it where the declaration is well formed and its rank is free, unbinds it for 0,
and gives its status; a busy slot gives 1 and a malformed declaration 2, with nothing changed. -/
def collectiveDeclarations : Prop :=
  (∀ (x : Std) (s : State) (r : Run) (d : Nat), issueOf (.coldecl x) s = some r → r.g.readS x.b.toNat 64 = .ok d →
    let k := srcNum x.c
    ((∃ sl, mfind k r.t.slots = some sl ∧ r.slotBusy k sl ≠ 0) →
      ∃ t, exec (.coldecl x) s = .next t ∧ wrote r s t ((old r).putS x.a.toNat (.ok 1))) ∧
    (slotIdle r k → d ≠ 0 → ¬declOk d →
      ∃ t, exec (.coldecl x) s = .next t ∧ wrote r s t ((old r).putS x.a.toNat (.ok 2))) ∧
    (slotIdle r k → d = 0 → r.t.paired = false → r.t.contained = false →
      ∃ t, exec (.coldecl x) s = .next t ∧
        wrote r (modTeam (performDecl s r.tid k 0 0 0) r.tid fun u => { u with slots := merase k r.t.slots }) t
          ((old r).putS x.a.toNat (.ok 0))) ∧
    (slotIdle r k → d ≠ 0 → declOk d → r.t.paired = false → r.t.contained = false →
      (∀ sl, mfind k r.t.slots = some sl → (sl.tag, sl.size, sl.rank) ≠ (declTag d, declSize d, declRank d)) →
      (∀ c g, colGroupOf s r.t.bind.cid (declTag d) = some (c, g) → g.size = declSize d ∧ mfind (declRank d) g.members = none) →
      (colGroupOf s r.t.bind.cid (declTag d) = none → (s.colGroups.filter fun e => e.2.die == r.t.core / 128).length < 256) →
      ∃ t, exec (.coldecl x) s = .next t ∧
        wrote r (modTeam (performDecl s r.tid k (declTag d) (declSize d) (declRank d)) r.tid fun u =>
          { u with slots := mput k { tag := declTag d, size := declSize d, rank := declRank d } r.t.slots }) t
          ((old r).putS x.a.toNat (.ok 0)))) ∧
  (∀ x, raises (.coldecl x) fun r => r.g.readS x.b.toNat 64)

/-- R327, R329: colag, colrs, colaa and colbar on a bound slot with room, aligned operands and passed checks release at pkg
scope, take a handle, which S[A] holds pending, and send the operation with the slot's next number to the collective
unit; an unbound slot is Fault(0x0C). -/
def collectiveOperations : Prop :=
  ∀ o ∈ collForms,
    (∀ (x : Std) (s : State) (r q : Run) (sl : ColSlot) (src dst m e : Nat), issueOf (o.1 x) s = some r →
      mfind (srcNum x.c) r.t.slots = some sl → collOps r x o.2 src dst m → r.slotBusy (srcNum x.c) sl < 4 →
      m < 2 ^ 32 → sl.size * m < 2 ^ 32 → src % 16 = 0 → dst % 16 = 0 → m % 16 = 0 →
      r.t.meetsWindow src (collBytes o.2 sl.size m).1 = false → r.t.meetsWindow dst (collBytes o.2 sl.size m).2 = false →
      badPage s r.who src (collBytes o.2 sl.size m).1 .read = none →
      badPage s r.who dst (collBytes o.2 sl.size m).2 .write = none → r.t.paired = false → r.t.contained = false →
      handleFor r e → released r q .rel .pkg →
      ∃ t, exec (o.1 x) s = .next t ∧
        wrote r (performColl (modTeam q.s r.tid fun k =>
            { k with hseq := nextSeq r, handles := mput e { kind := 2, seq := nextSeq r } r.t.handles
                     slots := mput (srcNum x.c) { sl with next := sl.next + 1 } k.slots })
          r.tid (srcNum x.c) sl.rank sl.next sl.tag
          { team := r.tid, group := r.gnum, handles := [(r.tid, e, nextSeq r)], op := o.2, ty := x.ty, f := x.f.toNat
            src := src, dst := dst, m := m }) t
          ((old r).putHandle x.a.toNat (2 * 2 ^ 60 + e * 2 ^ 32 + nextSeq r))) ∧
    (∀ (x : Std) (s : State) (r : Run) (src dst m : Nat), issueOf (o.1 x) s = some r → collOps r x o.2 src dst m →
      mfind (srcNum x.c) r.t.slots = none → exec (o.1 x) s = .next (r.fault 0x0C))

/-- R321: cprio sets the team's class where the context may use it, and gives the old class with a status: 1 for a class the
context may not use, 2 for one past 7. -/
def classChanges : Prop :=
  (∀ (x : Std) (s : State) (r : Run) (k : Nat), issueOf (.cprio x) s = some r → r.g.operand x.c 64 0 = .ok k →
    (k ≤ 7 → bitB (ctxOf s r.t.bind.cid).classes k = true →
      ∃ t, exec (.cprio x) s = .next t ∧
        wrote r (modTeam s r.tid fun u => { u with cls := k }) t ((old r).putS x.a.toNat (.ok (r.t.cls * 0x100)))) ∧
    (k ≤ 7 → bitB (ctxOf s r.t.bind.cid).classes k = false →
      ∃ t, exec (.cprio x) s = .next t ∧ wrote r s t ((old r).putS x.a.toNat (.ok (1 + r.t.cls * 0x100)))) ∧
    (8 ≤ k → ∃ t, exec (.cprio x) s = .next t ∧ wrote r s t ((old r).putS x.a.toNat (.ok (2 + r.t.cls * 0x100))))) ∧
  (∀ x, raises (.cprio x) fun r => r.g.operand x.c 64 0)

/-- R282, R286 to R289: sfblend, sfdepth, sfld and sfst send their operation to the bricks, sfblend and sfst passing at once
and sfld and sfdepth waiting for their results. -/
def surfaceOperations : Prop :=
  surfRuns .sfblend .blend (fun _ => 4) ∧ surfRuns .sfdepth .depth (fun _ => 1) ∧
  surfRuns .sfld .load (fun x => 2 ^ (x.f.toNat % 4)) ∧ surfRuns .sfst .store (fun x => 2 ^ (x.f.toNat % 4))

/-- R286: the checks of a lane's coordinate and selector in their order: reserved bits, a live surface, the extents, the
format, and the screen tile of a pixel group. -/
def surfaceChecks : Prop :=
  ∀ (r : Run) (k : SurfKind) (f coord sel : Nat),
    let cid := r.t.bind.cid
    let sid := sel % 1024
    let layer := sel / 2 ^ 16 % 2 ^ 11
    let inside := coord % 2 ^ 14 < sfField r.s cid sid 8 2 ∧ coord / 2 ^ 14 % 2 ^ 14 < sfField r.s cid sid 0xA 2 ∧
      layer < sfField r.s cid sid 0xC 2 ∧ coord / 2 ^ 28 % 4 < sfField r.s cid sid 0xE 1
    ((coord / 2 ^ 30 % 4 ≠ 0 ∨ sel ≠ sid + layer * 2 ^ 16) → r.surfCode k f coord sel = 0x0A) ∧
    (coord / 2 ^ 30 % 4 = 0 → sel = sid + layer * 2 ^ 16 → sfReadCode r.s (coreOfPath r) cid sid = 0 →
      (sfLive r.s cid sid = false → r.surfCode k f coord sel = 0x0B) ∧
      (sfLive r.s cid sid = true → ¬inside → r.surfCode k f coord sel = 0x0A) ∧
      (sfLive r.s cid sid = true → inside → kindFits k f (sfField r.s cid sid 0xF 1) = true → r.g.pixel = none →
        r.surfCode k f coord sel = 0) ∧
      (sfLive r.s cid sid = true → inside → kindFits k f (sfField r.s cid sid 0xF 1) = false →
        r.surfCode k f coord sel = 0x0B))

/-- R292 to R298: vqpush and rsbind send their 64 bytes with their ordinal to the sequencer; vqfence waits until no footing
work of its group is unfinished. -/
def verticalQueue : Prop :=
  pushRuns .vqpush false ∧ pushRuns .rsbind true ∧
  (∀ (x : One) (s : State) (r : Run), issueOf (.vqfence x) s = some r →
    (groupFooting s r.tid r.gnum = true → ∃ t, exec (.vqfence x) s = .next t ∧ waits r s t .footing) ∧
    (groupFooting s r.tid r.gnum = false → (groupAt (collectReports s r.tid r.gnum) r.tid r.gnum).reportCode ≠ 5 →
      ∃ t, exec (.vqfence x) s = .next t ∧
        passed r (collectReports s r.tid r.gnum) t (groupAt (collectReports s r.tid r.gnum) r.tid r.gnum)))

/-- R307 to R313: tex, texg and texq queue their lanes' operands with the descriptor, and trace its rays, and the path waits
for the results. -/
def texturesAndRays : Prop :=
  texRuns .tex .tex 4 (fun r x l =>
    let at_ := fun (j : Nat) =>
      [r.g.acrossV r.s.tick r.lanes x.b.toNat j 1, r.g.acrossV r.s.tick r.lanes (x.b.toNat + 1) j 1]
    texCoords r x l ++ at_ (l / 4 * 4 + 1) ++ at_ (l / 4 * 4 + 2) ++ at_ (l / 4 * 4)) ∧
  texRuns .texg .texg 4 (fun r x l => texCoords r x l ++
    [r.g.readV (srcNum x.e) l 1, r.g.readV (srcNum x.e + 1) l 1, r.g.readV (srcNum x.e + 2) l 1, r.g.readV (srcNum x.e + 3) l 1]) ∧
  texRuns .texq .texq 1 (fun r x l => [r.g.operand x.e 32 l]) ∧
  (∀ (x : Std) (s : State) (r : Run), issueOf (.trace x) s = some r → r.act.isEmpty = false → vqHasRoom r s →
    ∃ t u op, exec (.trace x) s = .next t ∧ texQueued s u op ∧ waits r u t (.result s.nextId) ∧ op.team = r.tid ∧
      op.group = r.gnum ∧ op.path = r.path ∧ op.kind = .trace ∧ op.a = x.a.toNat ∧ op.mask = srcNum x.e ∧
      (∀ v, r.g.operand x.c 64 0 = .ok v → op.desc = v % 2 ^ 56) ∧
      op.lanes = r.act.map fun l =>
        let ray := (List.range 8).map fun i => r.g.readV (x.b.toNat + i) l 1
        (l, match firstTok (ray ++ [r.g.operand x.c 64 0]) with
          | some tok => .bad tok
          | none => .ok (ray.map PV.val))) ∧
  (∀ (x : Std) (s : State) (r : Run), issueOf (.trace x) s = some r → r.act.isEmpty = true →
    ∃ t, exec (.trace x) s = .next t ∧ wrote r s t (old r))

/-- R224: the forms of tlbinv, between a release and an acquire at sys scope, remove every translation of their extents from
every TLB and non-leaf cache, and S[A] takes the number of fault-queue entries that they release; the statuses for
operands that name no context or range do nothing else. -/
def translationInvalidation : Prop :=
  ∀ o ∈ tlbForms,
    (∀ (x : Std) (s : State) (r q : Run) (es : List Extent), issueOf (o.instr x) s = some r → r.t.paired = false →
      r.t.contained = false → released r q .rel .sys → o.extents r x q.s es →
      ((dropTranslations q.s es).copies.any fun c => c.2.uses es) = false →
      let u := performAll (dropTranslations q.s es)
      let n := (coveredEntries u es).length
      ∃ t g, exec (o.instr x) s = .next t ∧ ¬holdsTranslation t es ∧
        passed r (acquire (releaseEntries u (coveredEntries u es) (x.f.getLsbD 2)) q.who .sys) t g ∧
        sameRest { r.g with redirected := g.redirected, swapped := g.swapped } g ∧ (∀ l, g.thread l = r.g.thread l) ∧
        Regs.same (regsOf g) ((old r).putS x.a.toNat (.ok (min n 0xFFFF * 0x10000)))) ∧
    (∀ (x : Std) (s : State) (r q : Run) (st : Nat), issueOf (o.instr x) s = some r → r.t.paired = false →
      r.t.contained = false → released r q .rel .sys → o.refuses r x st →
      ∃ t, exec (o.instr x) s = .next t ∧ wrote r (acquire q.s q.who .sys) t ((old r).putS x.a.toNat (.ok st)))

/-- R225, Table 12.6: pgprobe gives what a walk finds: of a page its device, frame, level, type and permissions with status 0;
of a failure its level and status; 5 for a CID past 1023 or CLOSED, 6 for a local address. The path's own earlier writes are
performed first; beside that no register else and no byte of memory changes, and a denied read is logged. -/
def pageProbes : Prop :=
  ∀ (x : Std) (s : State) (r : Run) (b : DWord) (c : Nat), issueOf (.pgprobe x) s = some r → r.g.getS x.b.toNat = .ok b →
    r.g.operand x.c 64 0 = .ok c →
    let va := b.toNat % 2 ^ 56
    let u := flushFor (acquire s r.who .pkg) r.t.core r.tid r.who.threads
    ∃ t w, exec (.pgprobe x) s = .next t ∧ t.mem = u.mem ∧
      wrote r (if w % 8 = 4 then logWalk u none (coreOfPath r) c va else u) t ((old r).putS x.a.toNat (.ok w)) ∧
      ((1024 ≤ c ∨ (ctxOf s (c % 1024)).state = 0) → w = 5) ∧
      (c < 1024 → (ctxOf s c).state ≠ 0 → isLocal va = true → w = 6) ∧
      (c < 1024 → (ctxOf s c).state ≠ 0 → isLocal va = false →
        (∀ e l, walk u (coreOfPath r) c va = .page e l →
          w = pteDev e * 2 ^ 52 + leafPa e l va / 2 ^ 14 * 2 ^ 14 + l * 2 ^ 12 + pteType e * 2 ^ 10 +
            (if bitB e 8 then 2 ^ 9 else 0) + (if pteX e then 2 ^ 8 else 0) + (if pteW e then 2 ^ 7 else 0) +
            (if pteR e then 2 ^ 6 else 0)) ∧
        (∀ k mal l, walk u (coreOfPath r) c va = .fail k mal l →
          w = l * 2 ^ 12 + (if k = 5 then 3 else if k = 3 then 4 else if mal then 2 else 1)))

end Sys2Proof.Claims

namespace Sys2Proof.Claims

open Sys2Proof Sys2Proof.Machine Sys2Proof.Safety

/-! ## Contexts (02_contexts.md) -/

/-- The management core acts: its firmware has not failed its check, and no fatal error has occurred (R369, R374). -/
def awake (s : State) : Prop := bitB s.ctl.bootstat 1 = false ∧ s.ctl.fatal = false

/-- May the writer start the command (R43): firmware any; the host an OPEN in host-assisted mode, and the others for a
context whose kills it serves. -/
def mayCommand (s : State) (op cid : Nat) (host : Bool) : Prop :=
  host = false ∨ (op = 1 ∧ bitB s.ctl.hmode 0 = true) ∨ (2 ≤ op ∧ op ≤ 4 ∧ bitB (ctxOf s cid).flags 2 = true)

/-- A command is written with GO while none is under way, by one who may start it (R43). -/
def commandOccasion (s : State) (op cid : Nat) (host : Bool) : Prop :=
  awake s ∧ s.ctl.ctxcmd.go = false ∧ mayCommand s op (cid % 1024) host

/-- CTXCMD holds the command, and GO reads 1. -/
def holdsCommand (t : State) (op cid ien vec : Nat) : Prop :=
  t.ctl.ctxcmd.go = true ∧ t.ctl.ctxcmd.op = op ∧ t.ctl.ctxcmd.cid = cid % 1024 ∧ t.ctl.ctxcmd.ien = (ien % 2 == 1) ∧
  t.ctl.ctxcmd.vec = vec % 2048

/-- Every identifier of a context is invalid and every surface of it FREE (R237, R252, R273). -/
def identifiersClear (t : State) (cid : Nat) : Prop :=
  ∀ k, k < 1024 → bitB (mget 0 (t.ctl.tidbase + cid * 0x20000 + 0x10000 + 2 * k + 1) t.mem).toNat 7 = false
def surfacesFree (t : State) (cid : Nat) : Prop :=
  (∀ k, k < 1024 → mget 0 (t.ctl.sfbase + cid * 0x10000 + 64 * k + 0x28) t.mem = 0) ∧
  ∀ e ∈ t.tiles, tileKeyCid e.1 ≠ cid

/-- A kill has started: the incarnation has advanced, the context drains or closes, and every target is told; nothing else of
the machine has changed (R52 step 1). -/
def killStarted (s t : State) (cid : Nat) (retire : Bool) : Prop :=
  (ctxOf t cid).icn = ((ctxOf s cid).icn + 1) % 256 ∧ (ctxOf t cid).state = (if retire then 3 else 2) ∧
  t.updates = s.updates ++ messages s cid ((ctxOf t cid).icn) false ∧
  t = { s with ctl := t.ctl, ctx := t.ctx, updates := t.updates, ctxOps := t.ctxOps, nextId := t.nextId, hostLine := t.hostLine }

/-- Nothing of a context is left to issue or to walk: no team, queued node or instance, no translation, fault-queue entry,
notice or walk, and no valid identifier (R52 steps 2 to 4, R252). -/
def contextGone (t : State) (cid : Nat) : Prop :=
  (∀ e ∈ t.teams, e.2.bind.cid ≠ cid) ∧ (∀ e ∈ t.queue, e.2.cid ≠ cid) ∧ (∀ e ∈ t.insts, e.2.cid ≠ cid) ∧
  (∀ e ∈ t.notifs, e.2.cid ≠ cid) ∧ (∀ e ∈ t.sfops, e.2.cid ≠ cid) ∧ (∀ e ∈ t.tlb, e.cid ≠ cid) ∧ (∀ e ∈ t.nonLeaf, e.cid ≠ cid) ∧
  (∀ e ∈ t.faultq, e.cid ≠ cid) ∧ (∀ e ∈ t.notices, e.2.cid ≠ cid) ∧ (∀ e ∈ t.walks, e.2.cid ≠ cid) ∧ identifiersClear t cid

/-- A write of an incarnation that a target holds and that is no longer current (R53). -/
def staleAt (s : State) (target cid : Nat) (a : Nat) (p : Past) : Prop :=
  p.cid = cid ∧ p.icn ≠ (litOf s target cid).icn ∧ sliceOf a = target

/-- R42, R43, R51, R52: CTXCMD_OPEN of a CLOSED context advances its incarnation and tells every target that it is live; a KILL
or KILLRETIRE of a LIVE one starts its kill; a RECLAIM of a DRAINING or CLOSING one waits for QUIET; on CID 0 each ends with
BADCID's status 3; a reserved command ends with 5, or with 6 and the incarnation and state of its context, and changes no context. -/
def contextCommands : Prop :=
  (∀ (s : State) (cid ien vec : Nat) (host : Bool), commandOccasion s 1 cid host → cid % 1024 ≠ 0 →
    inTransition s (cid % 1024) = false → (ctxOf s (cid % 1024)).state = 0 →
    ∃ t, exec (.ctxcmdOpen cid ien vec host) s = .next t ∧ holdsCommand t 1 cid ien vec ∧
      (ctxOf t (cid % 1024)).icn = ((ctxOf s (cid % 1024)).icn + 1) % 256 ∧ (ctxOf t (cid % 1024)).state = 0 ∧
      t.updates = s.updates ++ messages s (cid % 1024) ((ctxOf t (cid % 1024)).icn) true ∧
      opsOf t (cid % 1024) = opsOf s (cid % 1024) ++ [{ kind := 1, cmd := true }] ∧
      identifiersClear t (cid % 1024) ∧ surfacesFree t (cid % 1024) ∧ t.teams = s.teams) ∧
  (∀ (s : State) (cid ien vec : Nat) (host : Bool), commandOccasion s 2 cid host → cid % 1024 ≠ 0 →
    inTransition s (cid % 1024) = false → (ctxOf s (cid % 1024)).state = 1 →
    ∃ t, exec (.ctxcmdKill cid ien vec host) s = .next t ∧ holdsCommand t 2 cid ien vec ∧
      killStarted s t (cid % 1024) false ∧ opsOf t (cid % 1024) = opsOf s (cid % 1024) ++ [{ kind := 2, cmd := true }]) ∧
  (∀ (s : State) (cid ien vec : Nat) (host : Bool), commandOccasion s 3 cid host → cid % 1024 ≠ 0 →
    inTransition s (cid % 1024) = false → (ctxOf s (cid % 1024)).state = 1 →
    ∃ t, exec (.ctxcmdKillretire cid ien vec host) s = .next t ∧ holdsCommand t 3 cid ien vec ∧
      killStarted s t (cid % 1024) true ∧ opsOf t (cid % 1024) = opsOf s (cid % 1024) ++ [{ kind := 2, cmd := true }]) ∧
  (∀ (s : State) (cid ien vec : Nat) (host : Bool), commandOccasion s 4 cid host → cid % 1024 ≠ 0 →
    inTransition s (cid % 1024) = false → (ctxOf s (cid % 1024)).state = 2 ∨ (ctxOf s (cid % 1024)).state = 3 →
    ∃ t, exec (.ctxcmdReclaim cid ien vec host) s = .next t ∧ holdsCommand t 4 cid ien vec ∧
      opsOf t (cid % 1024) = opsOf s (cid % 1024) ++ [{ kind := 3, cmd := true }] ∧
      t = { s with ctl := t.ctl, ctxOps := t.ctxOps, hostLine := t.hostLine }) ∧
  (∀ (s : State) (cmd cid ien vec : Nat) (host : Bool), commandOccasion s (cmd % 8) cid host →
    (cmd / 8 ≠ 0 ∨ cmd % 8 = 0 ∨ 5 ≤ cmd % 8) →
    ∃ t, exec (.ctxcmdReserved cmd cid ien vec host) s = .next t ∧ holdsCommand t (cmd % 8) cid ien vec ∧
      t.ctl.ctxcmd.ended = some (if cmd / 8 ≠ 0 then 5
        else ctxAnswer 6 (ctxOf s (cid % 1024)).icn (ctxOf s (cid % 1024)).state) ∧ t = { s with ctl := t.ctl, hostLine := t.hostLine }) ∧
  (∀ (s : State) (cid ien vec : Nat) (host : Bool), commandOccasion s 1 cid host → cid % 1024 = 0 →
    ∃ t, exec (.ctxcmdOpen cid ien vec host) s = .next t ∧ t.ctl.ctxcmd.ended = some 3 ∧ t.ctx = s.ctx)

/-- R43: a command written while GO reads 1 is ignored, and counted at the bridge where the host wrote it; a host command that
the host may not start is counted and logged, and changes no context. -/
def commandsRefused : Prop :=
  (∀ (s : State) (cid ien vec : Nat), awake s → s.ctl.ctxcmd.go = true →
    exec (.ctxcmdKill cid ien vec false) s = .next s ∧
    ∃ t, exec (.ctxcmdKill cid ien vec true) s = .next t ∧ t = { s with hostLine := none, orphans := t.orphans } ∧
      mget 0 120 t.orphans = min 0xFFFFFFFF (mget 0 120 s.orphans + 1)) ∧
  (∀ (s : State) (cid ien vec : Nat), awake s → s.ctl.ctxcmd.go = false → bitB s.ctl.hmode 0 = false →
    ∃ t, exec (.ctxcmdOpen cid ien vec true) s = .next t ∧ t.ctx = s.ctx ∧ t.ctl.ctxcmd = s.ctl.ctxcmd ∧ t.ctxOps = s.ctxOps ∧
      t.updates = s.updates ∧ mget 0 120 t.orphans = min 0xFFFFFFFF (mget 0 120 s.orphans + 1))

end Sys2Proof.Claims

namespace Sys2Proof.Claims

open Sys2Proof Sys2Proof.Machine Sys2Proof.Safety

/-! ## Requests and responses (02_contexts.md, 10_local.md, 11_memory.md, 18_fabric.md) -/

/-- The cells of a core's line are one writer's dirty bytes and clean ones: at least one is dirty. -/
def oneWriter (cs : List (Nat × L1Cell)) (cid icn : Nat) (w : Option (Nat × Nat)) : Prop :=
  (∃ e ∈ cs, e.2.dirty = true) ∧
  ∀ e ∈ cs, e.2.dirty = true → e.2.cid = cid ∧ e.2.icn = icn ∧ e.2.by_ = w

/-- The dirty bytes of a line's cells with their offsets. -/
def dirtyBytes (cs : List (Nat × L1Cell)) : List (Nat × Byte) :=
  (cs.filter fun e => e.2.dirty).map fun e => (e.1 % 128, e.2.byte)

/-- A slice takes the request `id` next. -/
def taken (s : State) (id : Nat) (r : Request) : Prop := mfind id s.requests = some r ∧ nextRequest s r.target = some id

/-- The bytes of a write-back stand in memory, and no other byte of memory has changed. -/
def wroteBack (s t : State) (r : Request) : Prop :=
  (∀ a, (∀ b ∈ r.bytes, a ≠ r.pa + b.1) → physByte t a = physByte s a) ∧
  ∀ pre o b post, r.bytes = pre ++ (o, b) :: post → (∀ x ∈ post, x.1 ≠ o) → inCtxTable s (r.pa + o) = false →
    physByte t (r.pa + o) = b

/-- The response to a read of a line. -/
def lineSent (s : State) (r : Request) : Response :=
  { core := r.core, cid := r.cid, icn := r.icn, pa := r.pa, bytes := physBytes s r.pa 128 }

/-- R44 to R48, R56, R57, R192, R320: a slice drops a stale request, a write-back also where a mortar module on its way turns
it away; it denies one that an access table does not allow, writes nothing and reports the denial of a write-back to its
writer; an allowed write-back writes its dirty bytes and no other; an allowed read of a line sends its 128 bytes back, and
one of a marked line nothing. -/
def requestsAtSlices : Prop :=
  ∀ (s : State) (id : Nat) (r : Request), taken s id r →
    let stale := dropped s r.target r.cid r.icn = true ∨ (r.isRead = false ∧ wayDrops s (coreMaster r.core) r.pa r.cid r.icn = true)
    (stale → exec (.targetRequest id) s = .next { s with requests := merase id s.requests }) ∧
    (¬stale →
      (lineAllows s (coreMaster r.core) r.cid r.pa (if r.isRead then .read else .write) = false →
        ∃ t, exec (.targetRequest id) s = .next t ∧
          t.reports = (match r.by_ with
            | some w => if r.isRead then s.reports else mput s.nextId { team := w.1, group := w.2, code := 3 } s.reports
            | none => s.reports) ∧
          t = { s with requests := merase id s.requests, denials := t.denials, denialNext := t.denialNext
                       denialCount := t.denialCount, reports := t.reports, nextId := t.nextId }) ∧
      (r.isRead = false → lineAllows s (coreMaster r.core) r.cid r.pa .write = true →
        ∃ t, exec (.targetRequest id) s = .next t ∧ wroteBack s t r ∧
          t = { s with requests := merase id s.requests, mem := t.mem, ctx := t.ctx, marked := t.marked, sets := t.sets
                       snoops := t.snoops, nextId := t.nextId, olds := t.olds, past := t.past }) ∧
      (r.isRead = true → lineAllows s (coreMaster r.core) r.cid r.pa .read = true →
        ∃ t, exec (.targetRequest id) s = .next t ∧
          (isMarked s r.pa = false → t = { s with
            requests := merase id s.requests, sets := t.sets, nextId := s.nextId + 1, responses := mput s.nextId (lineSent s r) s.responses }) ∧
          (isMarked s r.pa = true → t = { s with requests := merase id s.requests, sets := t.sets })))

/-- R47, R48, R192, R195: a response of a stale incarnation is discarded at the core's port or at a mortar module on its way,
and counted there alone; another fills the bytes of the line that the cache does not hold, and no byte that it holds
changes; a fill that a write has overtaken is not installed. -/
def responsesAtCores : Prop :=
  ∀ (s : State) (id : Nat) (r : Response), mfind id s.responses = some r →
    (dropped s (256 + r.core) r.cid r.icn = true →
      ∃ t p, exec (.responseArrival id) s = .next t ∧ t = { s with responses := merase id s.responses, orphans := t.orphans } ∧
        dropped s p r.cid r.icn = true ∧ (p = 256 + r.core ∨ p ∈ wayTargets s (coreMaster r.core) r.pa) ∧
        mget 0 p t.orphans = min 0xFFFFFFFF (mget 0 p s.orphans + 1) ∧
        ∀ k, k ≠ p → mget 0 k t.orphans = mget 0 k s.orphans) ∧
    (dropped s (256 + r.core) r.cid r.icn = false → (∀ p ∈ wayTargets s (coreMaster r.core) r.pa, dropped s p r.cid r.icn = false) →
      (r.bytes ≠ physBytes s r.pa 128 → exec (.responseArrival id) s = .next { s with responses := merase id s.responses }) ∧
      (r.bytes = physBytes s r.pa 128 →
        ∃ t, exec (.responseArrival id) s = .next t ∧ t = { s with responses := merase id s.responses, l1 := t.l1 } ∧
          (∀ k c, mfind k s.l1 = some c → mfind k t.l1 = some c) ∧
          ∀ i, i < 128 → mfind (l1Key r.core (r.pa + i)) s.l1 = none → mfind (l1Key r.core (r.pa + i)) t.l1 =
            some { byte := physByte s (r.pa + i), dirty := false, cid := r.cid, icn := r.icn }))

/-- R44, R192: an evicted line leaves its cache; a line with no dirty byte sends nothing, and one with a single writer's
dirty bytes sends them, and no clean byte, to its slice under that writer's CID and ICN. -/
def evictedLines : Prop :=
  ∀ (s : State) (core line : Nat),
    ((∀ e ∈ lineCells s core line, e.2.dirty = false) → exec (.l1Eviction core line) s = .next { s with
      l1 := s.l1.filter fun (e : Nat × L1Cell) => !(e.1 / 2 ^ 52 == core && e.1 % 2 ^ 52 / 128 == line) }) ∧
    ∀ cid icn w, oneWriter (lineCells s core line) cid icn w →
      ∃ t q, exec (.l1Eviction core line) s = .next t ∧
        t = { s with
          l1 := s.l1.filter fun (e : Nat × L1Cell) => !(e.1 / 2 ^ 52 == core && e.1 % 2 ^ 52 / 128 == line)
          requests := mput s.nextId q s.requests, nextId := s.nextId + 1 } ∧
        q.target = sliceOf (128 * line) ∧ q.core = core ∧ q.cid = cid ∧ q.icn = icn ∧ q.pa = 128 * line ∧ q.isRead = false ∧
        q.by_ = w ∧ q.bytes = dirtyBytes (lineCells s core line)

/-- R57, R185, R207, R320: a report of a denied or lost write is recorded for its group unless one is recorded; an
invalidation drops the clean bytes of a cache line and no dirty one, and no dirty byte of a stash; and the oldest request
of a slice that has waited 4096 core clocks is marked. -/
def smallMessages : Prop :=
  (∀ (s : State) (id : Nat) (r : Report) (x : Team) (g : Group), mfind id s.reports = some r → mfind r.team s.teams = some x →
    mfind r.group x.groups = some g →
    ∃ t, exec (.storeDenialReport id) s = .next t ∧ t = { s with reports := merase id s.reports, teams := t.teams } ∧
      onlyGroup { s with reports := merase id s.reports } t r.team r.group ∧
      (groupAt t r.team r.group).reportCode = if g.reportCode = 0 then r.code else g.reportCode) ∧
  (∀ (s : State) (id : Nat) (n : Snoop), mfind id s.snoops = some n →
    (n.stash = false → ∃ t, exec (.snoopInvalidate id) s = .next t ∧
      t = { s with snoops := merase id s.snoops, l1 := t.l1 } ∧ (∀ e ∈ s.l1, e.2.dirty = true → e ∈ t.l1) ∧
      ∀ e ∈ t.l1, e.1 / 2 ^ 52 = n.who → e.1 % 2 ^ 52 / 128 = n.pa / 128 → e.2.dirty = true) ∧
    (n.stash = true → ∃ t, exec (.snoopInvalidate id) s = .next t ∧
      t = { s with snoops := merase id s.snoops, teams := t.teams } ∧ (teamOf t n.who).dirty = (teamOf s n.who).dirty ∧
      (teamOf t n.who).stash = (teamOf s n.who).stash ∧
      ∀ w ∈ (teamOf s n.who).valid, ((range' (4 * w) 4).all (teamOf s n.who).dirty.contains) = true →
        w ∈ (teamOf t n.who).valid)) ∧
  (∀ (s : State) (slice : Nat) (e : Nat × Request), ((waitingAt s slice).find? fun x => !x.2.aged) = some e →
    exec (.sliceAgeTimeout slice) s = .next { s with requests := mput e.1 { e.2 with aged := true } s.requests })

/-! ## Walks and notices (12_translation.md) -/

/-- R211, R217, R219, R221: a walk that fails leaves nothing; one that finds a leaf puts it in the TLB of its core, and beside
the translations held changes nothing else unless it is a prefetch, which then requests its line. -/
def walksComplete : Prop :=
  ∀ (s : State) (id : Nat) (w : Walk), mfind id s.walks = some w →
    ((∃ c m l, walk s (coreMaster w.core) w.cid w.va = .fail c m l) →
      exec (.pageWalkComplete id) s = .next { s with walks := merase id s.walks }) ∧
    ∀ pte l, walk s (coreMaster w.core) w.cid w.va = .page pte l → w.core < Config.cores →
      ∃ t, exec (.pageWalkComplete id) s = .next t ∧
        { unit := w.core, cid := w.cid, level := l, page := w.va / 2 ^ pageBits l, pte := pte } ∈ t.tlb ∧
        (w.fill = false → t = { s with walks := merase id s.walks, tlb := t.tlb, nonLeaf := t.nonLeaf }) ∧
        (w.fill = true → pteR pte = true → pteType pte = 0 → inHbm (leafPa pte l w.va) = true →
          t = { s with walks := merase id s.walks, tlb := t.tlb, nonLeaf := t.nonLeaf, nextId := s.nextId + 1
                       requests := mput s.nextId
                         { target := sliceOf (leafPa pte l w.va), core := w.core, cid := w.cid, icn := w.icn
                           pa := leafPa pte l w.va / 128 * 128, bytes := [], isRead := true } s.requests })

/-- The queue's bytes, which the core may write and which are no part of the context table. -/
def queueWritable (s : State) (n : Notice) : Prop :=
  ∀ a, noticeQueue s n.core n.cid ≤ a → a < noticeQueue s n.core n.cid + 64 + 32 * 4096 →
    inHbm a = true ∧ lineAllows s (coreMaster n.core) 0 a .write = true ∧ inCtxTable s a = false

/-- R223: while the queue is full a notice waits; in a queue with room the core writes the notice at TAIL, adds 1 to TAIL,
and for a host queue sends its vector. -/
def noticesWritten : Prop :=
  ∀ (s : State) (id : Nat) (n : Notice), mfind id s.notices = some n →
    (noticeRoom s n = false → exec (.faultNoticeWrite id) s = .next s) ∧
    (noticeRoom s n = true → queueWritable s n →
      ∃ t, exec (.faultNoticeWrite id) s = .next t ∧
        t = { s with notices := merase id s.notices, mem := t.mem, irqs := t.irqs, snoops := t.snoops, nextId := t.nextId
                     olds := t.olds, past := t.past } ∧
        physBytes t (noticeQueue s n.core n.cid + 64 + 32 * (physNat s (noticeQueue s n.core n.cid) 8 % 4096)) 32 =
          n.bytes (physNat s (noticeQueue s n.core n.cid) 8) ∧
        physNat t (noticeQueue s n.core n.cid) 8 = (physNat s (noticeQueue s n.core n.cid) 8 + 1) % 2 ^ 64 ∧
        t.irqs = if bitB (ctxOf s n.cid).flags 1 then s.irqs ++ [(dieOf s (dieOfCore n.core)).hostqvec % 2 ^ 11] else s.irqs)

/-! ## Walkers (07_launch.md) -/

/-- R129, R130: a notification of an incarnation that is not current is dropped; another puts the walker's copy of the node
in its queue, or waits for room and for the earlier ones of its node. -/
def notificationsQueue : Prop :=
  ∀ (s : State) (id : Nat) (n : Notif), mfind id s.notifs = some n →
    (isCurrent s n.cid n.icn = false → exec (.nodeNotification id) s = .next { s with notifs := merase id s.notifs }) ∧
    (isCurrent s n.cid n.icn = true →
      ((512 ≤ (levelOf s n.die (queueEntry s n).eprio).length ∨ ∃ e ∈ s.notifs, e.1 < id ∧ e.2.pa = n.pa) →
        exec (.nodeNotification id) s = .next s) ∧
      ((levelOf s n.die (queueEntry s n).eprio).length < 512 → (∀ e ∈ s.notifs, e.2.pa = n.pa → id ≤ e.1) →
        ∃ t k, exec (.nodeNotification id) s = .next t ∧ t.notifs = merase id s.notifs ∧
          t.queue = mput k (queueEntry s n) s.queue ∧ t.insts = s.insts))

/-- R132, R133, R136: the walker takes the next entry out of its queues and advances its ticket; an instance that fails a
check of Table 7.5 does not run; a grid, a draw or a bulk copy that passes them runs, with the walker's copy of the node. -/
def instancesStart : Prop :=
  ∀ (s : State) (die id : Nat) (q : QueueEnt), nextEntry s die = some (id, q) →
    ∃ t, exec (.instanceDequeue die) s = .next t ∧ mfind id t.queue = none ∧
      (dieOf t q.die).ticket = ((dieOf s q.die).ticket + 1) % 2 ^ 31 ∧
      (nodeCode s q (nodeReads s q) ≠ 0 → mfind (q.die * 2 ^ 31 + (dieOf s q.die).ticket) t.insts = none) ∧
      (nodeCode s q (nodeReads s q) = 0 → (nodeKind q.node = 1 ∨ nodeKind q.node = 2 ∨ nodeKind q.node = 3) →
        ∃ i, mfind (q.die * 2 ^ 31 + (dieOf s q.die).ticket) t.insts = some i ∧ i.node = q.node ∧ i.cid = q.cid ∧ i.icn = q.icn ∧
          i.ended = 0 ∧ i.gaps = none)

/-- R127, R130, R132, R133: an instance of a grid or draw with nothing left to run is done and removed, and the decrements of
its successors go on in their order; a bulk-copy node moves a line that is left, whichever; with all moved it is removed
once its stamp is written, one whose access faults is removed too, and one that waits for a link or a tile stays. -/
def instancesEnd : Prop :=
  (∀ (s : State) (ticket : Nat) (i : Inst), mfind ticket s.insts = some i → instDone s ticket i = true →
    ∃ t, exec (.instanceFinish ticket) s = .next t ∧ mfind ticket t.insts = none ∧ t.teams = s.teams) ∧
  (∀ (s : State) (ticket : Nat) (d : Decs), mfind ticket s.insts = none → mfind ticket s.decs = some d →
    ∃ t done left, exec (.instanceFinish ticket) s = .next t ∧ d.left = done ++ left ∧
      mfind ticket t.decs = (if left = [] then none else some { d with left := left })) ∧
  (∀ (i : Inst) (tick : Nat), countIn i.left ≠ 0 → ∃ g ∈ i.left, g.1 ≤ i.nextLine tick ∧ i.nextLine tick < g.1 + g.2) ∧
  (∀ (s : State) (ticket : Nat) (i : Inst), mfind ticket s.insts = some i → nodeKind i.node = 2 →
    let line := i.nextLine s.tick
    let a := i.copyAt line
    (i.left = [] → ∃ t, exec (.bulkCopyComplete ticket) s = .next t ∧ mfind ticket t.insts = none) ∧
    (i.left ≠ [] → bulkWaits s i line = true → exec (.bulkCopyComplete ticket) s = .next s) ∧
    (i.left ≠ [] → bulkWaits s i line = false →
      ((∃ c, unitPlaces s i a.2.1 a.2.2 .read = .error c) ∨
        ∃ fs c, unitPlaces s i a.2.1 a.2.2 .read = .ok fs ∧ unitPlaces s i a.1 a.2.2 .write = .error c) →
      ∃ t, exec (.bulkCopyComplete ticket) s = .next t ∧ mfind ticket t.insts = none) ∧
    ∀ fs ds u, i.left ≠ [] → bulkWaits s i line = false →
      unitPlaces s i a.2.1 a.2.2 .read = .ok fs → unitPlaces s i a.1 a.2.2 .write = .ok ds → moveBulk i.who s fs ds = (u, 0) →
      exec (.bulkCopyComplete ticket) s =
        .next { u with insts := mput ticket { i with gaps := some (cutOne line i.left) } u.insts })

/-! ## Dispatch (07_launch.md, 08_issue.md) -/

/-- The firmware writes CMD of a bind record whose RESULT is not 1. -/
def submits (s : State) (die slot cmd : Nat) : Prop :=
  die < 2 ∧ slot < 2048 ∧ (mget {} (die * 2048 + slot) s.slots).result ≠ 1 ∧ cmd ≠ 0

/-- R135, R137: a record that fails a check of Table 7.7 is not bound, and RESULT holds the code of the first; one that
passes is bound to the core of its slot, and RESULT is 1; while RESULT is 1 the record stays. -/
def bindRecords : Prop :=
  ∀ (s : State) (die slot cmd : Nat),
    (die < 2 → slot < 2048 → (mget {} (die * 2048 + slot) s.slots).result = 1 →
      ∃ t, exec (.bindSubmit die slot cmd false) s = .next t ∧ t = { s with slots := t.slots } ∧
        mget {} (die * 2048 + slot) t.slots = { mget {} (die * 2048 + slot) s.slots with cmd := 0 }) ∧
    (submits s die slot cmd →
      bindCode s { mget {} (die * 2048 + slot) s.slots with cmd := cmd } (128 * die + slot / 16) ≠ 0 →
      ∃ t, exec (.bindSubmit die slot cmd false) s = .next t ∧ t = { s with slots := t.slots } ∧
        mget {} (die * 2048 + slot) t.slots = { mget {} (die * 2048 + slot) s.slots with
          cmd := 0
          result := bindCode s { mget {} (die * 2048 + slot) s.slots with cmd := cmd } (128 * die + slot / 16) }) ∧
    (submits s die slot cmd →
      bindCode s { mget {} (die * 2048 + slot) s.slots with cmd := cmd } (128 * die + slot / 16) = 0 →
      ∃ t, exec (.bindSubmit die slot cmd false) s = .next t ∧ (mget {} (die * 2048 + slot) t.slots).result = 1 ∧
        ∃ k x, mfind k t.teams = some x ∧ x.slot = some (die * 2048 + slot) ∧ x.core = 128 * die + slot / 16 ∧ x.loc = .resident)

/-- R138, R188: a team that has not finished goes on; one that has, with no dirty stash byte left to write back, is gone, and
its slot reads 2. -/
def teamsEnd : Prop :=
  (∀ (s : State) (team : Nat) (x : Team), mfind team s.teams = some x → x.finished s team = false →
    exec (.teamEnd team) s = .next s) ∧
  (∀ (s : State) (team : Nat) (x : Team), mfind team s.teams = some x → x.finished s team = true →
    x.dirtyLines (fun _ => true) = [] →
    ∃ t, exec (.teamEnd team) s = .next t ∧ mfind team t.teams = none ∧
      ∀ k b, x.slot = some k → mfind k s.slots = some b → mfind k t.slots = some { b with result := 2 })

/-- R141, R145: a ready group that has issued nothing for 4096 clocks is marked, also where the wait of its path has ended; a path whose ageing count has reached 1024
falls due. -/
def issueMarks : Prop :=
  (∀ (s : State) (team group : Nat) (x : Team) (g : Group), mfind team s.teams = some x → mfind group x.groups = some g →
    (g.paths.any fun p => p.2.wait.mayIssue s x) = true →
    ∃ t, exec (.starvationTimeout team group) s = .next t ∧ onlyGroup s t team group ∧
      groupAt t team group = { g with starved := true }) ∧
  (∀ (s : State) (team group path : Nat) (x : Team) (g : Group) (p : PathSt), mfind team s.teams = some x →
    mfind group x.groups = some g → mfind path g.paths = some p → 1024 ≤ p.age →
    ∃ t, exec (.pathAgeingExpiry team group path) s = .next t ∧ onlyGroup s t team group ∧
      mfind path (groupAt t team group).paths = some { p with due := true } ∧
      groupAt t team group = { g with paths := (groupAt t team group).paths })

/-- R158, R159: the churn forms a satellite group over up to 32 records of one target, and those records leave spawn memory;
the oldest record of a target that has waited 2048 clocks is marked. -/
def churn : Prop :=
  (∀ (s : State) (team target : Nat) (x : Team), mfind team s.teams = some x → teamRuns s team x = true →
    x.churnTarget = some target →
    ∃ t, exec (.satelliteForm team) s = .next t ∧
      t = { s with teams := t.teams, denials := t.denials, denialNext := t.denialNext, denialCount := t.denialCount } ∧
      (teamOf t team).spawn = (takeRecords target 32 x.spawn).2 ∧
      mfind x.satelliteNum (teamOf t team).groups =
        some (satelliteGroup x x.satelliteNum target (takeRecords target 32 x.spawn).1) ∧
      ∀ g, g ≠ x.satelliteNum → mfind g (teamOf t team).groups = mfind g x.groups) ∧
  (∀ (s : State) (team : Nat) (x : Team), mfind team s.teams = some x →
    ∃ t, exec (.spawnWaitTimeout team) s = .next t ∧ t = { s with teams := t.teams } ∧
      teamOf t team = { x with spawn := markOld [] x.spawn })

end Sys2Proof.Claims

namespace Sys2Proof.Claims

open Sys2Proof Sys2Proof.Machine Sys2Proof.Safety

/-! ## The copy engine (13_copy.md) -/

/-- A queued copy after a lane `l` of it has become `k`: an ended lane is owed to its barrier, and a failure is to be
recorded. -/
def laneAfter (c : CopyOp) (l k : LaneCopy) (f : Option CopyFail) : CopyOp :=
  { c with
    lanes := c.lanes.map fun m => if m.lane == l.lane then k else m
    owed := if c.bar.isSome && k.done then c.owed ++ [l.own] else c.owed
    fails := match f with
      | some x => c.fails ++ [x]
      | none => c.fails }

/-- Has a queued copy something left to do or to report? -/
def stillQueued (c : CopyOp) : Prop := c.busy = true ∨ c.owed ≠ [] ∨ c.fails ≠ []

/-- R228, R229, R231, R235: some of a lane that may be performed is; the operation remembers what it owes its barrier and its
group, it leaves the queue once nothing is left, and after a failure the later stamps of its group are withheld. With no lane
ready, and for a bulk copy that may not move, nothing happens; a bulk copy that may moves a piece. -/
def copiesMove : Prop :=
  ∀ (s : State) (id : Nat) (c : CopyOp), mfind id s.copies = some c →
    (c.kind ≠ .cpw → readyLanes s id c = [] → exec (.copyPerformed id) s = .next s) ∧
    (c.kind ≠ .cpw → readyLanes s id c ≠ [] → ∃ l ∈ readyLanes s id c, ∀ u k f, performLane s id c l = (u, k, f) →
      ∃ t, exec (.copyPerformed id) s = .next t ∧ t = { u with copies := t.copies, teams := t.teams } ∧
        (f = none → t.teams = u.teams) ∧
        (stillQueued (laneAfter c l k f) → mfind id t.copies = some (laneAfter c l k f)) ∧
        (¬stillQueued (laneAfter c l k f) → mfind id t.copies = none) ∧
        (f ≠ none → ∀ e ∈ t.copies, c.stampAfter id e.2 = true → e.2.withheld = true)) ∧
    (c.kind = .cpw → cpwReady s id c = false → exec (.copyPerformed id) s = .next s) ∧
    (c.kind = .cpw → cpwReady s id c = true → ∃ t, exec (.copyPerformed id) s = .next t ∧
      mfind id t.copies = some (cpwStep s id c).2 ∧ t = { (cpwStep s id c).1 with copies := t.copies })

/-- Does a report of a lane go to one team alone: its copy's own lane, or a team that is not paired (R236)? -/
def heardAlone (s : State) (c : CopyOp) (own : Bool) : Prop := own = true ∨ (teamOf s c.team).paired = false

/-- R168, R229, R231: an ended lane's bytes reach its barrier once; the group of an ended lane records its code, the first
that comes. -/
def copiesReport : Prop :=
  (∀ (s : State) (id : Nat) (c : CopyOp) (n epoch : Nat), mfind id s.copies = some c → c.bar = some (n, epoch) →
    (c.owed = [] → exec (.barrierCopyCompletion id) s = .next s) ∧
    ∀ own rest, c.owed = own :: rest → heardAlone s c own →
      ∃ t, exec (.barrierCopyCompletion id) s = .next t ∧ t = { barrierReport s c.team n epoch c.size with copies := t.copies } ∧
        ((c.kind = .cpw ∨ stillQueued { c with owed := rest }) → mfind id t.copies = some { c with owed := rest })) ∧
  (∀ (s : State) (id : Nat) (c : CopyOp) (f : CopyFail) (fs : List CopyFail) (x : Team) (g : Group),
    mfind id s.copies = some c → c.fails = f :: fs → heardAlone s c f.own →
    mfind c.team s.teams = some x → mfind c.group x.groups = some g →
    ∃ t, exec (.copyFailureReport id) s = .next t ∧ onlyGroup { s with copies := t.copies } t c.team c.group ∧
      (groupAt t c.team c.group).copyCode = if g.copyCode = 0 then f.code else g.copyCode)

/-- A stamp that may be written, once it has left the queue of a team that is not paired. -/
def stampGoes (s s1 : State) (id : Nat) (c : CopyOp) : Prop :=
  stampReady s id c = true ∧ c.withheld = false ∧ s1 = { s with copies := merase id s.copies } ∧
  (teamOf s c.team).paired = false

/-- The stash written back for a stamp: at the scope of a core or wider (R186, R205). -/
def stampFlush (s : State) (c : CopyOp) : State × Option WbFail :=
  if scopeAtLeastCore c.scope then writeBack s (c.who s) fun _ => true else (s, none)

/-- R186, R229, R234, R235: a stamp waits for the earlier operations of its group, is withheld where one that it covers
failed, and is written otherwise, as one store of eight bytes after the writes that its release covers; one whose write-back
was failed by a released entry is not written, and its group records the code. A bulk copy at its end gives its handle its
status. -/
def copiesEnd : Prop :=
  (∀ (s : State) (id : Nat) (c : CopyOp), mfind id s.copies = some c →
    (stampReady s id c = false → exec (.stampWrite id) s = .next s) ∧
    (stampReady s id c = true → c.withheld = true →
      exec (.stampWrite id) s = .next { s with copies := merase id s.copies }) ∧
    ∀ s1, stampGoes s s1 id c →
      (c.ended = none → ∀ t u, stampFlush s1 c = (t, none) → (teamOf t c.team).paired = false →
        writeStamp (release t (c.who s1) c.scope) (c.who s1) c = (u, 0) → exec (.stampWrite id) s = .next u) ∧
      (∀ st code x g, c.ended = some (st, code) → mfind c.team s.teams = some x → mfind c.group x.groups = some g →
        ∃ t, exec (.stampWrite id) s = .next t ∧ onlyGroup s1 t c.team c.group ∧
          (groupAt t c.team c.group).copyCode = if g.copyCode = 0 then code else g.copyCode)) ∧
  (∀ (s : State) (id : Nat) (c : CopyOp), mfind id s.copies = some c → c.kind = .cpw →
    (cpwEnd s c = none → exec (.cpwComplete id) s = .next s) ∧
    ∀ st code tid i q x, cpwEnd s c = some (st, code) → c.handles = [(tid, i, q)] → mfind tid s.teams = some x →
      ∃ t, exec (.cpwComplete id) s = .next t ∧
        t = { s with copies := merase id s.copies, teams := t.teams } ∧
        ∀ e, mfind i x.handles = some e → e.seq = q →
          mfind i (teamOf t tid).handles = some { e with status := st, code := code, doneAt := x.hdone + 1 })

/-! ## The matrix engine (15_matrix.md) -/

/-- R255: a held engine grants no lease; a free one grants the next that is asked for, which takes the lease's count of
operations. -/
def leasesGranted : Prop :=
  (∀ (s : State) (core : Nat), ((coreOf s core).holder.isSome = true ∨ nextLease s core = none) →
    exec (.leaseGrant core) s = .next s) ∧
  (∀ (s : State) (core tid n : Nat) (x : Team), (coreOf s core).holder = none → nextLease s core = some (tid, n) →
    mfind tid s.teams = some x → x.core = core →
    ∃ t, exec (.leaseGrant core) s = .next t ∧ (coreOf t core).holder = some tid ∧ (teamOf t tid).lease = some n ∧
      t.mem = s.mem ∧ t.mxops = s.mxops)

/-- The head of an engine, which may run: none of its operations is cancelled, and no released entry failed it. -/
def headRuns (s : State) (core id : Nat) (op : MxOp) : Prop :=
  ((acceptedOn s core).any fun e => mxCancelled s e.2) = false ∧ mxHead s core = some (id, op) ∧ mxRuns s op = true ∧
  op.failed = none

/-- R256, R259, R260, R266: the engine works on the operation at its head alone; after its last band its handle is DONE
and it leaves the engine. An operation that cannot go on yet leaves all as it was. -/
def matrixWork : Prop :=
  ∀ (s : State) (core id : Nat) (op : MxOp), headRuns s core id op →
    (∀ u o, mxStep s { op with blocked := none } = (u, .running o) →
      ∃ t, exec (.matrixOpComplete core) s = .next t ∧ mfind id t.mxops = some o) ∧
    (∀ u o, mxStep s { op with blocked := none } = (u, .done o) →
      ∃ t, exec (.matrixOpComplete core) s = .next t ∧ mfind id t.mxops = none ∧
        ∀ x e, mfind o.team u.teams = some x → mfind o.entry x.handles = some e → e.seq = o.seq →
          ∃ f, mfind o.entry (teamOf t o.team).handles = some f ∧ f.seq = o.seq ∧ f.status = 0 ∧ f.code = 0) ∧
    (∀ u o, mxStep s { op with blocked := none } = (u, .stop o .wait) →
      exec (.matrixOpComplete core) s = .next s ∧ exec (.matrixOpStop core) s = .next s)

/-- R258, R260, R272: a cancelled operation stops, and its handle is CANCELLED; one whose read fails with a code that
software cannot mend stops as FAILED with it. -/
def matrixStops : Prop :=
  (∀ (s : State) (core id : Nat) (op : MxOp) (x : Team) (e : HandleEnt),
    ((acceptedOn s core).find? fun y => mxCancelled s y.2 && (teamOf s y.2.team).loc == .resident) = some (id, op) →
    mfind op.team s.teams = some x → mfind op.entry x.handles = some e → e.seq = op.seq →
    ∃ t, exec (.matrixOpStop core) s = .next t ∧ mfind id t.mxops = none ∧ t.mem = s.mem ∧
      ∃ f, mfind op.entry (teamOf t op.team).handles = some f ∧ f.status = 2 ∧ f.code = 0) ∧
  (∀ (s : State) (core id : Nat) (op : MxOp) (u : State) (o : MxOp) (code : Nat), headRuns s core id op →
    mxStep s { op with blocked := none } = (u, .stop o (.failed code none)) →
    ∃ t, exec (.matrixOpStop core) s = .next t ∧ mfind id t.mxops = none ∧
      ∀ x e, mfind o.team u.teams = some x → mfind o.entry x.handles = some e → e.seq = o.seq →
        ∃ f, mfind o.entry (teamOf t o.team).handles = some f ∧ f.status = 3 ∧ f.code = code)

/-! ## Collectives (18_fabric.md) -/

/-- The handles of every rank that has issued have ended with a status and a code. -/
def ranksEnd (s t : State) (c : Coll) (status code : Nat) : Prop :=
  ∀ r ∈ c.parts, ∀ h ∈ r.2.handles, ∀ x e, mfind h.1 s.teams = some x → mfind h.2.1 x.handles = some e → e.seq = h.2.2 →
    ∃ f, mfind h.2.1 (teamOf t h.1).handles = some f ∧ f.status = status ∧ f.code = code

/-- R328, R330: a collective whose ranks have not all issued and that nothing cancels goes on; a cancelled one with a rank
missing ends as CANCELLED, and one whose ranks disagree as FAILED with code 0x0C, and neither moves data. Otherwise, where
no source overlaps a destination, a step moves bytes of one unit, a code ends the collective as FAILED, and it ends as DONE
once every byte has moved; one with an overlap whose data moves without a code ends as DONE. -/
def collectivesEnd : Prop :=
  ∀ (s : State) (id : Nat) (c : Coll), mfind id s.colls = some c →
    (collReady s c = false → exec (.collectiveComplete id) s = .next s) ∧
    (collReady s c = true →
      (c.parts.length < collSize s c → ∃ t, exec (.collectiveComplete id) s = .next t ∧ t.mem = s.mem ∧ t.l1 = s.l1 ∧
        mfind id t.colls = some { c with ended := some (2, 0) } ∧ ranksEnd s t c 2 0) ∧
      (collSize s c ≤ c.parts.length → partsAgree (c.parts.map Prod.snd) = false →
        ∃ t, exec (.collectiveComplete id) s = .next t ∧ t.mem = s.mem ∧ t.l1 = s.l1 ∧ mfind id t.colls = none ∧
          ranksEnd s t c 3 0xC) ∧
      (collSize s c ≤ c.parts.length → partsAgree (c.parts.map Prod.snd) = true → collCancelled s c = false →
        (colOverlaps (collSize s c) (c.parts.map Prod.snd) = true →
          ∀ u fs, colMove s (collSize s c) (c.parts.map Prod.snd) false = (u, 0, fs) →
            ∃ t, exec (.collectiveComplete id) s = .next t ∧ ranksEnd u t c 0 0) ∧
        (colOverlaps (collSize s c) (c.parts.map Prod.snd) = false →
          let left := c.left.getD (unitsOf (collSize s c) (c.parts.map Prod.snd))
          (left = [] → ∃ t, exec (.collectiveComplete id) s = .next t ∧ ranksEnd s t c 0 0) ∧
          (left ≠ [] → ∃ x ∈ left, ∃ mask t, exec (.collectiveComplete id) s = .next t ∧
            let moved := moveUnit s (c.parts.map Prod.snd) x mask
            (moved.2.1 ≠ 0 → ranksEnd moved.1 t c 3 moved.2.1) ∧
            (moved.2.1 = 0 → ∃ d, t = { moved.1 with colls := mput id d moved.1.colls } ∧ d.parts = c.parts ∧ d.ended = none ∧
              (d.left.getD []).length ≤ left.length)))))

/-! ## The bricks and the skimmers (16_surfaces.md) -/

/-- R57, R283, R287: an operation whose turn has not come, or whose tile is not there, waits; once its last tile is applied, a
write leaves the machine. One that the brick's table denies writes no sample. -/
def surfacesApply : Prop :=
  ∀ (s : State) (id : Nat) (o : SurfOp), mfind id s.sfops = some o →
    (surfReady s id o = false → exec (.surfaceOpApply id) s = .next s) ∧
    (surfReady s id o = true → (o.kind = .store ∨ o.kind = .blend) →
      (o.touches s = none → exec (.surfaceOpApply id) s = .next { s with sfops := merase id s.sfops }) ∧
      (∀ sid tile v, o.touches s = some (sid, tile) → o.denied s sid tile = some v →
        ∃ t, exec (.surfaceOpApply id) s = .next t ∧
          t = { v with sfops := t.sfops, reports := mput v.nextId { team := o.team, group := o.group, code := 3 } v.reports
                       nextId := v.nextId + 1 }) ∧
      ∀ sid tile u o1, o.touches s = some (sid, tile) → o.denied s sid tile = none → (tileOf s o.cid sid tile).resident = true →
        applyTile s o (o.nextTile s) = (u, o1) → o1.kind = o.kind →
        (o1.rest = [] → exec (.surfaceOpApply id) s = .next { u with sfops := merase id u.sfops }) ∧
        (o1.rest ≠ [] → exec (.surfaceOpApply id) s = .next { u with sfops := mput id o1 u.sfops }))

/-- R280: a tile that an operation waits for is brought in where its bank has room, and one that has never been spilled
reads as it was; a tile is spilled only where an eviction or a touch asks for it, and one never written needs no backing. -/
def tilesMove : Prop :=
  (∀ (s : State) (cid sid tile : Nat), (cid, sid, tile) ∈ wantedTiles s → touchTile s cid sid tile = .bring →
    (tileOf s cid sid tile).spilled = none →
    ∃ t, exec (.tileReturn cid sid tile) s = .next t ∧ t = { s with tiles := t.tiles } ∧
      tileOf t cid sid tile = { tileOf s cid sid tile with resident := true, touched := s.tick }) ∧
  (∀ (s : State) (cid sid tile : Nat), (cid, sid, tile) ∉ wantedTiles s → exec (.tileReturn cid sid tile) s = .next s) ∧
  (∀ (s : State) (cid sid tile : Nat), spillWanted s cid sid tile = false → exec (.tileSpill cid sid tile) s = .next s) ∧
  (∀ (s : State) (cid sid tile : Nat), spillWanted s cid sid tile = true → (tileOf s cid sid tile).written = false →
    ∃ t, exec (.tileSpill cid sid tile) s = .next t ∧ t = { s with tiles := t.tiles, evicts := t.evicts } ∧
      tileOf t cid sid tile = { tileOf s cid sid tile with resident := false })

/-- R163, R291: an eviction with a tile left goes on; a cancelled one's handle is CANCELLED; with none left its handle is DONE,
or FAILED with the first code that its spills met. -/
def evictionsEnd : Prop :=
  ∀ (s : State) (id : Nat) (e : Evict), mfind id s.evicts = some e →
    (evictNext s e ≠ none → evictCancelled s e = false → exec (.sfevictComplete id) s = .next s) ∧
    (evictNext s e ≠ none → evictCancelled s e = true →
      ∀ x h, mfind e.team s.teams = some x → mfind e.entry x.handles = some h → h.seq = e.seq →
      ∃ t, exec (.sfevictComplete id) s = .next t ∧ t = { s with evicts := merase id s.evicts, teams := t.teams } ∧
        ∃ f, mfind e.entry (teamOf t e.team).handles = some f ∧ f.status = 2 ∧ f.code = 0) ∧
    (evictNext s e = none → ∀ x h, mfind e.team s.teams = some x → mfind e.entry x.handles = some h → h.seq = e.seq →
      ∃ t, exec (.sfevictComplete id) s = .next t ∧ t = { s with evicts := merase id s.evicts, teams := t.teams } ∧
        ∃ f, mfind e.entry (teamOf t e.team).handles = some f ∧ f.status = (if e.code = 0 then 0 else 3) ∧ f.code = e.code)

/-! ## Draws (17_footing.md) -/

/-- An item of a vertical queue reaches the sequencer of a draw. -/
def reaches (s : State) (id : Nat) (p : Push) (i : Inst) (d : Draw) : Prop :=
  mfind id s.pushes = some p ∧ busFrozen s p.core = false ∧ mfind p.ticket s.insts = some i ∧ i.draw = some d

/-- R296: a push at or beyond NEXT + 1024 waits; one below NEXT, or for an ordinal already held, is dropped and counted in
DUP; one beyond NEXT is held; and the push of NEXT is admitted, with no other held behind it NEXT then advances by one. -/
def pushesArrive : Prop :=
  ∀ (s : State) (id : Nat) (p : Push) (i : Inst) (d : Draw), reaches s id p i d → p.bind = false →
    (d.next + 1024 ≤ p.ordinal → exec (.pushArrival id) s = .next s) ∧
    ((p.ordinal < d.next ∨ (p.ordinal < d.next + 1024 ∧ (mfind p.ordinal d.held).isSome = true)) →
      ∃ t, exec (.pushArrival id) s = .next t ∧ t = { s with pushes := merase id s.pushes, dies := t.dies } ∧
        (dieOf t i.die).dup = min 0xFF ((dieOf s i.die).dup + 1)) ∧
    (d.next < p.ordinal → p.ordinal < d.next + 1024 → mfind p.ordinal d.held = none →
      ∃ t, exec (.pushArrival id) s = .next t ∧ t = { s with pushes := merase id s.pushes, insts := t.insts } ∧
        drawOf t p.ticket = some { d with held := mput p.ordinal p.data d.held }) ∧
    (p.ordinal = d.next → mfind d.next d.held = none → mfind (d.next + 1) d.held = none →
      ∃ t e, exec (.pushArrival id) s = .next t ∧ t.pushes = merase id s.pushes ∧ drawOf t p.ticket = some e ∧
        e.next = d.next + 1)

/-- R298: a raster state block is held for its ordinal; one below NEXT or for an ordinal that has one is dropped and counted
in DUP. -/
def bindsArrive : Prop :=
  ∀ (s : State) (id : Nat) (p : Push) (i : Inst) (d : Draw), reaches s id p i d → p.bind = true →
    (d.next + 1024 ≤ p.ordinal → exec (.rsbindArrival id) s = .next s) ∧
    ((p.ordinal < d.next ∨ (p.ordinal < d.next + 1024 ∧ (mfind p.ordinal d.heldBinds).isSome = true)) →
      ∃ t, exec (.rsbindArrival id) s = .next t ∧ t = { s with pushes := merase id s.pushes, dies := t.dies } ∧
        (dieOf t i.die).dup = min 0xFF ((dieOf s i.die).dup + 1)) ∧
    (d.next ≤ p.ordinal → p.ordinal < d.next + 1024 → mfind p.ordinal d.heldBinds = none →
      ∃ t, exec (.rsbindArrival id) s = .next t ∧ t = { s with pushes := merase id s.pushes, insts := t.insts } ∧
        drawOf t p.ticket = some { d with heldBinds := mput p.ordinal p.data d.heldBinds })

/-- R296, R302: once every geometry team has ended, what is held is discarded and counted in GAP, and the sequencer is
drained. -/
def sequencersDrain : Prop :=
  (∀ (s : State) (ticket : Nat), drainReady s ticket = false → exec (.sequencerDrain ticket) s = .next s) ∧
  (∀ (s : State) (ticket : Nat) (i : Inst) (d : Draw), mfind ticket s.insts = some i → i.draw = some d →
    drainReady s ticket = true →
    ∃ t e, exec (.sequencerDrain ticket) s = .next t ∧ drawOf t ticket = some e ∧ e.drained = true ∧ e.held = [] ∧
      e.heldBinds = [] ∧ e.next = d.next ∧
      (dieOf t i.die).gap = min 0xFFFF ((dieOf s i.die).gap + (d.held.length + d.heldBinds.length)))

/-- R300, R302: an owner takes its oldest primitive off the way to it; the open group of a screen tile closes with the tile's
next batch number and its quads in order; and a closed group starts in a free slot of its pool team, in batch order. -/
def pixelGroups : Prop :=
  (∀ (s : State) (id : Nat) (it : RasterItem), mfind id s.raster = some it →
    (rasterReady s id it = false → exec (.primitiveRaster id) s = .next s) ∧
    (rasterReady s id it = true → ∃ t, exec (.primitiveRaster id) s = .next t ∧ t.raster = merase id s.raster ∧
      t.teams = s.teams ∧ t.mem = s.mem)) ∧
  (∀ (s : State) (ticket tile : Nat) (d : Draw) (g : OpenGroup), drawOf s ticket = some d → mfind tile d.open_ = some g →
    ∃ t, exec (.pixelGroupIdle ticket tile) s = .next t ∧
      t = { s with
        insts := t.insts, nextId := s.nextId + 1
        closed := mput s.nextId { ticket := ticket, core := g.core, tile := tile, batch := (mget {} tile d.batches).next
                                  sshade := g.sshade, samples := g.samples, quads := g.quads } s.closed } ∧
      ∃ e, drawOf t ticket = some e ∧ mfind tile e.open_ = none) ∧
  (∀ (s : State) (id : Nat) (c : ClosedGroup), mfind id s.closed = some c →
    (launchSlot s id c = none → exec (.pixelGroupLaunch id) s = .next s) ∧
    ∀ tid n, launchSlot s id c = some (tid, n) →
      ∃ t, exec (.pixelGroupLaunch id) s = .next t ∧ t.closed = merase id s.closed ∧
        mfind n (teamOf t tid).groups = some (pixelGroup s (teamOf s tid) n c) ∧ t.mem = s.mem)

/-! ## Results of the sampler and the traversal unit (17_footing.md) -/

/-- The path that waits for a result, once its operation has left the vertical queue. -/
def awaiting (s : State) (id : Nat) (o : TexOp) (r : Run) : Prop :=
  runOf { s with texops := merase id s.texops, at_ := some { team := o.team, group := o.group, path := o.path, len := 8 } } = some r

/-- R69, R311, R313: where the operands of every active lane carry poison, a sampling operation or a traversal reads nothing
and its results carry the tokens: four words a lane, one for a query. While the vertical bus is frozen it waits. -/
def footingResults : Prop :=
  ∀ (s : State) (id : Nat) (o : TexOp), mfind id s.texops = some o →
    (busFrozen s o.core = true → exec (.textureResult id) s = .next s ∧ exec (.traceResult id) s = .next s) ∧
    ∀ (ls : List Nat) (f : Nat → Word) (r : Run), busFrozen s o.core = false → ls.Nodup → (∀ l ∈ ls, l < 32) →
      o.lanes = ls.map (fun (l : Nat) => (l, PV.bad (f l))) → awaiting s id o r →
      (o.kind = .trace → ∃ t, exec (.traceResult id) s = .next t ∧
        wrote r { s with texops := merase id s.texops } t ((regsOf r.g).putV ls o.a 4 fun l => .bad (f l))) ∧
      (o.kind ≠ .trace → ∃ t, exec (.textureResult id) s = .next t ∧
        wrote r { s with texops := merase id s.texops } t
          ((regsOf r.g).putV ls o.a (if o.kind = .texq then 1 else 4) fun l => .bad (f l)))

/-! ## Monitors, commits and the watchdog (11_memory.md, 19_faults.md) -/

/-- R213: a write at the monitored word that changes what the blocked monw last read lets it issue again; a path whose word
reads the same stays blocked. -/
def monitorsWake : Prop :=
  ∀ (s : State) (team group path va seen : Nat) (sc : Scope) (x : Team) (g : Group) (p : PathSt) (u : State) (bs : List Byte),
    mfind team s.teams = some x → mfind group x.groups = some g → g.mon = some (va, sc) →
    mfind path g.paths = some p → p.wait = .monitor seen → readVa s (whoCore s team) va 8 .read .normal = (u, .bytes bs) →
    ∃ t, exec (.monitorWake team group) s = .next t ∧ onlyGroup s t team group ∧
      mfind path (groupAt t team group).paths = some (if ofBytes bs = seen then p else { p with wait := .none })

/-- The items of lanes of a group are no longer buffered by a team. -/
def itemsGone (t : State) (team group : Nat) (lanes : List Nat) : Prop :=
  ∀ i ∈ (teamOf t team).items, ¬(i.group = group ∧ i.thread ∈ lanes)

/-- None of the items of lanes of a group has to wait for its place. -/
def itemsMayGo (s : State) (team group : Nat) (lanes : List Nat) : Prop :=
  ((teamOf s team).items.any fun i => i.group == group && lanes.contains i.thread && itemWaits s team i) = false

/-- R352, R355, R356: a contained team commits without a compare: the items of its lanes leave the buffer. Twins whose
signatures are equal commit, and the items of both are gone; where a signature differs, in a group that can restart for the
first time, no item is performed, memory stays as it was, and the items of the group are gone from both copies. -/
def regionsCommit : Prop :=
  (∀ (s : State) (team group path : Nat) (ls : List Nat), commitSet s team group path = some ls →
    (teamOf s team).paired = false → itemsMayGo s team group ls →
    ∃ t, exec (.regionCommit team group path) s = .next t ∧ itemsGone t team group ls) ∧
  (∀ (s : State) (team group path : Nat) (ls : List Nat), commitSet s team group path = some ls →
    (teamOf s team).paired = true → (teamOf s (team % copyOne)).paired = true → itemsMayGo s (team % copyOne) group ls →
    ((∀ l ∈ ls, (((teamOf s (team % copyOne)).group group).thread l).sig =
        (((teamOf s (team % copyOne + copyOne)).group group).thread l).sig) →
      ∃ t, exec (.regionCommit team group path) s = .next t ∧ itemsGone t (team % copyOne) group ls ∧
        itemsGone t (team % copyOne + copyOne) group ls) ∧
    ((∃ l ∈ ls, (((teamOf s (team % copyOne)).group group).thread l).sig ≠
        (((teamOf s (team % copyOne + copyOne)).group group).thread l).sig) →
      ((teamOf s (team % copyOne)).group group).partly = false → ((teamOf s (team % copyOne)).group group).mismatch = (0, 0) →
      ((teamOf s (team % copyOne)).group group).restartable = true →
      ((teamOf s (team % copyOne + copyOne)).group group).restartable = true →
      ∃ t, exec (.regionCommit team group path) s = .next t ∧ t = { s with teams := t.teams } ∧
        (∀ i ∈ (teamOf t (team % copyOne)).items, i.group ≠ group) ∧
        ∀ i ∈ (teamOf t (team % copyOne + copyOne)).items, i.group ≠ group))

/-- R359: a watchdog that may not run does nothing; one that expires at a path of a team that is not paired calls off what
the path waits for and takes Fault(0x14) there. -/
def watchdogs : Prop :=
  (∀ (s : State) (team group : Nat), watchdogRuns s team group = false → exec (.watchdogExpiry team group) s = .next s) ∧
  (∀ (s : State) (team group path : Nat), watchdogRuns s team group = true →
    watchdogPath s ((teamOf s team).group group) = some path → (teamOf s team).paired = false →
    ∃ len, exec (.watchdogExpiry team group) s = .next (asPath (cancelWait s team group path) team group path len
      fun r => r.faultIn (r.waitIn r.s .none) { code := 0x14 }))

/-! ## Saves (19_faults.md) -/

/-- R345: a pre-emption of a slot that holds no team ends with STATUS 2; of a team, GO reads 1 and the team is saving; and a
register whose GO reads 1 ignores another. -/
def preemptions : Prop :=
  ∀ (s : State) (die slot : Nat), die < 2 →
    (bitB (dieOf s die).preempt 31 = true → exec (.preemptSave die slot false) s = .next s) ∧
    (bitB (dieOf s die).preempt 31 = false →
      (teamInSlot s (die * 2048 + slot % 2048) = none → ∃ t, exec (.preemptSave die slot false) s = .next t ∧
        t = { s with dies := t.dies } ∧ (dieOf t die).preempt = 2 * 2 ^ 24 + slot % 2048) ∧
      ∀ tid, teamInSlot s (die * 2048 + slot % 2048) = some tid → (teamOf s tid).loc = .resident →
        (teamOf s tid).paired = false →
        ∃ t, exec (.preemptSave die slot false) s = .next t ∧ (dieOf t die).preempt = 2 ^ 31 + slot % 2048 ∧
          (teamOf t tid).loc = .saving ∧ (teamOf t tid).groups = (teamOf s tid).groups)

/-- R346: a team that has not drained goes on saving; one that has leaves its core, keeps its state as an image, and its bind
record is cleared. -/
def savesEnd : Prop :=
  ∀ (s : State) (team : Nat) (x : Team), mfind team s.teams = some x →
    ((x.loc ≠ .saving ∨ drained s team = false) → exec (.saveComplete team) s = .next s) ∧
    (x.loc = .saving → drained s team = true →
      ∃ t, exec (.saveComplete team) s = .next t ∧ (teamOf t team).loc = .saved ∧ (teamOf t team).slot = none ∧
        (teamOf t team).image = true ∧ (teamOf t team).scratch = x.scratch ∧ (teamOf t team).tiles = x.tiles ∧
        ∀ k, x.slot = some k → mget {} k t.slots = {})

end Sys2Proof.Claims

namespace Sys2Proof.Claims

open Sys2Proof Sys2Proof.Machine Sys2Proof.Safety

/-- A record has gone to the error log at its tail, or has been dropped and counted where the log is full (R375). -/
def logged (s t : State) (e : ElogRec) : Prop :=
  if (s.ctl.elogTail + 2 ^ 64 - s.ctl.elogHead) % 2 ^ 64 = 1024 then t.ctl.elogDrop = min (2 ^ 64 - 1) (s.ctl.elogDrop + 1)
  else mfind (s.ctl.elogTail % 1024) t.elog = some { e with seq := s.ctl.elogTail }

/-! ## In-service retirement (20_outside.md R376, 16_surfaces.md R279) -/

/-- The management core takes a service command: it is awake, and none is under way. -/
def servable (s : State) : Prop := awake s ∧ serviceBusy s = false

/-- BUSY reads 1 with the command. -/
def servicing (t : State) (ret : Bool) (unit index : Nat) : Prop := t.ctl.service = 2 ^ 31 + serviceWord ret unit index

/-- R279, R376: a retired bank leaves the availability map, and a returned one is in it again; a change counts in the remap
generation. -/
def banksServed : Prop :=
  ∀ (s : State) (arg : Nat), servable s → arg < 2 * banksPerStack →
    (∃ t, exec (.serviceRetireBank arg false) s = .next t ∧ servicing t true 0 arg ∧
      (dieOf t (arg / banksPerStack)).deadBanks.contains (arg % banksPerStack) = true ∧
      ((dieOf s (arg / banksPerStack)).deadBanks.contains (arg % banksPerStack) = false →
        (dieOf t (arg / banksPerStack)).remapGen = ((dieOf s (arg / banksPerStack)).remapGen + 1) % 2 ^ 32)) ∧
    (∃ t, exec (.serviceReturnBank arg false) s = .next t ∧ servicing t false 0 arg ∧
      (dieOf t (arg / banksPerStack)).deadBanks.contains (arg % banksPerStack) = false ∧
      ((dieOf s (arg / banksPerStack)).deadBanks.contains (arg % banksPerStack) = true →
        (dieOf t (arg / banksPerStack)).remapGen = ((dieOf s (arg / banksPerStack)).remapGen + 1) % 2 ^ 32))

/-- R323, R368, R376: a retired link lane is out, and its port trains at the width left or goes Down with its last lane; a
returned one is in again, and its Active port trains; a retired vertical bus lane is out, and its bus freezes while a spare
takes over, or without one its core is fenced; a returned one is no longer out. -/
def lanesServed : Prop :=
  (∀ (s : State) (arg : Nat), servable s → arg / 4 < 18 →
    ((portOf s (arg / 4)).out.contains (arg % 4) = false →
      ∃ t, exec (.serviceRetireLinkLane arg false) s = .next t ∧ servicing t true 1 arg ∧
        (portOf t (arg / 4)).out = insertNat (arg % 4) (portOf s (arg / 4)).out ∧
        ((portOf t (arg / 4)).width = 0 → (portOf t (arg / 4)).st = 0) ∧
        ((portOf t (arg / 4)).width ≠ 0 → (portOf s (arg / 4)).st = 1 →
          (portOf t (arg / 4)).st = 2 ∧ (portOf t (arg / 4)).lanes = (portOf t (arg / 4)).width)) ∧
    ((portOf s (arg / 4)).out.contains (arg % 4) = true →
      ∃ t, exec (.serviceReturnLinkLane arg false) s = .next t ∧ servicing t false 1 arg ∧
        (portOf t (arg / 4)).out = (portOf s (arg / 4)).out.filter (· != arg % 4) ∧
        ((portOf t (arg / 4)).width ≠ 0 → (portOf s (arg / 4)).st = 1 →
          (portOf t (arg / 4)).st = 2 ∧ (portOf t (arg / 4)).lanes = (portOf t (arg / 4)).width))) ∧
  (∀ (s : State) (arg : Nat), servable s →
    (∃ t, exec (.serviceRetireVbusLane arg false) s = .next t ∧ servicing t true 2 arg ∧
      (dieOf t (dieOfCore (Config.laneCore arg % Config.cores))).vbusOut.contains arg = true ∧
      ((dieOf s (dieOfCore (Config.laneCore arg % Config.cores))).vbusOut.contains arg = false →
        ((dieOf s (dieOfCore (Config.laneCore arg % Config.cores))).vbusOut.length <
            Config.spareLanes (dieOfCore (Config.laneCore arg % Config.cores)) →
          (dieOf t (dieOfCore (Config.laneCore arg % Config.cores))).vbusFrozen = true) ∧
        (Config.spareLanes (dieOfCore (Config.laneCore arg % Config.cores)) ≤
            (dieOf s (dieOfCore (Config.laneCore arg % Config.cores))).vbusOut.length →
          (coreOf t (Config.laneCore arg % Config.cores)).fenced = true))) ∧
    (∃ t, exec (.serviceReturnVbusLane arg false) s = .next t ∧ servicing t false 2 arg ∧
      (dieOf t (dieOfCore (Config.laneCore arg % Config.cores))).vbusOut.contains arg = false))

/-- R376: a core that is being retired is fenced, and so are the four of a cluster; one that returns is neither fenced nor
retired. -/
def coresServed : Prop :=
  (∀ (s : State) (core : Nat), servable s → core < Config.cores →
    (∃ t, exec (.serviceRetireCore core false) s = .next t ∧ servicing t true 3 core ∧ (coreOf t core).fenced = true) ∧
    (∃ t, exec (.serviceReturnCore core false) s = .next t ∧ servicing t false 3 core ∧
      (coreOf t core).fenced = false ∧ (coreOf t core).retired = false)) ∧
  (∀ (s : State) (cluster : Nat), servable s → cluster < Config.cores / 4 →
    (∃ t, exec (.serviceRetireCluster cluster false) s = .next t ∧ servicing t true 4 cluster ∧
      ∀ i, i < 4 → (coreOf t (4 * cluster + i)).fenced = true) ∧
    (∃ t, exec (.serviceReturnCluster cluster false) s = .next t ∧ servicing t false 4 cluster ∧
      ∀ i, i < 4 → (coreOf t (4 * cluster + i)).fenced = false ∧ (coreOf t (4 * cluster + i)).retired = false))

/-- A service command of Table 20.7. -/
def isService (i : Instr) (arg : Nat) (host : Bool) : Prop :=
  i = .serviceRetireBank arg host ∨ i = .serviceReturnBank arg host ∨ i = .serviceRetireLinkLane arg host ∨
  i = .serviceReturnLinkLane arg host ∨ i = .serviceRetireVbusLane arg host ∨ i = .serviceReturnVbusLane arg host ∨
  i = .serviceRetireCore arg host ∨ i = .serviceReturnCore arg host ∨ i = .serviceRetireCluster arg host ∨
  i = .serviceReturnCluster arg host

/-- R373, R376: a command given while BUSY reads 1 is ignored; one that the host gives outside host-assisted remapping is
counted and starts nothing; when a command is done BUSY clears. -/
def servicesEnd : Prop :=
  (∀ (s : State) (i : Instr) (arg : Nat), awake s → isService i arg false → serviceBusy s = true → exec i s = .next s) ∧
  (∀ (s : State) (i : Instr) (arg : Nat), awake s → isService i arg true → bitB s.ctl.hmode 1 = false →
    ∃ t, exec i s = .next t ∧ t.ctl.service = s.ctl.service ∧ t.dies = s.dies ∧ t.ports = s.ports ∧ t.cores = s.cores ∧
      t.teams = s.teams ∧ mget 0 120 t.orphans = min 0xFFFFFFFF (mget 0 120 s.orphans + 1)) ∧
  (∀ (s : State), serviceBusy s = true → serviceOver s = false → exec .serviceCommandDone s = .next s) ∧
  (∀ (s : State), serviceBusy s = true → serviceOver s = true → ∃ t, exec .serviceCommandDone s = .next t ∧
    t.ctl.service = s.ctl.service % 2 ^ 31 ∧ t = { s with ctl := t.ctl, cores := t.cores })

/-! ## Classes, power and banks (18_fabric.md R318, 20_outside.md R377) -/

/-- R318: a write of a class control register whose die then keeps the conditions is performed, and another changes no
register and is logged. -/
def classesWritten : Prop :=
  ∀ (s : State) (die cls value : Nat), awake s → die < 2 → cls < 8 →
    (classesOk ((dieOf s die).classes.set cls (classFields value)) = true →
      ∃ t, exec (.classControlWrite die cls value false) s = .next t ∧ t = { s with dies := t.dies } ∧
        dieOf t die = { dieOf s die with classes := (dieOf s die).classes.set cls (classFields value) }) ∧
    (classesOk ((dieOf s die).classes.set cls (classFields value)) = false →
      ∃ t, exec (.classControlWrite die cls value false) s = .next t ∧ t.dies = s.dies ∧
        t = logError s { kind := 3, unit := die, detail := value % 2 ^ 32 + cls * 2 ^ 32 })

/-- R377: a power limit below 600 takes 600 and one above 2200 takes 2200; a throttled clock changes no other state; a bank
that overheats leaves service, and returns once it has cooled. -/
def powerAndBanks : Prop :=
  (∀ (s : State) (value : Nat), awake s → exec (.powerLimitWrite value false) s =
    .next { s with ctl := { s.ctl with power := min 2200 (max 600 (value % 2 ^ 16)) } }) ∧
  (∀ (s : State) (footing : Bool) (k : Nat), exec (.clockThrottle footing k) s = .next { s with
    clocks := if footing then (s.clocks.1, min 16 (max 1 k)) else (min 16 (max 1 k), s.clocks.2) }) ∧
  (∀ (s : State) (bank : Nat), bank < 2 * banksPerStack →
    (dieOf s (bank / banksPerStack)).deadBanks.contains (bank % banksPerStack) = false →
    ∃ t, exec (.bankOverheat bank) s = .next t ∧
      (dieOf t (bank / banksPerStack)).deadBanks.contains (bank % banksPerStack) = true ∧
      (dieOf t (bank / banksPerStack)).hotBanks.contains (bank % banksPerStack) = true) ∧
  (∀ (s : State) (bank : Nat), bank < 2 * banksPerStack →
    (dieOf s (bank / banksPerStack)).hotBanks.contains (bank % banksPerStack) = true →
    ∃ t, exec (.bankCooled bank) s = .next t ∧
      (dieOf t (bank / banksPerStack)).deadBanks.contains (bank % banksPerStack) = false ∧
      (dieOf t (bank / banksPerStack)).hotBanks.contains (bank % banksPerStack) = false)

/-! ## The host port (20_outside.md R361 to R364, R371, R373, R378) -/

/-- The package when the host has made a request that is not a debug write (R363). -/
def touched (s : State) : State := { s with hostLine := none }

/-- R371: a report that is asked for is made over NONCE as it stands, and when it is done it holds its body and the
signature of its body, and DONE reads 1; a request while one is made is ignored. -/
def attestations : Prop :=
  (∀ (s : State), awake s → (s.ctl.attest = none → exec (.attestationRequest true) s =
      .next { touched s with ctl := { s.ctl with attest := some s.ctl.nonce, attDone := false } }) ∧
    (s.ctl.attest ≠ none → exec (.attestationRequest true) s = .next (touched s))) ∧
  (∀ (s : State) (nonce : Nat), s.ctl.attest = some nonce →
    ∃ t, exec .attestationDone s = .next t ∧ t = { s with ctl := { s.ctl with
        report := t.ctl.report, attest := none, attDone := true } } ∧
      t.ctl.report = reportBody s nonce ++ exactly 64 (Config.sign (reportBody s nonce)) ∧ (reportBody s nonce).length = 128)

/-- R364, R373, R378: the firmware writes HMODE's three bits; the host's write of it, a register of the firmware's, changes
nothing but what counts and logs it; a write to a reserved offset, and one that is not aligned, is ignored; and the host
writes GNODE. -/
def registerWrites : Prop :=
  (∀ (s : State) (v : Nat), awake s → exec (.registerWrite 0 8 8 v false) s =
    .next { s with ctl := { s.ctl with hmode := v % 8 } }) ∧
  (∀ (s : State) (v : Nat), awake s → ∃ t, exec (.registerWrite 0 8 8 v true) s = .next t ∧ t.ctl.hmode = s.ctl.hmode ∧
    t = { s with hostLine := none, orphans := t.orphans, ctl := t.ctl, elog := t.elog, irqs := t.irqs, fwNotes := t.fwNotes } ∧
    mget 0 120 t.orphans = min 0xFFFFFFFF (mget 0 120 s.orphans + 1)) ∧
  (∀ (s : State) (off v : Nat), 0x3000000 ≤ off → exec (.registerWrite 0 off 8 v false) s = .next s) ∧
  (∀ (s : State) (off size v : Nat), off % size ≠ 0 → exec (.registerWrite 0 off size v false) s = .next s) ∧
  (∀ (s : State) (k v : Nat), 64 ≤ k → ∃ t, exec (.registerWrite 2 (64 * k) 8 v true) s = .next t ∧
    t = { s with hostLine := none, orphans := t.orphans } ∧ mget 0 120 t.orphans = min 0xFFFFFFFF (mget 0 120 s.orphans + 1)) ∧
  (∀ (s : State) (k v : Nat), k < 64 → ∃ t, exec (.registerWrite 2 (64 * k) 8 v true) s = .next t ∧
    t = { s with hostLine := none, gnodes := t.gnodes } ∧ mget 0 k t.gnodes = v % 2 ^ 64)

/-- R57, R130, R364, Table 20.3: a port without a node that can be reached completes Completer Abort, and a denied access of
it is logged; a read returns COUNT and changes no memory; an operand that no graph-count atomic has completes Completer Abort;
GADD and GDEC return the count that they found, and wait where the slice's notification buffer has no room. -/
def graphPorts : Prop :=
  ∀ (s : State) (k : Nat),
    (portNode (touched s) k = none →
      exec (.graphPortRead k) s = .next (reply (notePort (touched s) k) .abort) ∧
      (∀ d, 1 ≤ d → d < 2 ^ 31 → exec (.graphPortAdd k d) s = .next (reply (notePort (touched s) k) .abort)) ∧
      exec (.graphPortDec k 0xFFFFFFFF) s = .next (reply (notePort (touched s) k) .abort)) ∧
    (∀ d, (d = 0 ∨ 2 ^ 31 ≤ d) → exec (.graphPortAdd k d) s = .next (reply (touched s) .abort)) ∧
    (∀ d, d ≠ 0xFFFFFFFF → exec (.graphPortDec k d) s = .next (reply (touched s) .abort)) ∧
    ∀ va pa, portNode (touched s) k = some (va, pa) →
      exec (.graphPortRead k) s = .next (reply (touched s) (.host (physNat s (pa + 4) 4))) ∧
      (notifyStalls (touched s) pa = true →
        (∀ d, 1 ≤ d → d < 2 ^ 31 → exec (.graphPortAdd k d) s = .next (touched s)) ∧
        exec (.graphPortDec k 0xFFFFFFFF) s = .next (touched s)) ∧
      (notifyStalls (touched s) pa = false →
        (∀ d, 1 ≤ d → d < 2 ^ 31 → ∃ t, exec (.graphPortAdd k d) s = .next t ∧
          t.replies = s.replies ++ [.host (physNat s (pa + 4) 4)]) ∧
        ∃ t, exec (.graphPortDec k 0xFFFFFFFF) s = .next t ∧ t.replies = s.replies ++ [.host (physNat s (pa + 4) 4)])

/-- R50, R57, R363: a debug read that is rejected or dropped completes Completer Abort, and a denial is logged; one that is
performed returns its bytes; a debug write that is rejected changes no memory and is counted and logged, and one that is
dropped is counted. R368: an access that a link in Recovery holds up waits. -/
def debugWindow : Prop :=
  (∀ (s : State) (off size : Nat), s.ctl.fatal = false →
    (∀ c, debugCheck (touched s) off size .read = .reject c → ∃ t, exec (.hostDebugRead off size) s = .next t ∧
      t = { s with hostLine := none, replies := s.replies ++ [.abort], denials := t.denials, denialNext := t.denialNext
                   denialCount := t.denialCount }) ∧
    (debugCheck (touched s) off size .read = .stale → exec (.hostDebugRead off size) s = .next (reply (touched s) .abort)) ∧
    (debugCheck (touched s) off size .read = .waits → exec (.hostDebugRead off size) s = .next (touched s)) ∧
    ∀ p u bs, debugCheck (touched s) off size .read = .place p →
      readPlace (touched s) (whoHost (touched s)) p size .normal = (u, .bytes bs) →
      exec (.hostDebugRead off size) s = .next (reply u (.host (ofBytes bs)))) ∧
  (∀ (s : State) (off size value : Nat), s.ctl.fatal = false →
    (∀ c, debugCheck s off size .write = .reject c → ∃ t, exec (.hostDebugWrite off size value) s = .next t ∧ t.mem = s.mem ∧
      t.hostLine = none ∧ mget 0 120 t.orphans = min 0xFFFFFFFF (mget 0 120 s.orphans + 1) ∧
      logged s t { kind := 11, code := c, cid := some (hwinCid s), icn := hwinIcn s, addr := off }) ∧
    (debugCheck s off size .write = .stale → ∃ t, exec (.hostDebugWrite off size value) s = .next t ∧
      t = { s with hostLine := none, orphans := t.orphans } ∧
      mget 0 120 t.orphans = min 0xFFFFFFFF (mget 0 120 s.orphans + 1)) ∧
    (debugCheck s off size .write = .waits → exec (.hostDebugWrite off size value) s = .next s) ∧
    ∀ pa u, debugCheck s off size .write = .place (.normal pa) →
      writePlace s (whoHost s) (.normal pa) (toBytes size value) .nl1 = (u, 0) →
      exec (.hostDebugWrite off size value) s = .next (trackLine u pa size))

/-- R361, R364: a read of BAR0 returns the register, and one of a GNODE its bits 55:7; a plain read of a graph port's GOP
completes Completer Abort; a posted request that nothing performs is discarded and counted; and a read
that lies outside BAR0 and BAR2 and that no other step performs completes Unsupported Request. -/
def otherRequests : Prop :=
  (∀ (s : State) (off : Nat), off % 8 = 0 → off + 8 ≤ 2 ^ 26 → exec (.hostUnsupportedRequest 0 off 8 false) s =
    .next (reply (touched s) (.host (readWindow (touched s) off 8)))) ∧
  (∀ (s : State) (k : Nat), s.ctl.fatal = false → k < 64 →
    exec (.hostUnsupportedRequest 2 (64 * k) 8 false) s =
      .next (reply (touched s) (.host (mget 0 k s.gnodes / 2 ^ 7 % 2 ^ 49 * 2 ^ 7))) ∧
    ∀ size, exec (.hostUnsupportedRequest 2 (64 * k + 8) size false) s = .next (reply (touched s) .abort)) ∧
  (∀ (s : State) (bar off size : Nat), ∃ t, exec (.hostUnsupportedRequest bar off size true) s = .next t ∧
    t = { s with hostLine := none, orphans := t.orphans } ∧
    mget 0 120 t.orphans = min 0xFFFFFFFF (mget 0 120 s.orphans + 1)) ∧
  (∀ (s : State) (bar off size : Nat), bar ≠ 0 → bar ≠ 2 → s.ctl.fatal = false →
    exec (.hostUnsupportedRequest bar off size false) s = .next (reply (touched s) .unsupported))

/-! ## Links, mortar and the vertical bus (18_fabric.md R322, R323; 20_outside.md R367, R368) -/

/-- A request of a peer that a port takes: the port is Active, and the request is a natural access. -/
def peerAsks (s : State) (port pa size : Nat) : Prop :=
  port < 18 ∧ (portOf s port).st = 1 ∧ s.ctl.fatal = false ∧ (size = 1 ∨ size = 2 ∨ size = 4 ∨ size = 8) ∧ pa % size = 0

/-- R46, R367: a pair that the import table does not hold is denied; a stale request is dropped; and a read of normal memory
that is allowed is answered with its bytes. -/
def peersServed : Prop :=
  ∀ (s : State) (port dev cid icn kind pa size value : Nat), peerAsks s port pa size →
    (importOf s dev cid = none → exec (.remoteRequest port dev cid icn kind pa size value) s =
      .next (reply s (.peer port dev 3 0))) ∧
    ∀ c, importOf s dev cid = some c →
      ((dropped s (96 + port) c icn = true ∨ dropped s (sliceOf pa) c icn = true) → exec (.remoteRequest port dev cid icn kind pa size value) s = .next s) ∧
      ∀ u bs, dropped s (96 + port) c icn = false → dropped s (sliceOf pa) c icn = false → kind = 0 →
        readNormal s (whoPeer port c icn) pa size .nl1 = (u, .bytes bs) →
        exec (.remoteRequest port dev cid icn kind pa size value) s = .next (reply u (.peer port dev 0 (ofBytes bs)))

/-- R368: training makes a port with a lane in service Active; a port in service enters Recovery; and a port in Recovery
for too long, or whose peer is lost, goes Down and is logged. -/
def portsChange : Prop :=
  (∀ (s : State) (port lanes : Nat), port < 18 → (portOf s port).width ≠ 0 → lanes ≠ 0 →
    ∃ t, exec (.linkTrained port lanes) s = .next t ∧ t = { s with ports := t.ports } ∧
      portOf t port = { portOf s port with st := 1, lanes := min (linkWidth lanes) (portOf s port).width }) ∧
  (∀ (s : State) (port : Nat),
    ((portOf s port).st = 1 → ∃ t, exec (.linkRecovery port) s = .next t ∧ t = { s with ports := t.ports } ∧
      portOf t port = { portOf s port with st := 2 }) ∧
    ((portOf s port).st ≠ 1 → exec (.linkRecovery port) s = .next s) ∧
    ((portOf s port).st = 2 → ∃ t, exec (.linkRecoveryTimeout port) s = .next t ∧ (portOf t port).st = 0 ∧ t.mem = s.mem ∧
      logged s t { kind := 8, unit := 96 + port }) ∧
    ((portOf s port).st ≠ 2 → exec (.linkRecoveryTimeout port) s = .next s) ∧
    ((portOf s port).st ≠ 0 → ∃ t, exec (.linkPeerLost port) s = .next t ∧ (portOf t port).st = 0 ∧ t.mem = s.mem ∧
      logged s t { kind := 8, unit := 96 + port }) ∧
    ((portOf s port).st = 0 → exec (.linkPeerLost port) s = .next s))

/-- R322, R323, R374: a mortar module is out of service while it repairs and returns, and with all 12 out the error is fatal
and no context is left; a lost lane of the vertical bus freezes its bus while a spare takes over, and without a spare its core
is fenced; retraining waits once for
a transfer that is waited for, and is then performed; and the bus resumes. -/
def fabricRepairs : Prop :=
  (∀ (s : State) (m : Nat), m < 12 → exec (.mortarRepair m) s = .next { s with mortarOut := insertNat m s.mortarOut }) ∧
  (∀ (s : State) (m : Nat), exec (.mortarModuleReturn m) s = .next { s with mortarOut := s.mortarOut.filter (· != m) }) ∧
  (∀ (s : State) (m : Nat), m < 12 → s.ctl.fatal = false →
    ((insertNat m s.mortarOut).length ≠ 12 → exec (.mortarLoss m) s = .next { s with mortarOut := insertNat m s.mortarOut }) ∧
    ((insertNat m s.mortarOut).length = 12 → ∃ t, exec (.mortarLoss m) s = .next t ∧ t.ctl.fatal = true ∧ t.teams = [] ∧
      t.ctx = [] ∧ t.mem = s.mem)) ∧
  (∀ (s : State) (lane : Nat),
    (dieOf s (dieOfCore (Config.laneCore lane % Config.cores))).vbusOut.contains lane = false →
    ∃ t, exec (.vbusLaneRepair lane) s = .next t ∧
      (dieOf t (dieOfCore (Config.laneCore lane % Config.cores))).vbusOut.contains lane = true ∧
      ((dieOf s (dieOfCore (Config.laneCore lane % Config.cores))).vbusOut.length <
          Config.spareLanes (dieOfCore (Config.laneCore lane % Config.cores)) →
        (dieOf t (dieOfCore (Config.laneCore lane % Config.cores))).vbusFrozen = true) ∧
      (Config.spareLanes (dieOfCore (Config.laneCore lane % Config.cores)) ≤
          (dieOf s (dieOfCore (Config.laneCore lane % Config.cores))).vbusOut.length →
        (coreOf t (Config.laneCore lane % Config.cores)).fenced = true)) ∧
  (∀ (s : State) (die : Nat), die < 2 →
    (busAwaited s die = true → (dieOf s die).vbusDue = false → ∃ t, exec (.vbusRetrain die) s = .next t ∧
      t = { s with dies := t.dies } ∧ dieOf t die = { dieOf s die with vbusDue := true }) ∧
    ((busAwaited s die = false ∨ (dieOf s die).vbusDue = true) → ∃ t, exec (.vbusRetrain die) s = .next t ∧
      t = { s with dies := t.dies } ∧ dieOf t die = { dieOf s die with vbusFrozen := true, vbusDue := false }) ∧
    (∃ t, exec (.verticalBusUnfreeze die) s = .next t ∧ t = { s with dies := t.dies } ∧
      dieOf t die = { dieOf s die with vbusFrozen := false }))

/-! ## Memory errors, boot, and faults of decoding and fetching -/

/-- R358: a line of HBM that cannot be corrected, with no dirty copy of it, takes its marker and is logged, and keeps its
bytes. -/
def linesMarked : Prop :=
  ∀ (s : State) (line : Nat), inHbm (128 * line) = true →
    (s.l1.filter fun e => e.2.dirty && e.1 % 2 ^ 52 / 128 == line) = [] →
    ∃ t, exec (.hbmUncorrectable line) s = .next t ∧ isMarked t (128 * line) = true ∧ t.mem = s.mem ∧
      logged s t { kind := 6, addr := 128 * line } ∧
      ∀ k, k ≠ line → isMarked t (128 * k) = isMarked s (128 * k)

/-- R57, R369, R370: the boot ROM runs once, and locks the boot table, that of target 121, first; an image that fails a check leaves the core halted with the number of the first step
that failed; one that passes runs, and BOOTSTAT reads 1; an update that passes replaces the running image, and one that does
not leaves it and is logged. -/
def bootAndUpdate : Prop :=
  (∀ (s : State), s.ctl.bootstat ≠ 0 → exec .boot s = .next s) ∧
  (∀ (s : State), s.ctl.bootstat = 0 → mfind 0 s.flash = none → exec .boot s =
    .next { lockBootTable s with ctl := { s.ctl with bootstat := 2 + 1 * 2 ^ 8 } }) ∧
  (∀ (s : State) (n : Nat), n < 256 → mget {} (121 * 256 + n) (lockBootTable s).acl = aclOf (Config.bootEntry n)) ∧
  (∀ (s : State) (f : Firmware), s.ctl.bootstat = 0 → mfind 0 s.flash = some f → ∃ t, exec .boot s = .next t ∧
    (failStep (some f) ≠ 0 → t = { lockBootTable s with ctl := { s.ctl with bootstat := 2 + failStep (some f) * 2 ^ 8 } }) ∧
    (failStep (some f) = 0 → t.ctl.bootstat = 1) ∧
    (failStep (some f) = 0 → f.setup = [] →
      t = { lockBootTable s with ctl := { s.ctl with fwDigest := Config.sha256 f.body, svn := f.svn, bootstat := 1 } })) ∧
  (∀ (s : State) (image : Nat), s.ctl.bootstat = 1 → mfind image s.flash = none →
    exec (.firmwareUpdate image) s = .next (logError s { kind := 9, detail := 1 })) ∧
  (∀ (s : State) (image : Nat) (f : Firmware), s.ctl.bootstat = 1 → mfind image s.flash = some f →
    exec (.firmwareUpdate image) s = .next (if failStep (some f) = 0 then
      { s with ctl := { s.ctl with fwDigest := Config.sha256 f.body, svn := f.svn } }
    else logError s { kind := 9, detail := failStep (some f) }))

/-- What a failed fetch at an address records of its translation: nothing for a local address, or for a code that the
translation does not give. -/
def fetchFailure (s : State) (r : Run) (code va : Nat) : Option TrFail :=
  if isLocal va then none
  else
    match checkGlobal s r.who va 4 .fetch with
    | .bad k tr => if k = code then tr else none
    | _ => none

/-- The state in which a failed fetch takes its fault: a failed translation is dropped from its TLBs, and a denied walk is
logged (R57, R219). -/
def afterFetch (s : State) (r : Run) (va : Nat) : State :=
  if isLocal va then s else noteTranslation s r.who va (checkGlobal s r.who va 4 .fetch)

/-- R24, R28, R333: a word that is no instruction takes Fault(0x06); a fetch that fails takes Fault of its code at its
address. -/
def decodingFaults : Prop :=
  (∀ (s : State) (r : Run), runOf s = some r → exec .illegalEncoding s = .next (r.fault 6)) ∧
  (∀ (s : State) (r : Run) (code va : Nat), runOf s = some r → code ∈ [1, 2, 3, 5, 0xB, 0x13] →
    exec (.instructionFetchFault code va) s = .next (r.faultIn (afterFetch s r va)
      { code := code, addr := va, tr := fetchFailure s r code va, kind := .fetch, firstFetch := va == r.pc }))

/-! ## Completion -/

/-- A per-lane form completes: from every state and operands on which the path issues it, exec answers a next state in which
the path has passed it, each active lane of its destination holds a result, and beside that only flags may have changed. -/
def laneFormCompletes (i : Std → Instr) (k : Std → Nat) : Prop :=
  ∀ (x : Std) (s : State) (r : Run), issueOf (i x) s = some r →
    ∃ t f fl, exec (i x) s = .next t ∧ wrote r s t { (old r).putV r.act x.a.toNat (k x) f with fflags := fl }

/-- The registers of a conversion's destination: one where its type is narrower than 32 bits. -/
def cvtRegs (x : Std) : Nat := if w x < 32 then 1 else x.ty.regs

/-- Each service command that is taken runs: BUSY reads 1 with it. -/
def servicesComplete : Prop :=
  ∀ (s : State) (arg : Nat), servable s →
    (∃ t, exec (.serviceRetireBank arg false) s = .next t ∧ servicing t true 0 arg) ∧
    (∃ t, exec (.serviceReturnBank arg false) s = .next t ∧ servicing t false 0 arg) ∧
    (∃ t, exec (.serviceRetireLinkLane arg false) s = .next t ∧ servicing t true 1 arg) ∧
    (∃ t, exec (.serviceReturnLinkLane arg false) s = .next t ∧ servicing t false 1 arg) ∧
    (∃ t, exec (.serviceRetireVbusLane arg false) s = .next t ∧ servicing t true 2 arg) ∧
    (∃ t, exec (.serviceReturnVbusLane arg false) s = .next t ∧ servicing t false 2 arg) ∧
    (∃ t, exec (.serviceRetireCore arg false) s = .next t ∧ servicing t true 3 arg) ∧
    (∃ t, exec (.serviceReturnCore arg false) s = .next t ∧ servicing t false 3 arg) ∧
    (∃ t, exec (.serviceRetireCluster arg false) s = .next t ∧ servicing t true 4 arg) ∧
    (∃ t, exec (.serviceReturnCluster arg false) s = .next t ∧ servicing t false 4 arg)

/-- The requests of the host and of peers complete with the answer to them, and a command in progress that is over ends. -/
def requestsComplete : Prop :=
  (∀ (s : State), serviceBusy s = true → serviceOver s = true →
    ∃ t, exec .serviceCommandDone s = .next t ∧ serviceBusy t = false) ∧
  (∀ (s : State) (k va pa : Nat), portNode (touched s) k = some (va, pa) → notifyStalls (touched s) pa = false →
    exec (.graphPortRead k) s = .next (reply (touched s) (.host (physNat s (pa + 4) 4))) ∧
    (∀ d, 1 ≤ d → d < 2 ^ 31 → ∃ t, exec (.graphPortAdd k d) s = .next t ∧
      t.replies = s.replies ++ [.host (physNat s (pa + 4) 4)]) ∧
    ∃ t, exec (.graphPortDec k 0xFFFFFFFF) s = .next t ∧ t.replies = s.replies ++ [.host (physNat s (pa + 4) 4)]) ∧
  (∀ (s : State) (off size pa : Nat) (u : State) (bs : List Byte), s.ctl.fatal = false →
    debugCheck (touched s) off size .read = .place (.normal pa) →
    readNormal (touched s) (whoHost (touched s)) pa size .normal = (u, .bytes bs) →
    exec (.hostDebugRead off size) s = .next (reply u (.host (ofBytes bs)))) ∧
  (∀ (s : State) (off size value pa : Nat) (u : State), s.ctl.fatal = false →
    debugCheck s off size .write = .place (.normal pa) →
    writePlace s (whoHost s) (.normal pa) (toBytes size value) .nl1 = (u, 0) →
    exec (.hostDebugWrite off size value) s = .next (trackLine u pa size)) ∧
  (∀ (s : State) (bar off size : Nat), 2 < bar → s.ctl.fatal = false →
    exec (.hostUnsupportedRequest bar off size false) s = .next (reply (touched s) .unsupported)) ∧
  (∀ (s : State) (port dev cid icn pa size value c : Nat) (u : State) (bs : List Byte), peerAsks s port pa size →
    importOf s dev cid = some c → dropped s (96 + port) c icn = false → dropped s (sliceOf pa) c icn = false →
    readNormal s (whoPeer port c icn) pa size .nl1 = (u, .bytes bs) →
    exec (.remoteRequest port dev cid icn 0 pa size value) s = .next (reply u (.peer port dev 0 (ofBytes bs))))

/-- What happens to link ports, mortar modules and the vertical buses: each event takes its port, module or lane to the state
it names. -/
def fabricCompletes : Prop :=
  (∀ (s : State) (port lanes : Nat), port < 18 → (portOf s port).width ≠ 0 → lanes ≠ 0 →
    ∃ t, exec (.linkTrained port lanes) s = .next t ∧ (portOf t port).st = 1) ∧
  (∀ (s : State) (port : Nat), (portOf s port).st = 1 → ∃ t, exec (.linkRecovery port) s = .next t ∧ (portOf t port).st = 2) ∧
  (∀ (s : State) (port : Nat), (portOf s port).st = 2 → ∃ t, exec (.linkRecoveryTimeout port) s = .next t ∧ (portOf t port).st = 0) ∧
  (∀ (s : State) (port : Nat), (portOf s port).st ≠ 0 → ∃ t, exec (.linkPeerLost port) s = .next t ∧ (portOf t port).st = 0) ∧
  (∀ (s : State) (m : Nat), m < 12 → s.ctl.fatal = false →
    (∃ t, exec (.mortarRepair m) s = .next t ∧ m ∈ t.mortarOut) ∧ (∃ t, exec (.mortarLoss m) s = .next t ∧ m ∈ t.mortarOut) ∧
    ∃ t, exec (.mortarModuleReturn m) s = .next t ∧ m ∉ t.mortarOut) ∧
  (∀ (s : State) (lane : Nat), ∃ t, exec (.vbusLaneRepair lane) s = .next t ∧
    (dieOf t (dieOfCore (Config.laneCore lane % Config.cores))).vbusOut.contains lane = true) ∧
  (∀ (s : State) (die : Nat), die < 2 → busAwaited s die = false →
    (∃ t, exec (.vbusRetrain die) s = .next t ∧ (dieOf t die).vbusFrozen = true) ∧
    ∃ t, exec (.verticalBusUnfreeze die) s = .next t ∧ (dieOf t die).vbusFrozen = false)

/-- A line is marked; an image that passes its checks runs; and a word that cannot be decoded or fetched takes its fault. -/
def errorsComplete : Prop :=
  (∀ (s : State) (line : Nat), inHbm (128 * line) = true →
    (s.l1.filter fun e => e.2.dirty && e.1 % 2 ^ 52 / 128 == line) = [] →
    ∃ t, exec (.hbmUncorrectable line) s = .next t ∧ isMarked t (128 * line) = true) ∧
  (∀ (s : State) (f : Firmware), mfind 0 s.flash = some f → failStep (some f) = 0 → s.ctl.bootstat = 0 →
    ∃ t, exec .boot s = .next t ∧ t.ctl.bootstat = 1) ∧
  (∀ (s : State) (image : Nat) (f : Firmware), mfind image s.flash = some f → failStep (some f) = 0 → s.ctl.bootstat = 1 →
    ∃ t, exec (.firmwareUpdate image) s = .next t ∧ t.ctl.fwDigest = Config.sha256 f.body ∧ t.ctl.svn = f.svn) ∧
  decodingFaults

end Sys2Proof.Claims

namespace Sys2Proof.Claims

open Sys2Proof Sys2Proof.Machine Sys2Proof.Safety

/-! ## From a word to its operation (01_encoding.md) -/

/-- R19, R22, R24, R25, R64, R125, R161: an instruction that is not well formed takes Fault(0x06); a privileged one outside
CID 0 Fault(0x09); one that its role may not issue Fault(0x07); one that names a register beyond the budget Fault(0x08);
a guard with poison raises its token; a guard that fails in a U-word passes; and a pending register that is not ready is
waited for. The checks come in this order. -/
def checked (i : Instr) (s : State) (r : Run) (f : Fields) (row : Row) : Prop :=
  (i.wf = false → exec i s = .next (r.fault 6)) ∧
  (i.wf = true →
    ((privileged f.dom f.op.toNat && r.t.bind.cid != 0) = true → exec i s = .next (r.fault 9)) ∧
    ((privileged f.dom f.op.toNat && r.t.bind.cid != 0) = false →
      (roleMay r.g.role f.dom f.op.toNat = false → exec i s = .next (r.fault 7)) ∧
      (roleMay r.g.role f.dom f.op.toNat = true →
        (r.t.beyond r.g.role ((row.shape f).named f) = true → exec i s = .next (r.fault 8)) ∧
        (r.t.beyond r.g.role ((row.shape f).named f) = false →
          (∀ tok, r.guarded f.dom f.guard = .poison tok → exec i s = .next (r.raise tok)) ∧
          (r.guarded f.dom f.guard = .fails → exec i s = .next (r.done r.g)) ∧
          ∀ act e, r.guarded f.dom f.guard = .active act → r.pendingAny (waitsFor s i (row.shape f) f) = some e →
            exec i s = .next (r.waitIn r.s (.handle e.1 e.2))))))

/-! ## Encoding (01_encoding.md) -/

/-- The bytes of an instruction's words, lowest address first (R6). -/
def bytesOfInstr (i : Instr) : List Byte := (encode i).flatMap fun w => toBytes 4 w.toNat

/-! ## Reset -/

/-- What the spec gives at reset (R42, R66, R279, R365 to R367, R377): context 0 LIVE with ICN 0 and every other CLOSED with
ICN 0, %clock of every core 0, the remap generations 0, DEVNO 0, no route, no valid import, and a power limit of 2200. -/
def asReset (s : State) : Prop :=
  (ctxOf s 0).state = 1 ∧ (ctxOf s 0).icn = 0 ∧ (∀ cid, cid ≠ 0 → (ctxOf s cid).state = 0 ∧ (ctxOf s cid).icn = 0) ∧
  (∀ core, (coreOf s core).clock = 0) ∧ (∀ die, (dieOf s die).remapGen = 0) ∧
  s.ctl.devno = 0 ∧ (∀ d, mget 0 d s.ctl.route = 0) ∧ (∀ k, bitB (mget 0 k s.ctl.imports) 63 = false) ∧ s.ctl.power = 2200

/-! ## Steps -/

/-- The words at an address are those of an instruction: what the fetch of a team leaves, and the instruction. -/
def fetches (s : State) (tid pc : Nat) (i : Instr) (u : State) : Prop :=
  (∃ w, fetchWord s tid pc = (u, .ok w) ∧ wantsTail w = false ∧ decodeWords w 0 = .instr i) ∨
  (∃ w t v, fetchWord s tid pc = (v, .ok w) ∧ wantsTail w = true ∧ fetchWord v tid ((pc + 4) % 2 ^ 56) = (u, .ok t) ∧
    decodeWords w t = .instr i)

/-- The state in which a path of a ready group attempts to issue: it is the group's current path (R144), and the group's other
ready paths are noted (R145). -/
def chosen (s : State) (r : Ready) (path : Nat) : State := modGroup s r.tid r.g.num fun g => g.choose path r.paths

/-- After the attempt: one that stalls leaves the slot's choice as it was; an issue makes the group the slot's last, and it no
longer starves (R141, R143). -/
def issued (r : Ready) (path : Nat) : Out → Out
  | .next t => if (((teamOf t r.tid).group r.g.num).waitOf path).stalls then .next t else .next (slotDone r.slot r [] t)
  | o => o

/-- The fetch of a word of a team meets no error, and no older word may be seen at its address: memory, the core's view and
every value since the team's launch or restore agree (R29). -/
def settled (s : State) (t : Team) (pa : Nat) : Prop :=
  isMarked s pa = false ∧ s.flaws.contains (cacheLine t.core pa) = false ∧
  (∀ i, i < 4 → coreByte s t.core (pa + i) = physByte s (pa + i)) ∧
  ∀ e ∈ mget [] (pa / 4) s.olds, t.codeFrom ≤ e.1 → e.2 = BitVec.ofNat 32 (physNat s pa 4)

end Sys2Proof.Claims

open Sys2Proof Sys2Proof.Machine Sys2Proof.Safety Sys2Proof.Claims

/-- R24, R25: every instruction passes the checks before its operation in their order.
The order of two faults of one word is the model's reading of R24 (log 71). -/
def Obligations.IssueChecks : Prop :=
  ∀ (i : Instr) (s : State) (r : Run) (f : Fields) (row : Row), runOf s = some r → i.fields = some f → rowOf f = some row →
    checked i s r f row

/-- R35: decoding the bytes of a well-formed instruction gives it back, with what follows them. -/
def Obligations.EncodingReadsBack : Prop :=
  ∀ (i : Instr), i.wf = true → encode i ≠ [] → ∀ rest : List Byte,
    decodeBytes (bytesOfInstr i ++ rest) = some (.instr i, rest)

/-- R24: every pattern that is no illegal encoding stands for a well-formed instruction, whose words are that pattern: no bit
of a word is ignored, and no two patterns mean the same. -/
def Obligations.WordsHaveOneMeaning : Prop :=
  ∀ (w t : Word) (i : Instr), decodeWords w t = .instr i →
    i.wf = true ∧ encode i = if wantsTail w then [w, t] else [w]

/-- R6, R8 to R15, R20, R21: bytes written out from the spec's worked encodings decode to the instruction they stand for, the
lowest byte first: `@!p3 iadd.i32 v4, v5, -3`; an acquiring s-load of 8 bytes at pkg scope; `@q1 ubra` by -24; `movi v0, 7`;
`exit`; `crcl s0, s3`; `iaddc.n32 v8, v0, v4, p1`; `lea.n32 s6, s8, s9, 3`. And patterns that the spec calls illegal decode to
none. -/
def Obligations.DecodedWords : Prop :=
  decodeBytes [0x05, 0x04, 0x10, 0x73, 0x00, 0x80, 0x00, 0xFD] = some (.instr (.iadd
    { g := some { neg := true, idx := 3 }, a := 4, b := 5, c := .imm 0xFD, e := .v 0, ty := .i32, rnd := .rne, sat := false
      spec := false, f := 0 }), []) ∧
  decodeBytes [0x08, 0x06, 0x50, 0xC0, 0x53, 0x81, 0x00, 0x02] = some (.instr (.sld
    { g := none, a := 6, b := 8, c := .imm 2, e := .v 0, hint := .normal, spec := false, scope := .pkg, ord := .acq
      wid := .b64 }), []) ∧
  decodeBytes [0x00, 0x00, 0x70, 0xE1, 0xE8, 0xFF, 0xFF, 0xFF] = some (.instr (.ubra
    { g := some { neg := false, idx := 1 }, a := 0, b := 0, imm := 0xFFFFFFE8 }), []) ∧
  decodeBytes [0x00, 0x00, 0x02, 0x40, 0x07, 0x00, 0x00, 0x00] = some (.instr (.movi
    { g := none, a := 0, b := 0, imm := 7 }), []) ∧
  decodeBytes [0x00, 0x00, 0x76, 0x00] = some (.instr (.exit { g := none, a := 0, b := 0 }), []) ∧
  decodeBytes [0x03, 0x00, 0xB2, 0x80] = some (.instr (.crcl { g := none, a := 0, b := 3 }), []) ∧
  decodeBytes [0x00, 0x08, 0x12, 0x40, 0x01, 0x20, 0x01, 0x04] = some (.instr (.iaddc
    { g := none, a := 8, b := 0, c := .v 4, e := .imm 1, ty := .n32, rnd := .rne, sat := false, spec := false, f := 0 }), []) ∧
  decodeBytes [0x08, 0x06, 0x2E, 0xC0, 0x01, 0x60, 0x03, 0x09] = some (.instr (.leaU
    { g := none, a := 6, b := 8, c := .s 9, e := .imm 3, ty := .n32, rnd := .rne, sat := false, spec := false, f := 0 }), []) ∧
  decodeWords 0x00100405 0 = .illegal .length ∧ decodeWords 0x05770000 0 = .illegal .guardBits ∧
  decodeWords 0x73100405 0xFD00C000 = .illegal .fields ∧ decodeWords 0xC0500608 0x020081D3 = .illegal .fields ∧
  decodeWords 0xA07D0000 0 = .illegal .guardForbidden ∧ decodeWords 0xE07D0000 0 = .illegal .length

/-- The machine right after reset holds what the spec gives at reset, and its memory is in canonical form.
That a byte which nothing has written reads 0 is the model's choice (log 1). -/
def Obligations.ResetState : Prop := asReset State.reset ∧ Memory.wf State.reset.mem

/-- R24, R29, R140, R316: a step is one move of the package, or the first input that need not wait at the bridge. Where one group is ready, with one path, and
nothing else may happen, the step is that path's instruction: it runs as exec has it, its slot notes the issue, and the tick
passes. The word that is
fetched is the four bytes at its physical address, lowest first.
That a step is one whole move is the model's choice (log 4), and the fetch rests on log 14. -/
def Obligations.StepRunsTheInstruction : Prop :=
  (∀ (s : State), s.inbox = [] → moves s = [] → Machine.step s = .next { s with tick := s.tick + 1 }) ∧
  (∀ (s : State), s.inbox = [] → moves s ≠ [] → ∃ m ∈ moves s, Machine.step s = ticked (m s)) ∧
  (∀ (s : State) (i : Instr) (rest : List Instr), s.inbox = i :: rest → moves s = [] → inputWaits s i = false →
    Machine.step s = ticked (exec i { s with inbox := rest })) ∧
  (∀ (s : State) (r : Ready) (path : Nat) (i : Instr) (u : State), s.inbox = [] → s.ctl.fatal = false → events s = [] →
    readyGroups s = [r] → r.paths = [path] →
    fetches (fetchAhead (chosen s r path) r.tid (pathPc (chosen s r path) r.tid r.g.num path)) r.tid
      (pathPc (chosen s r path) r.tid r.g.num path) i u →
    Machine.step s = ticked (issued r path (endIssue (exec i (issueAt u r.tid r.g.num path i.length))))) ∧
  (∀ (s : State) (tid pc pa : Nat), isLocal pc = false →
    checkGlobal s (fetcher s tid) pc 4 .fetch = .ok (.normal pa) → inHbm pa = true →
    lineAllows s (fetcher s tid).master (fetcher s tid).cid pa .read = true →
    settled s (teamOf s tid) pa → (fetchWord s tid pc).2 = .ok (BitVec.ofNat 32 (physNat s pa 4)))

/-- Every step keeps memory in its canonical form: addresses strictly rising, and no entry that an unlisted address reads.
That an unlisted byte reads 0 is the model's choice (log 1). -/
def Obligations.StepKeepsMemoryForm : Prop :=
  ∀ (s t : State), Memory.wf s.mem → Machine.step s = .next t → Memory.wf t.mem

/-- R82, R83: iadd, isub, imul, imulhi, imad, imadw, iabs, ineg, imin and imax, per lane and once in a U-word: the result
of the exact operation, clamped with .sat and wrapped; nothing else changes. R82, R88: iaddc and isubb write the
wrapped sum or difference with the carry in, and the carry out in its place. -/
def Obligations.IntegerArithmeticAndCarries : Prop :=
  integerArithmetic ∧ carryChains

/-- R85: shl, shr, sra and rot, by the count modulo the width or, with .clamp, by the whole count. R84: and, or, xor, not
and blogic act on each bit. R86, R87: popc, clz, ctz, brev, bfe, bfi, bpick, and the address operation lea. -/
def Obligations.IntegerShiftsAndBits : Prop :=
  integerShifts ∧ integerLogic ∧ integerBitFields

/-- R87, R88: icmp writes the truth of the comparison of the values by the type; isel writes the operand its predicate
selects as it stands, and never reads the other. -/
def Obligations.CompareAndSelect : Prop :=
  (∀ x, writesRegs (.icmp x) fun r => (old r).putP r.act x.a.toNat fun l =>
    combineB [r.g.readV x.b.toNat l x.ty.regs, r.g.operand x.c (w x) l] fun
      | [b, c] => compares x (val x b) (val x c)
      | _ => false) ∧
  (∀ x, writesRegs (.icmpU x) fun r => (old r).putQ x.a.toNat
    (combineB [r.g.readS x.b.toNat (w x), r.g.operand x.c (w x) 0] fun
      | [b, c] => compares x (val x b) (val x c)
      | _ => false)) ∧
  (∀ x, writesRegs (.isel x) fun r => (old r).putV r.act x.a.toNat x.ty.regs fun l =>
    match r.g.getP (srcNum x.e) l with
    | .bad t => .bad t
    | .ok true => r.g.readV x.b.toNat l x.ty.regs
    | .ok false => r.g.operand x.c (w x) l) ∧
  (∀ x, writesRegs (.iselU x) fun r => (old r).putS x.a.toNat
    (match r.g.getQ (srcNum x.e) with
    | .bad t => .bad t
    | .ok true => (r.g.readS x.b.toNat (w x)).map (ext64 x)
    | .ok false => (r.g.operand x.c (w x) 0).map (ext64 x)))

/-- R74: the moves: mov, movi and movs into each active lane; mov, movi and movih into an s-register, movU with the
pending mark of its source (R161). R65 to R67: srd and ssr read a special register, %clock with a value that a read
has let run on; swr writes the writable fields of %fflags and %gstat alone, and raises a poisoned source. -/
def Obligations.MovesAndSpecialRegisters : Prop :=
  moveInstructions ∧ specialRegisters

/-- R77: plop, pmask and pset: each place takes the truth-table bit of its two predicates, the bit of the operand that
its lane names, or the truth of a q-register or of a v-register's being nonzero. R75, R76: rdlane, wrlane and lxch
move values between lanes; match and pfold compare and fold over all 32. R75, R120: redux writes the sum, minimum,
maximum, and, or, or exclusive-or of the 32 lanes once; fredux writes the sum, minimum or maximum along the pairwise
tree of R105, with the flags of the nodes above an active lane. -/
def Obligations.PredicatesAndLanes : Prop :=
  predicateLogic ∧ laneCrossing ∧ reductions

/-- R78: chk raises the token of the lowest active lane whose register is poisoned, and else changes nothing; ptest writes
whether it is poisoned; pscrub clears the poison.
That pscrub leaves an unpoisoned register as it is, is the model's reading (log 22). -/
def Obligations.PoisonInstructions : Prop :=
  (∀ (x : Std) (s : State) (r : Run), issueOf (.chk x) s = some r → r.act.findSome? (tokenIn r x) = none →
    ∃ t, exec (.chk x) s = .next t ∧ wrote r s t (old r)) ∧
  (∀ (x : Std) (s : State) (r : Run) (tok : Word), issueOf (.chk x) s = some r →
    r.act.findSome? (tokenIn r x) = some tok → exec (.chk x) s = .next (r.raise tok)) ∧
  (∀ x, writesRegs (.ptest x) fun r => (old r).putP r.act x.a.toNat fun l => .ok (tokenIn r x l).isSome) ∧
  (∀ x, writesRegs (.pscrub x) fun r =>
    match x.f.toNat with
    | 0 => scrubV (old r) x.a.toNat r.act
    | 1 => scrubV (scrubV (old r) x.a.toNat r.act) (x.a.toNat + 1) r.act
    | 2 => scrubP (old r) x.a.toNat r.act
    | _ =>
      match r.act.isEmpty, r.g.getS x.a.toNat with
      | false, .bad t => (old r).putS x.a.toNat (.ok t.toNat)
      | _, _ => old r)

/-- R113, R114, R117: fadd, fsub, fmul and ffma round the exact sum, difference, product or fused result once; fmin,
fmax, fround, fldexp and fdivfix give theirs; each active lane takes its result and the flags of unpoisoned lanes
accumulate. R113, R114: fcmp writes the truth of its comparison, unordered operands counting as unequal, and
accumulates flags; fclass writes the one class bit of the operand's bits and sets no flag. -/
def Obligations.FloatArithmeticAndCompares : Prop :=
  floatArithmetic ∧ floatCompareAndClass

/-- R115, R116: each special function completes: every active lane takes the function's result on the operand's bits and
FTZ, and its flags accumulate; the inputs of Table 6.3 give the results and flags shown there. Which value within the
bound of Table 6.2 is returned is free (log 10), so elsewhere the result is named, not computed. R102, R118, R119:
each of these completes: the packed instructions form two elements each, fdp2 and idp4 their dot products, lmul the
products of L6 codes, and cvt converts one element and keeps the rest of an element destination.
Which value within a bound of Table 6.2 is returned is free (log 10). -/
def Obligations.SpecialFunctionsAndConversions : Prop :=
  specialFunctions ∧ packedAndConversions

/-- R93: every floating-point result that is a NaN is the default NaN of its type: of a sum, a difference, a product, a
fused multiply-add, a minimum or maximum, a square root, a rounding to an integral value, a scaling and a division
fix-up, in f32 and f64, for every rounding mode, with and without .sat and FTZ. -/
def Obligations.DefaultNaN : Prop :=
  ∀ f : Fmt, f = fmt32 ∨ f = fmt64 → ∀ (rnd : Rnd) (sat z cond : Bool) (b c e : Nat) (v : Nat × Flags),
    (v = faddOf f rnd sat z b c ∨ v = fsubOf f rnd sat z b c ∨ v = fmulOf f rnd sat z b c ∨ v = ffmaOf f rnd sat z b c e ∨
      v = fpickOf f cond z b c ∨ v = fsqrtOf f rnd z b ∨ v = froundOf f rnd cond z b ∨ v = fldexpOf f rnd sat z b c ∨ v = fdivfixOf f rnd sat z b c e) →
    (f.decode v.1).isNaN = true → v.1 = f.nan

/-- R95, Table 5.2: the integer a positive fraction rounds to lies within one of it and on the side its mode says; RNE gives
a nearest one, and of two the even one. -/
def Obligations.RoundingOfFractions : Prop :=
  ∀ (neg : Bool) (a b : Nat), 0 < b →
    (roundFrac .rz neg a b * b ≤ a ∧ a < (roundFrac .rz neg a b + 1) * b) ∧
    (neg = true → a ≤ roundFrac .rm neg a b * b ∧ roundFrac .rp neg a b = roundFrac .rz neg a b) ∧
    (neg = false → a ≤ roundFrac .rp neg a b * b ∧ roundFrac .rm neg a b = roundFrac .rz neg a b) ∧
    (2 * (roundFrac .rne neg a b * b) ≤ 2 * a + b ∧ 2 * a ≤ 2 * (roundFrac .rne neg a b * b) + b) ∧
    (2 * (a % b) = b → roundFrac .rne neg a b % 2 = 0)

/-- R148, R150: bra sends the active lanes to PC + offset and the others past it, and with .uni records a divergence in
%gstat.UNIF, or raises 0x0F where UNIFEN asks for it. R27, R151, R152: bri, ret, ujmp and uret send the threads to
the addresses their registers hold; a poisoned register is raised and a target with bits 1:0 not zero is Fault(0x04)
at the transferring instruction. R151, R152: ubra, call and ucall: the path goes to PC + offset, a call having
written PC + 8 to each active lane's pair or to S[A]. -/
def Obligations.BranchesAndTransfers : Prop :=
  branches ∧ registerTransfers ∧ callsAndUniformBranches

/-- R153: setmt gives each active lane its old meeting address and sets the new one, which is an instruction address or
none. R154, R255: exit ends the threads of Active(), and exit.u those of the path, the others passing it; where the
matrix thread has ended that way, its lease ends too; in a team that buffers its effects the path first commits.
R154: nop, nop.u and yld change nothing but that their path passes them. -/
def Obligations.MeetingPointsAndExits : Prop :=
  meetingPoints ∧ exits ∧ noOperations

/-- R154, R341: brk with an active lane, brk.u and trap take their faults: 0x11, and 0x10 with the trap number and S[A];
brk without an active lane changes nothing. -/
def Obligations.SoftwareTraps : Prop :=
  (∀ (x : One) (s : State) (r : Run), issueOf (.brk x) s = some r → r.act.isEmpty = false →
    exec (.brk x) s = .next (r.fault 0x11)) ∧
  (∀ (x : One) (s : State) (r : Run), issueOf (.brk x) s = some r → r.act.isEmpty = true →
    ∃ t, exec (.brk x) s = .next t ∧ wrote r s t (old r)) ∧
  (∀ (x : One) (s : State) (r : Run), issueOf (.brkU x) s = some r → exec (.brkU x) s = .next (r.fault 0x11)) ∧
  (∀ (x : One) (s : State) (r : Run) (v : DWord), issueOf (.trap x) s = some r → r.g.getS x.a.toNat = .ok v →
    exec (.trap x) s = .next (r.faultIn s { code := 0x10, trapno := x.b.toNat, arg := v })) ∧
  (∀ (x : One) (s : State) (r : Run) (tok : Word), issueOf (.trap x) s = some r → r.g.getS x.a.toNat = .bad tok →
    exec (.trap x) s = .next (r.raise tok))

/-- R155: loop with a count of 0 goes behind the body; otherwise every thread of the path gets an entry with the start,
the last word and the count, and goes to the start; a fifth entry is Fault(0x08). R157: brx with room for its lanes
puts a record per active lane, in lane order, with the values of the first `live` registers, into spawn memory, also
where it stands in the save area (Table 19.6), and ends those threads; without room it sets %gstat.FALL and branches.
That each takes the lowest free place is the model's choice (log 18). -/
def Obligations.LoopsAndExile : Prop :=
  hardwareLoops ∧ exileBranches

/-- R160 to R163: hwait waits until the operation completes and then takes its status; htest takes the status as it
stands; hcancel asks the operation to stop, ends a FAULTED one as CANCELLED, and takes the status. -/
def Obligations.HandleInstructions : Prop :=
  handleFront .hwait ∧ handleFront .htest ∧ handleFront .hcancel ∧
  (∀ (x : One) (s : State) (r : Run) (v : DWord) (e : HandleEnt), issueOf (.hwait x) s = some r →
    r.g.getS x.b.toNat = .ok v → noHandle v.toNat = false → entryOf r v.toNat = some e → e.raise = none →
    (e.status ≠ 0x80 → ∃ t, exec (.hwait x) s = .next t ∧ wrote r s t ((old r).putS x.a.toNat (.ok (e.status + e.code * 0x100)))) ∧
    (e.status = 0x80 → ∃ t, exec (.hwait x) s = .next t ∧ waits r s t (.handle (bits v.toNat 37 32) e.seq))) ∧
  (∀ (x : One) (s : State) (r : Run) (v : DWord) (e : HandleEnt), issueOf (.htest x) s = some r →
    r.g.getS x.b.toNat = .ok v → noHandle v.toNat = false → entryOf r v.toNat = some e → e.raise = none →
    ∃ t, exec (.htest x) s = .next t ∧ wrote r s t ((old r).putS x.a.toNat (.ok (e.status + e.code * 0x100)))) ∧
  (∀ (x : One) (s : State) (r : Run) (v : DWord) (e : HandleEnt), issueOf (.hcancel x) s = some r →
    r.g.getS x.b.toNat = .ok v → noHandle v.toNat = false → entryOf r v.toNat = some e →
    ∃ t g, exec (.hcancel x) s = .next t ∧ groupAt t r.tid r.gnum = g ∧
      (regsOf g).s x.a.toNat = .ok (BitVec.ofNat 64 (if e.status = 1 then 2 else e.status + e.code * 0x100)) ∧
      t = { s with teams := t.teams, mxops := t.mxops } ∧
      ∃ e', mfind (bits v.toNat 37 32) (teamOf t r.tid).handles = some e' ∧
        (e.status = 1 → e'.status = 2) ∧ (e.status = 0x80 → e'.cancel = true ∧ e'.status = 0x80))

/-- R207, R208: ld and sld whose lanes pass their checks load every lane in order and extend by the width; no other
register and no flag changes. R192, R194, R208: a plain ld of one lane from normal memory takes the bytes that its
core sees there once it has passed, lowest address lowest; and where no snoop and no write-back of the line is on its
way, the bytes that every core sees are as before, and no byte of memory, of scratch or of a surface changes.
When a core's bytes leave it and that a load is whole at its issue are the model's readings (log 5, log 6). -/
def Obligations.Loads : Prop :=
  loadsComplete ∧ loadFromNormalMemory

/-- R207, R209: st and sst whose lanes pass their checks perform the release of their order and then store every lane in
order, and write no register; a team that buffers its effects is not meant here. R192, R209: after a plain st of one
lane to normal memory the core it stands on reads the stored bytes, and every other byte as before; no other core
sees a change yet, and no register, no byte of scratch and no surface changes. R354, R356: a plain st of one lane to
normal memory in a team that buffers its effects changes no byte of memory or of a first-level cache: its bytes
become an item behind those that the team holds; an item that does not fit waits for a commit, and is not there.
When a core's bytes leave it is the model's reading (log 5). -/
def Obligations.Stores : Prop :=
  storesComplete ∧ storeToNormalMemory ∧ bufferedStores

/-- R179, R207: an access whose first failing lane fails with a code takes that fault, and one that must wait waits; no
lane is performed. -/
def Obligations.AccessChecks : Prop :=
  (∀ (x : Mem) (s : State) (r : Run) (va : Nat) (c : Check), issueOf (.ld x) s = some r → x.spec = false →
    firstBad s r.who (goodLanes (r.act.map fun l => (l, laneEa r x l))) (bytesOf x) .read = some (va, c) →
    exec (.ld x) s = .next (r.failAt s va c .read)) ∧
  (∀ (x : Mem) (s : State) (r : Run) (va : Nat) (c : Check), issueOf (.st x) s = some r → r.act.isEmpty = false →
    (∀ l ∈ r.act, firstTok [laneEa r x l, r.g.readV x.a.toNat l (regsOfBytes (bytesOf x))] = none) →
    firstBad s r.who (r.act.map fun l => (l, (laneEa r x l).val)) (bytesOf x) .write = some (va, c) →
    exec (.st x) s = .next (r.failAt s va c .write)) ∧
  (∀ (s : State) (who : Who) (va n : Nat) (k : Kind), isLocal va = false → va % n ≠ 0 →
    checkAccess s who va n k = .bad 4 none) ∧
  (∀ (s : State) (who : Who) (va n : Nat) (k : Kind), isLocal va = true → bits va 51 50 ≠ 0 →
    checkAccess s who va n k = .bad 0xA none)

/-- R210: atom, satom and red whose lanes pass their checks write back the stash lines they touch, then perform one read-
modify-write per lane in lane order; atom and satom write the old values and their flags, red writes no register and
no flag. R210, Table 11.12: the new value of each atomic operation, in bytes of its width; a compare-and-swap that
fails writes nothing, and fadd sets its flags. -/
def Obligations.Atomics : Prop :=
  atomicsComplete ∧ atomicOperations

/-- R181, R182: ldl and ldl.x4 take the scratch bytes at each lane's address, extended by the type; ldl.addr the address
with the team made explicit; stl stores every lane in order, and atml performs every lane; no other register changes,
and no byte of memory, except in the save area of a saved team. R178, R181, R182: scratch of a team reads as its
bytes where no error stands there, and of a saved team as its save area holds them; an stl of one lane leaves in
scratch the stored bytes at its address and every other byte of every team as it was; and an atml of one lane gives
the lane the old value and leaves the new one. -/
def Obligations.Scratch : Prop :=
  scratchInstructions ∧ scratchStores

/-- R199, R211, R212, R213: a fence without a deferred code performs its release and its acquire; pf writes no register,
never faults and, with no stash window and no write-back on its way, changes no byte of memory, of a surface or of a peer; mon arms the monitor with the value it reads, and monw takes the value once it satisfies the comparison
and waits until then. -/
def Obligations.FencesAndMonitors : Prop :=
  (∀ (x : Mem) (s : State) (r : Run), issueOf (.fence x) s = some r → r.act.isEmpty = true →
    ∃ t, exec (.fence x) s = .next t ∧ wrote r s t (old r)) ∧
  (∀ (x : Mem) (s : State) (r q : Run), issueOf (.fence x) s = some r → r.act.isEmpty = false → noDeferred r →
    (if (fenceOrds x.ord).1 then released { r with s := collectReports s r.tid r.gnum } q .rel x.scope
      else q = { r with s := collectReports s r.tid r.gnum }) → r.t.paired = false → r.t.contained = false →
    ∃ t, exec (.fence x) s = .next t ∧ wrote r (if (fenceOrds x.ord).2 then acquire q.s r.who x.scope else q.s) t (old r)) ∧
  (∀ (x : Mem) (s : State) (r q : Run), issueOf (.fenceU x) s = some r → noDeferred r →
    (if (fenceOrds x.ord).1 then released { r with s := collectReports s r.tid r.gnum } q .rel x.scope
      else q = { r with s := collectReports s r.tid r.gnum }) → r.t.paired = false → r.t.contained = false →
    ∃ t, exec (.fenceU x) s = .next t ∧ wrote r (if (fenceOrds x.ord).2 then acquire q.s r.who x.scope else q.s) t (old r)) ∧
  (∀ (x : Mem) (s : State) (r : Run), issueOf (.pf x) s = some r →
    ∃ t u, exec (.pf x) s = .next t ∧ wrote r u t (old r) ∧ (r.t.windows = [] →
      (∀ q ∈ s.requests, q.2.isRead = true ∨ q.2.core ≠ r.t.core) →
      t.mem = s.mem ∧ t.surf = s.surf ∧ t.remote = s.remote)) ∧
  (∀ (x : Std) (s t : State) (r : Run) (va : Nat) (bs : List Byte) (c : Scope), issueOf (.mon x) s = some r →
    Scope.ofCode x.f.toNat = some c → r.uea x.b x.c 8 = .ok va → (∃ p, checkAccess s r.who va 8 .read = .ok p) →
    readVa (acquire s r.who c) r.who va 8 .read = (t, .bytes bs) →
    ∃ u g, exec (.mon x) s = .next u ∧ passed r t u g ∧ sameRest { r.g with mon := some (va, c) } g ∧
      Regs.same (regsOf g) ((old r).putS x.a.toNat (.ok (ofBytes (r.overlay r.lanes va bs))))) ∧
  (∀ (x : Std) (s t : State) (r : Run) (va k : Nat) (bs : List Byte) (c : Scope), issueOf (.monw x) s = some r →
    r.g.mon = some (va, c) → r.g.operand x.c 64 0 = .ok k → (∃ p, checkAccess s r.who va 8 .read = .ok p) →
    readVa (acquire s r.who c) r.who va 8 .read = (t, .bytes bs) →
    let v := ofBytes (r.overlay r.lanes va bs)
    let holds := if x.f = 0 then k ≤ v else v ≠ k
    (holds → ∃ u, exec (.monw x) s = .next u ∧ wrote r t u ((old r).putS x.a.toNat (.ok v))) ∧
    (¬holds → ∃ u, exec (.monw x) s = .next u ∧ waits r t u (.monitor v))) ∧
  (∀ (x : Std) (s : State) (r : Run), issueOf (.monw x) s = some r → r.g.mon = none →
    exec (.monw x) s = .next (r.fault 0x0D))

/-- R166 to R170, R172: binit, barr, bwait, barw, binv and btest on the barrier they name: what the barrier becomes, what
the destination takes, who is released, and when the path waits; an arrival releases at team scope. R164, R166, R170:
the barrier faults: a number at or beyond the declared count, a count of 0 or of 4096 and more, an arrival of a
satellite or pixel group, at an invalid barrier, or where no arrival is due, are Fault(0x0C). R167: a path that is
released from a barrier takes the status in its q-register and passes its instruction of two words, and no other
register of its group changes. -/
def Obligations.Barriers : Prop :=
  barrierInstructions ∧ barrierFaults ∧ barrierRelease

/-- R171, R172: rgwait passes a stage that is as it wants it and waits at one that is not; rgwait.test takes whether it
is; rgadv turns a stage that is not, releases at team scope, and lets the paths that wait for the stage pass; it is
Fault(0x0C) at one that is. R186, R187, R191: kmap gives the status of Table 10.6 and, with 0, makes the window live
with none of its words valid; kunmap writes its window back and empties it, kinv empties it, kwb and kwb.all write
back; each gives 0 when it is done.
Reserved bits of a window descriptor are ignored, and the waits of kunmap and kinv are the model's reading (log 39, log 40). -/
def Obligations.RingsAndStash : Prop :=
  ringInstructions ∧ stashWindows

/-- R226, R227, R231, R232: cpl, cpz, cpx.expand and cpx.compact with room, unpoisoned addresses and passed checks queue
one entry with the addresses of every active lane, and the path goes on; no register changes and no byte moves yet.
R160, R229, R234, R235: cpst with room, without a recorded copy code, performs its release and queues a stamp of S[A]
at its address; cpw with its operands aligned takes a handle, which S[A] holds pending, and queues the bulk copy, or
ends it at once with a length of 0. -/
def Obligations.Copies : Prop :=
  copiesQueued ∧ stampsAndBulkCopies

/-- R139: gdec, gadd and gsig perform their atomic on the node that S[B] names, and give the old count with the status.
R128, Table 7.9: what a graph-count atomic leaves: a decrement counts down, fires at 1 (with REARM the count starts
again at INIT) and underflows at 0; an addition adds and overflows past 2^32 - 1; a reserved KIND is left alone.
The walker's moments are the model's readings (log 33, log 35). -/
def Obligations.Graph : Prop :=
  graphInstructions ∧ graphCounts

/-- R341 to R343: region marks the entry of its path's threads; fcont registers and fcont.clr drops the continuation of the
role; fret resolves the redirected fault and sends the path back to it, or past it with .skip, and gives a status
otherwise.
When a released redirected fault goes on is the model's reading (log 19). -/
def Obligations.FaultInstructions : Prop :=
  (∀ (x : One) (s : State) (r : Run), issueOf (.region x) s = some r → commitsFirst r = false →
    ∃ t, exec (.region x) s = .next t ∧
      passedAs r s t { r.g with recN := r.g.recN + 1, partly := false } (fun l =>
        let k := r.g.thread l
        if l ∈ r.lanes then { k with repc := some ((r.pc + 4) % 2 ^ 56), remeet := k.meet, rdepth := k.loops.length, trec := (k.trec + 1) % 2 ^ 32 }
        else k) (old r)) ∧
  (∀ (x : One) (s : State) (r : Run), issueOf (.region x) s = some r → commitsFirst r = true →
    ∃ t, exec (.region x) s = .next t ∧ waits r s t (.twin 1)) ∧
  (∀ (x : Imm) (s : State) (r : Run), issueOf (.fcont x) s = some r →
    ∃ t, exec (.fcont x) s = .next t ∧
      wrote r (modTeam s r.tid fun k =>
        { k with conts := mput r.g.role.num { pc := tailTarget r x.imm, base := x.a.toNat } k.conts }) t (old r)) ∧
  (∀ (x : Imm) (s : State) (r : Run), issueOf (.fcontClr x) s = some r →
    ∃ t, exec (.fcontClr x) s = .next t ∧
      wrote r (modTeam s r.tid fun k => { k with conts := merase r.g.role.num k.conts }) t (old r)) ∧
  (∀ (x : One) (s : State) (r : Run) (f : FaultRec), issueOf (.fret x) s = some r → r.g.redirected = some f →
    f.cont = true → maskOf r.lanes = f.mask → f.unrec = false → (bitB x.b.toNat 0 && f.firstFetch) = false →
    (f.queued && !f.released) = false →
    ∃ t g, exec (.fret x) s = .next t ∧ sameRest { r.g with redirected := none } g ∧ (∀ l, g.thread l = r.g.thread l) ∧
      Regs.same (regsOf g) ((old r).putS x.a.toNat (.ok 0)) ∧
      sent r s t g (r.lanes.map fun l => (l, if bitB x.b.toNat 0 then (f.pc + f.len) % 2 ^ 56 else f.pc))) ∧
  (∀ (x : One) (s : State) (r : Run) (st : Nat), issueOf (.fret x) s = some r →
    ((r.g.redirected = none ∧ st = 1) ∨
      ∃ f, r.g.redirected = some f ∧
        ((f.cont = false ∧ st = 1) ∨ (f.cont = true ∧ maskOf r.lanes ≠ f.mask ∧ st = 2) ∨
          (f.cont = true ∧ maskOf r.lanes = f.mask ∧ f.unrec = true ∧ st = 3) ∨
          (f.cont = true ∧ maskOf r.lanes = f.mask ∧ f.unrec = false ∧ bitB x.b.toNat 0 = true ∧ f.firstFetch = true ∧ st = 4) ∨
          (f.cont = true ∧ maskOf r.lanes = f.mask ∧ f.unrec = false ∧ (bitB x.b.toNat 0 && f.firstFetch) = false ∧
            f.queued = true ∧ f.released = false ∧ st = 0x80))) →
    ∃ t, exec (.fret x) s = .next t ∧ wrote r s t ((old r).putS x.a.toNat (.ok st)))

/-- R344: rfe, as a release before itself, applies its word and S[A] takes the status: 3 for reserved bits or a group number
above 32, 2 for a team that is not there, 1 where the group holds no fault, 4 where the fault refuses the action.
When a released redirected fault goes on is the model's reading (log 19). -/
def Obligations.ReturnFromException : Prop :=
  (∀ (x : One) (s : State) (r q : Run) (v : DWord), issueOf (.rfe x) s = some r → r.g.getS x.b.toNat = .ok v →
    r.t.paired = false → r.t.contained = false → released r q .rel .sys →
    let o := rfeResult (q.put (acquire q.s q.who .sys) q.g) v.toNat
    ∃ t, exec (.rfe x) s = .next t ∧ passed r o.1 t ((groupAt o.1 r.tid r.gnum).putS x.a.toNat o.2)) ∧
  (∀ (s : State) (x : Nat), (bits x 31 30 ≠ 0 ∨ bits x 39 38 ≠ 0 ∨ bits x 43 42 ≠ 0 ∨ bits x 63 45 ≠ 0 ∨ 32 < bits x 37 32) →
    rfeResult s x = (s, 3)) ∧
  (∀ (s : State) (tid g a : Nat), tid < 2 ^ 30 → g ≤ 32 → a < 4 →
    let x := tid + g * 2 ^ 32 + a * 2 ^ 40
    (kept s tid = [] → rfeResult s x = (s, 2)) ∧
    (∀ t, kept s tid = [(tid, t)] → (t.loc = .resident ∨ t.loc = .saving ∨ t.loc = .saved) →
      (t.group g).swapped = none → (t.group g).redirected = none → rfeResult s x = (s, 1)) ∧
    (∀ t f, kept s tid = [(tid, t)] → (t.loc = .resident ∨ t.loc = .saving ∨ t.loc = .saved) →
      (t.group g).swapped = some f → f.action = none → f.cont = false →
      (a = 0 ∧ (f.unrec = true ∨ (f.queued = true ∧ f.released = false))) → rfeResult s x = (s, 4)) ∧
    (∀ t f, kept s tid = [(tid, t)] → t.loc = .saved → (mfind g t.groups).isSome → (t.group g).swapped = some f →
      f.action = none → f.cont = false → a = 3 →
      (rfeResult s x).2 = 0 ∧
      ((teamOf (rfeResult s x).1 tid).group g).swapped = some { f with action := some 3 }))

/-- R333, R335, R337: a fault that no continuation takes, in a group that holds none under swap-out, leaves its path
standing at its instruction with nothing written: the group holds the fault with its code, address, pc and mask, and
a resident team starts to be saved. A second one under swap-out is not held: its path waits, and its instruction is
not yet issued. R335, R336: a fault in a role with a continuation, in a group that holds no other fault, sends its
path to the continuation: S[base] takes the code and the token, the next two registers the address and the pc. R350,
R52: the consumption of an uncorrectable error by a team that is neither paired nor contained, of a live context that
may be killed, starts the kill of its context: the incarnation advances, the context is DEAD, and the path waits; and
the steps that follow the acknowledgements leave no team of the context. Its record is not meant to lie in the
context table.
That the held record's HELD is set and that a second fault under swap-out waits are the model's readings (log 21, log 88). -/
def Obligations.FaultsTaken : Prop :=
  faultsAreHeld ∧ faultsAreRedirected ∧ poisonConsumptionKills

/-- R255, R265: mlease of 1 to 64 by a thread without a lease on a free engine is granted at once, and asks and waits
otherwise; any other count, or a lease already held, is Fault(0x0E); mfree ends the lease, if there is one. R256,
R257, R266 to R269: mma, mmas, mmo, mld, mst and mzero, by a thread with a lease on an engine with room, with an
unpoisoned block, valid identifiers and passed checks, are accepted: S[A] holds their handle, pending, and the engine
the operation with its tile, columns, records and origins; no tile and no byte of memory changes yet. R255, R256: the
acceptance of an operation puts it into the engine's queue, makes it the thread's last one, and uses up one of the
lease; at the last one the lease ends. -/
def Obligations.MatrixLeasesAndAcceptance : Prop :=
  matrixLeases ∧ matrixOperationsAccepted ∧ acceptanceUsesTheLease

/-- R266: a matrix operation whose block has a reserved bit set is Fault(0x06); one whose identifier is not valid is
Fault(0x01), or with .spec is accepted with every element to be poisoned; a fill that fails is a fault with its code.
R258, R267, R270: mma.resume has a FAULTED operation accepted again under its handle; mrow takes an operation's
progress without waiting; mready takes memory as the core sees it now, with what its first-level cache holds and what
it has sent, as the team's operand-ready point. -/
def Obligations.MatrixFaultsAndProgress : Prop :=
  matrixOperationFaults ∧ matrixProgress

/-- R254, R271: tdrain gives every active lane its element of a row of a tile, and tfeed writes it, an f64 element in two
tiles, where every operation that writes the tile has been waited for; an unordered tdrain never gives poison; a row
above 127 is Fault(0x0A), and a team without a matrix role is Fault(0x0E). R249 to R252: tidset of a well-formed
record writes the identifier with VALID and the incarnation and gives 0; tidinv of a valid one clears VALID and gives
0; tidq gives a word of the record, or 0 for one that is not valid; tidq.state gives whether it is valid; numbers
past 1023 give their statuses, and a record that breaks R242 the offset of R388. R237 to R239, R250: a valid
identifier is one whose state has VALID and the context's incarnation; an identifier past 1023 is never valid; a core
holds a record once it has filled it, and a hit gives that record unless the entry has been replaced; a write of an
identifier drops it from every cache, and after tidinv's write in memory none is valid.
A denied table access is Fault(0x03), and when an identifier is cached is the model's reading (log 16, log 44). -/
def Obligations.TilesAndIdentifiers : Prop :=
  tilesAndRegisters ∧ tensorIdentifiers ∧ identifierValidity

/-- R324, R325: coldecl on an idle slot binds it where the declaration is well formed and its rank is free, unbinds it
for 0, and gives its status; a busy slot gives 1 and a malformed declaration 2, with nothing changed. R327, R329:
colag, colrs, colaa and colbar on a bound slot with room, aligned operands and passed checks release at pkg scope,
take a handle, which S[A] holds pending, and send the operation with the slot's next number to the collective unit;
an unbound slot is Fault(0x0C). R321: cprio sets the team's class where the context may use it, and gives the old
class with a status: 1 for a class the context may not use, 2 for one past 7. -/
def Obligations.Collectives : Prop :=
  collectiveDeclarations ∧ collectiveOperations ∧ classChanges

/-- R282, R286 to R289: sfblend, sfdepth, sfld and sfst send their operation to the bricks, sfblend and sfst passing at
once and sfld and sfdepth waiting for their results. R286: the checks of a lane's coordinate and selector in their
order: reserved bits, a live surface, the extents, the format, and the screen tile of a pixel group. -/
def Obligations.Surfaces : Prop :=
  surfaceOperations ∧ surfaceChecks

/-- R279, R291: sfalloc puts a well-formed descriptor into the first free entry and gives its number; sffree, sfpin,
sfpin.unpin and sfevict act on a live surface; sfmap gives a word of the bank map, the remap generation, or the number of
live banks; each with its statuses.
A denied table access is Fault(0x03), which is the model's reading (log 44). -/
def Obligations.SurfaceManagement : Prop :=
  surfaceFront .sffree ∧ surfaceFront .sfpin ∧ surfaceFront .sfpinUnpin ∧ surfaceFront .sfevict ∧
  (∀ (x : Std) (s t u : State) (r : Run) (b sid : Nat) (ws : List DWord), issueOf (.sfalloc x) s = some r →
    r.g.readS x.b.toNat 64 = .ok b → b % 64 = 0 → r.readOwn (acquire s r.who .pkg) (b % 2 ^ 56) 8 = (t, .ok ws) →
    let d := ofBytes (ws.flatMap fun w => toBytes 8 w.toNat)
    badFields d = [] → sid < 1024 → (∀ n, n ≤ sid → sfReadCode t (coreOfPath r) r.t.bind.cid n = 0) →
    (∀ n, n < sid → sfField t r.t.bind.cid n 0x28 1 ≠ 0) → sfField t r.t.bind.cid sid 0x28 1 = 0 → noSpace t d = false →
    tableWrite r t u sid 0 (toBytes 64 (d + descSize d * 2 ^ 256 + 2 ^ 320)) →
    ∃ v, exec (.sfalloc x) s = .next v ∧
      wrote r (discardTiles u r.t.bind.cid sid) v ((old r).putS x.a.toNat (.ok (sid * 0x10000)))) ∧
  (∀ (x : Std) (s t : State) (r : Run) (b o : Nat) (os : List Nat) (ws : List DWord), issueOf (.sfalloc x) s = some r →
    r.g.readS x.b.toNat 64 = .ok b → b % 64 = 0 → r.readOwn (acquire s r.who .pkg) (b % 2 ^ 56) 8 = (t, .ok ws) →
    badFields (ofBytes (ws.flatMap fun w => toBytes 8 w.toNat)) = o :: os →
    ∃ v, exec (.sfalloc x) s = .next v ∧ wrote r t v ((old r).putS x.a.toNat (.ok (2 + o * 0x100)))) ∧
  (∀ (x : Std) (s t : State) (r : Run) (n : Nat), issueOf (.sffree x) s = some r → r.barrierNum x = .ok n →
    surfaceLive r s n → sfPinned s r.t.bind.cid n = false → surfaceBusy s r.t.bind.cid n = false →
    tableWrite r s t n 0x28 [0] →
    ∃ u, exec (.sffree x) s = .next u ∧ wrote r (discardTiles t r.t.bind.cid n) u ((old r).putS x.a.toNat (.ok 0))) ∧
  (∀ (x : Std) (s t : State) (r : Run) (n : Nat), issueOf (.sffree x) s = some r → r.barrierNum x = .ok n →
    surfaceLive r s n → sfPinned s r.t.bind.cid n = false → surfaceBusy s r.t.bind.cid n = true →
    tableWrite r s t n 0x28 [2] → ∃ u, exec (.sffree x) s = .next u ∧ waits r t u (.freeing n)) ∧
  (∀ (x : Std) (s : State) (r : Run) (n : Nat), issueOf (.sffree x) s = some r → r.barrierNum x = .ok n →
    surfaceLive r s n → sfPinned s r.t.bind.cid n = true →
    ∃ u, exec (.sffree x) s = .next u ∧ wrote r s u ((old r).putS x.a.toNat (.ok 5))) ∧
  (∀ (x : Std) (s t : State) (r : Run) (n : Nat), issueOf (.sfpin x) s = some r → r.barrierNum x = .ok n →
    surfaceLive r s n →
    (sfPinned s r.t.bind.cid n = true → ∃ u, exec (.sfpin x) s = .next u ∧ wrote r s u ((old r).putS x.a.toNat (.ok 0))) ∧
    (sfPinned s r.t.bind.cid n = false → pinsFit s r.t.bind.cid n = false →
      ∃ u, exec (.sfpin x) s = .next u ∧ wrote r s u ((old r).putS x.a.toNat (.ok 3))) ∧
    (sfPinned s r.t.bind.cid n = false → pinsFit s r.t.bind.cid n = true → tableWrite r s t n 0x29 [1] →
      ∃ u, exec (.sfpin x) s = .next u ∧ wrote r t u ((old r).putS x.a.toNat (.ok 0)))) ∧
  (∀ (x : Std) (s t : State) (r : Run) (n : Nat), issueOf (.sfpinUnpin x) s = some r → r.barrierNum x = .ok n →
    surfaceLive r s n →
    tableWrite r s t n 0x29 [BitVec.ofNat 8 (sfField s r.t.bind.cid n 0x29 1 - sfField s r.t.bind.cid n 0x29 1 % 2)] →
    ∃ u, exec (.sfpinUnpin x) s = .next u ∧ wrote r t u ((old r).putS x.a.toNat (.ok 0))) ∧
  (∀ (x : Std) (s : State) (r : Run) (n e : Nat), issueOf (.sfevict x) s = some r → r.barrierNum x = .ok n →
    surfaceLive r s n → handleFor r e →
    ∃ t u ev, exec (.sfevict x) s = .next t ∧ wrote r u t ((old r).putHandle x.a.toNat (4 * 2 ^ 60 + e * 2 ^ 32 + nextSeq r)) ∧
      u = { modTeam s r.tid (tookHandle r e 4) with evicts := mput s.nextId ev s.evicts, nextId := s.nextId + 1 } ∧
      ev.team = r.tid ∧ ev.entry = e ∧ ev.seq = nextSeq r ∧ ev.cid = r.t.bind.cid ∧ ev.sid = n ∧
      ev.left = evictable s r.t.bind.cid n) ∧
  (∀ (x : Std) (s : State) (r : Run) (k : Nat), issueOf (.sfmap x) s = some r →
    (match x.c with
      | .s n => r.g.readS n.toNat 64
      | c => PV.ok (srcNum c)) = PV.ok k →
    let die := dieOf s (k / 128 % 2)
    (x.f = 0 → ∃ t v, exec (.sfmap x) s = .next t ∧ wrote r s t ((old r).putS x.a.toNat (.ok v)) ∧
      ∀ b, b < 64 → (bitB v b = true ↔ 64 * (k % 128) + b ∉ die.deadBanks)) ∧
    (x.f = 1 → ∃ t, exec (.sfmap x) s = .next t ∧ wrote r s t ((old r).putS x.a.toNat (.ok die.remapGen))) ∧
    (x.f.toNat = 2 → ∃ t, exec (.sfmap x) s = .next t ∧ wrote r s t ((old r).putS x.a.toNat (.ok (8192 - die.deadBanks.length)))))

/-- R292 to R298: vqpush and rsbind send their 64 bytes with their ordinal to the sequencer; vqfence waits until no
footing work of its group is unfinished. R307 to R313: tex, texg and texq queue their lanes' operands with the
descriptor, and trace its rays, and the path waits for the results. -/
def Obligations.VerticalQueueAndFooting : Prop :=
  verticalQueue ∧ texturesAndRays

/-- R51, R52, R58 to R60: ckill of a live context starts its kill: the incarnation advances, the context is DRAINING, or CLOSING
where bit 16 asks for it, every target is sent the new incarnation, and the path waits for the acknowledgements; crcl of a
context that is neither CLOSED nor live waits until every target is QUIET; the other cases answer at once.
At which moments the steps of a kill happen is the model's reading (log 38). -/
def Obligations.ContextInstructions : Prop :=
  ctxFront .ckill (fun n => n / 2 ^ 10 % 2 ^ 6 ≠ 0 ∨ n / 2 ^ 17 ≠ 0) 2 1 ∧
  ctxFront .ckill (fun n => n / 2 ^ 10 % 2 ^ 6 ≠ 0 ∨ n / 2 ^ 17 ≠ 0) 3 1 ∧
  ctxFront .crcl (fun n => n / 2 ^ 10 ≠ 0) 1 4 ∧
  (∀ (x : One) (s : State) (r q : Run) (v : DWord), issueOf (.ckill x) s = some r → r.g.getS x.b.toNat = .ok v →
    r.t.paired = false → r.t.contained = false → released r q .rel .sys → v.toNat / 2 ^ 10 % 2 ^ 6 = 0 →
    v.toNat / 2 ^ 17 = 0 → v.toNat % 1024 ≠ 0 → inTransition q.s (v.toNat % 1024) = false →
    (ctxOf q.s (v.toNat % 1024)).state = 1 →
    ∃ t, exec (.ckill x) s = .next t ∧
      t = { q.s with ctx := t.ctx, teams := t.teams, updates := t.updates, ctxOps := t.ctxOps, nextId := t.nextId } ∧
      (ctxOf t (v.toNat % 1024)).icn = ((ctxOf q.s (v.toNat % 1024)).icn + 1) % 256 ∧
      (ctxOf t (v.toNat % 1024)).state = (if bitB v.toNat 16 then 3 else 2) ∧
      t.updates = q.s.updates ++ messages q.s (v.toNat % 1024) ((ctxOf t (v.toNat % 1024)).icn) false ∧
      opsOf t (v.toNat % 1024) = opsOf q.s (v.toNat % 1024) ++
        [{ kind := 2, reg := some (r.tid, r.gnum, r.path, x.a.toNat) }] ∧
      (groupAt t r.tid r.gnum).waitOf r.path = .quiet (v.toNat % 1024)) ∧
  (∀ (x : One) (s : State) (r q : Run) (v : DWord), issueOf (.crcl x) s = some r → r.g.getS x.b.toNat = .ok v →
    r.t.paired = false → r.t.contained = false → released r q .rel .sys → v.toNat / 2 ^ 10 = 0 →
    v.toNat % 1024 ≠ 0 → inTransition q.s (v.toNat % 1024) = false →
    (ctxOf q.s (v.toNat % 1024)).state ≠ 0 → (ctxOf q.s (v.toNat % 1024)).state ≠ 1 →
    ∃ t, exec (.crcl x) s = .next t ∧ (groupAt t r.tid r.gnum).waitOf r.path = .quiet (v.toNat % 1024) ∧
      t = { q.s with teams := t.teams, ctxOps := t.ctxOps } ∧
      opsOf t (v.toNat % 1024) = opsOf q.s (v.toNat % 1024) ++
        [{ kind := 3, reg := some (r.tid, r.gnum, r.path, x.a.toNat) }])

/-- R224: the forms of tlbinv, between a release and an acquire at sys scope, remove every translation of their extents
from every TLB and non-leaf cache, and S[A] takes the number of fault-queue entries that they release; the statuses
for operands that name no context or range do nothing else. R225, Table 12.6: pgprobe gives what a walk finds: of a
page its device, frame, level, type and permissions with status 0; of a failure its level and status; 5 for a CID
past 1023 or CLOSED, 6 for a local address. The path's own earlier writes are performed first; beside that no
register else and no byte of memory changes, and a denied read is logged.
What the TLBs hold is the model's reading (log 16). -/
def Obligations.TranslationInstructions : Prop :=
  translationInvalidation ∧ pageProbes

/-- R42, R43, R51, R52: CTXCMD_OPEN of a CLOSED context advances its incarnation and tells every target that it is live;
a KILL or KILLRETIRE of a LIVE one starts its kill; a RECLAIM of a DRAINING or CLOSING one waits for QUIET; on CID 0
each ends with BADCID's status 3; a reserved command ends with 5, or with 6 and the incarnation and state of its
context, and changes no context. R43: a command written while GO reads 1 is ignored, and counted at the bridge where
the host wrote it; a host command that the host may not start is counted and logged, and changes no context.
The operand of a reserved command and its RESULT are the model's readings (log 48). -/
def Obligations.ContextCommandRegister : Prop :=
  contextCommands ∧ commandsRefused

/-- R42, R43, R45, R52 to R54, R60: a target that takes an incarnation message holds its ICN and liveness; the last acknowledgement
makes an opened context LIVE and counts a kill, whose other steps leave nothing of the context to issue; a target lets go of
what it holds of an old incarnation, where a byte keeps its value or takes an earlier one, and sets QUIET once it holds
nothing more of it; a reclaim
with every target QUIET closes a CLOSING context and tells the targets of a DRAINING one that it is live; and CTXCMD takes its
result and clears GO. -/
def Obligations.ContextMessages : Prop :=
  (∀ (s : State) (id : Nat) (u : Update), mfind id s.updates = some u → u.applied = false → u.cid ≠ 0 →
    ∃ t, exec (.incarnationUpdate id) s = .next t ∧ t = { s with lit := t.lit, updates := t.updates } ∧
      (litOf t u.target u.cid).icn = u.icn ∧ (litOf t u.target u.cid).live = u.live ∧
      mfind id t.updates = some { u with applied := true }) ∧
  (∀ (s : State) (id : Nat) (u : Update), mfind id s.updates = some u → u.applied = true →
    ((merase id s.updates).any fun e => e.2.cid == u.cid) = true →
    exec (.incarnationAck id) s = .next { s with updates := merase id s.updates }) ∧
  (∀ (s : State) (id : Nat) (u : Update), mfind id s.updates = some u → u.applied = true → s.ctl.ctxcmd.waiting = false →
    ((merase id s.updates).any fun e => e.2.cid == u.cid) = false →
    (inTransition s u.cid = true → ∃ t, exec (.incarnationAck id) s = .next t ∧ (ctxOf t u.cid).state = 1 ∧
      inTransition t u.cid = false) ∧
    (inTransition s u.cid = false → ((opsOf s u.cid).any fun o => o.kind == 2) = true →
      ∃ t, exec (.incarnationAck id) s = .next t ∧
        (ctxOf t u.cid).kills = min (2 ^ 64 - 1) ((ctxOf s u.cid).kills + 1) ∧
        (ctxOf t u.cid).state = (ctxOf s u.cid).state ∧ ((opsOf t u.cid).any fun o => o.kind == 2) = false)) ∧
  (∀ (s : State) (cid : Nat), contextGone (killSteps s cid) cid) ∧
  (∀ (s : State) (target cid : Nat), (litOf s target cid).quiet = false →
    let u := dropOld s target cid (litOf s target cid).icn
    (holdsOld u target cid (litOf s target cid).icn = false →
      ∃ t, exec (.cachesReportQuiet target cid) s = .next t ∧ (litOf t target cid).quiet = true ∧ t = { u with lit := t.lit }) ∧
    (holdsOld u target cid (litOf s target cid).icn = true → exec (.cachesReportQuiet target cid) s = .next s) ∧
    (∀ e ∈ s.l1, (256 + e.1 / 2 ^ 52 ≠ target ∨ e.2.dirty = false ∨ e.2.cid ≠ cid ∨ e.2.icn = (litOf s target cid).icn) → e ∈ u.l1) ∧
    (∀ a p, inCtxTable s a = false → (s.past.filter fun e => e.1 == a) = [(a, p)] → staleAt s target cid a p →
      mget 0 a u.mem = mget 0 a s.mem ∨ mget 0 a u.mem ∈ p.vals) ∧
    (∀ a, inCtxTable s a = false → (∀ p, (a, p) ∈ s.past → ¬staleAt s target cid a p) → mget 0 a u.mem = mget 0 a s.mem)) ∧
  (∀ (s : State) (cid : Nat), (opsOf s cid).any (fun o => o.kind == 3) = true → (opsOf s cid).any (fun o => o.kind != 3) = false →
    (s.updates.any fun u => u.2.cid == cid) = false → (∀ g ∈ allTargets, (litOf s g cid).quiet = true) →
    s.ctl.ctxcmd.waiting = false →
    ((ctxOf s cid).state = 3 → ∃ t, exec (.reclaimQuiet cid) s = .next t ∧ (ctxOf t cid).state = 0 ∧ surfacesFree t cid) ∧
    ((ctxOf s cid).state ≠ 3 → ∃ t, exec (.reclaimQuiet cid) s = .next t ∧ inTransition t cid = true ∧
      t.updates = s.updates ++ messages s cid (ctxOf s cid).icn true ∧ t.ctx = s.ctx)) ∧
  (∀ (s : State) (w : Nat), s.ctl.ctxcmd.ended = some w →
    ∃ t, exec (.ctxcmdComplete s.ctl.ctxcmd.cid) s = .next t ∧ t.ctl.ctxcmd.go = false ∧ t.ctl.ctxcmd.result = w ∧
      t.ctl.ctxcmd.ended = none ∧ t = { s with ctl := t.ctl, irqs := t.irqs } ∧
      t.irqs = (if s.ctl.ctxcmd.ien then s.irqs ++ [s.ctl.ctxcmd.vec] else s.irqs))

/-- R44 to R48, R56, R57, R185, R192, R320: requests at the slices, responses at the cores, evictions, reports and
invalidations.
When a core's bytes leave it and which requests are in flight are the model's readings (log 5, log 47, log 69). -/
def Obligations.RequestsAndResponses : Prop := requestsAtSlices ∧ responsesAtCores ∧ evictedLines ∧ smallMessages

/-- R129 to R133, R136, R217, R223: walks, notices, notifications and instances.
The walker's moments, its flush and its queues are the model's readings (log 33, log 35, log 37, log 68). -/
def Obligations.WalksAndInstances : Prop :=
  walksComplete ∧ noticesWritten ∧ notificationsQueue ∧ instancesStart ∧ instancesEnd

/-- R135, R137, R138, R141, R145, R158, R159: bind records, the end of teams, the marks of the issue order and the churn.
The order of moves, the moments of time-outs and some bind checks are the model's readings (log 4, log 13, log 54, log 67). -/
def Obligations.DispatchAndChurn : Prop := bindRecords ∧ teamsEnd ∧ issueMarks ∧ churn

/-- R168, R228, R229, R231, R234, R235: the copy engine at work.
In which pieces a lane moves is free (log 45). -/
def Obligations.CopyEngine : Prop := copiesMove ∧ copiesReport ∧ copiesEnd

/-- R255, R256, R258 to R260, R266, R272: leases granted, and the matrix engine's work and stops.
When operands are read again is the model's reading (log 42). -/
def Obligations.MatrixEngine : Prop := leasesGranted ∧ matrixWork ∧ matrixStops

/-- R163, R280, R283, R287, R291, R328, R330: collectives, surface operations, tiles and evictions come to their ends.
The bytes of a spill and the retries of an eviction are the model's readings (log 17, log 46, log 74). -/
def Obligations.CollectivesAndTiles : Prop := collectivesEnd ∧ surfacesApply ∧ tilesMove ∧ evictionsEnd

/-- R296, R298, R300, R302, R303, R311, R313: pushes and state blocks, the sequencer, pixel groups, and results.
What BAD counts and the quads of a fan are the model's readings (log 25, log 26). -/
def Obligations.DrawsAndResults : Prop :=
  pushesArrive ∧ bindsArrive ∧ sequencersDrain ∧ pixelGroups ∧ footingResults

/-- R213, R345, R346, R352, R355, R356, R359: monitors, commits, the watchdog, and saves.
The moment of a region entry, the watchdog's path and the unstated parts of an image are the model's readings (log 18, log 50, log 52). -/
def Obligations.CommitsAndSaves : Prop := monitorsWake ∧ regionsCommit ∧ watchdogs ∧ preemptions ∧ savesEnd

/-- R279, R323, R368, R373, R376: the commands of in-service retirement, what each leaves, and their end.
The numbers of units and the ends of commands are the model's readings (log 57, log 59). -/
def Obligations.ServiceCommands : Prop := banksServed ∧ lanesServed ∧ coresServed ∧ servicesEnd

/-- R318, R364, R371, R373, R377, R378: class control, power and banks, attestation, and writes of the control window.
Accesses that R378 leaves open are ignored, which is the model's reading (log 55). -/
def Obligations.ControlWindow : Prop := classesWritten ∧ powerAndBanks ∧ attestations ∧ registerWrites

/-- R50, R361, R363, R364: graph ports, the debug window, and other requests of the host.
The codes of rejections and the row that serves host reads are the model's readings (log 62, log 64). -/
def Obligations.HostRequests : Prop := graphPorts ∧ debugWindow ∧ otherRequests

/-- R46, R322, R323, R367, R368, R374: requests of peers, link ports, mortar and the vertical bus.
The kinds of a peer's request and the limits of losses are the model's readings (log 60, log 63). -/
def Obligations.LinksAndFabric : Prop := peersServed ∧ portsChange ∧ fabricRepairs

/-- R24, R28, R333, R358, R369, R370: uncorrectable lines, boot and firmware updates, and faults of decoding and fetching.
The form of an image is the model's choice (log 61). -/
def Obligations.ErrorsAndBoot : Prop := linesMarked ∧ bootAndUpdate ∧ decodingFaults

/-- R101, R102, R115 to R119: from every state and operands on which a path issues them, frcp, frsq, fsqrt, fexp2, flog2, fsin,
fcos, pkop, pkmul, pkfma, fdp2, idp4, lmul and cvt complete: each active lane takes a result, the path passes the instruction,
and nothing else changes but the flags. And R24, R28, R322, R323, R358, R361 to R370, R376: the service commands, the requests
of the host and of peers, what happens to link ports, mortar and the vertical buses, marked lines, boot, updates and the faults
of decoding and fetching each complete, under conditions on the state and the operands alone.
The model's readings that these rest on are those of log 57, log 60 and log 61. -/
def Obligations.FormsComplete : Prop :=
  (laneFormCompletes .frcp (fun x => x.ty.regs) ∧ laneFormCompletes .frsq (fun x => x.ty.regs) ∧
    laneFormCompletes .fsqrt (fun x => x.ty.regs) ∧ laneFormCompletes .fexp2 (fun x => x.ty.regs) ∧
    laneFormCompletes .flog2 (fun x => x.ty.regs) ∧ laneFormCompletes .fsin (fun x => x.ty.regs) ∧
    laneFormCompletes .fcos (fun x => x.ty.regs) ∧ laneFormCompletes .pkop (fun _ => 1) ∧ laneFormCompletes .pkmul (fun _ => 1) ∧
    laneFormCompletes .pkfma (fun _ => 1) ∧ laneFormCompletes .fdp2 (fun _ => 1) ∧ laneFormCompletes .idp4 (fun _ => 1) ∧
    laneFormCompletes .lmul (fun _ => 1) ∧ laneFormCompletes .cvt cvtRegs) ∧
  servicesComplete ∧ requestsComplete ∧ fabricCompletes ∧ errorsComplete
end

