-- ==== Sys2Proof/Laws/Store.lean ====
section
/-!
SUPPORT. Finite maps: what a lookup finds after each update, and that every update keeps the canonical form.
-/

namespace Sys2Proof

/-! ## Lookups -/

@[simp] theorem mfind_nil (k : Nat) : mfind k ([] : List (Nat × α)) = none := rfl

theorem mfind_mput (j k : Nat) (v : α) (l : List (Nat × α)) :
    mfind j (mput k v l) = if j = k then some v else mfind j l := by
  induction l with
  | nil =>
    by_cases h : j = k
    · subst h; simp [mput, mfind]
    · have : k ≠ j := fun e => h e.symm
      simp [mput, mfind, h, this]
  | cons e l ih =>
    obtain ⟨i, w⟩ := e
    simp only [mput]
    split
    · by_cases h : j = k
      · subst h; simp [mfind]
      · have : k ≠ j := fun e => h e.symm
        simp [mfind, h, this]
    · split
      · rename_i h2
        subst h2
        by_cases h : j = k
        · subst h; simp [mfind]
        · have : k ≠ j := fun e => h e.symm
          simp [mfind, h, this]
      · rename_i h1 h2
        simp only [mfind, ih]
        by_cases h : i = j
        · subst h; simp; intro e; exact absurd e.symm h2
        · simp [h]

@[simp] theorem mfind_mput_self (k : Nat) (v : α) (l : List (Nat × α)) : mfind k (mput k v l) = some v := by
  simp [mfind_mput]

theorem mfind_mput_ne {j k : Nat} (h : j ≠ k) (v : α) (l : List (Nat × α)) : mfind j (mput k v l) = mfind j l := by
  simp [mfind_mput, h]

theorem mfind_merase (j k : Nat) (l : List (Nat × α)) :
    mfind j (merase k l) = if j = k then none else mfind j l := by
  induction l with
  | nil => simp [merase]
  | cons e l ih =>
    obtain ⟨i, w⟩ := e
    simp only [merase]
    split
    · rename_i h
      subst h
      rw [ih]
      by_cases h2 : j = i
      · simp [h2]
      · have : i ≠ j := fun e => h2 e.symm
        simp [h2, mfind, this]
    · rename_i h
      simp only [mfind, ih]
      by_cases h2 : i = j
      · subst h2; simp [h]
      · simp [h2]

theorem mget_mput (d : α) (j k : Nat) (v : α) (l : List (Nat × α)) :
    mget d j (mput k v l) = if j = k then v else mget d j l := by
  unfold mget; rw [mfind_mput]; split <;> simp

theorem mget_merase (d : α) (j k : Nat) (l : List (Nat × α)) :
    mget d j (merase k l) = if j = k then d else mget d j l := by
  unfold mget; rw [mfind_merase]; split <;> simp

/-- Read after write, in a map with a value for unlisted keys. -/
theorem mget_mset [DecidableEq α] (d : α) (j k : Nat) (v : α) (l : List (Nat × α)) :
    mget d j (mset d k v l) = if j = k then v else mget d j l := by
  unfold mset
  split
  · rename_i h; subst h; rw [mget_merase]
  · rw [mget_mput]

theorem mfind_mmod (j k : Nat) (f : α → α) (l : List (Nat × α)) :
    mfind j (mmod k f l) = if j = k then (mfind k l).map f else mfind j l := by
  unfold mmod
  cases h : mfind k l with
  | none => by_cases e : j = k <;> simp [e, h]
  | some v => simp [mfind_mput]

theorem mfind_mmod_ne {j k : Nat} (h : j ≠ k) (f : α → α) (l : List (Nat × α)) : mfind j (mmod k f l) = mfind j l := by
  simp [mfind_mmod, h]

/-! ## The canonical form -/

/-- The bound only matters as a lower bound: it may be lowered. -/
theorem keysAbove_mono {a b : Option Nat} {l : List (Nat × α)}
    (h : ∀ x, a = some x → ∃ y, b = some y ∧ x ≤ y) (hl : keysAbove b l = true) : keysAbove a l = true := by
  cases l with
  | nil => cases a <;> rfl
  | cons e l =>
    obtain ⟨j, v⟩ := e
    cases a with
    | none => cases b <;> simp_all [keysAbove]
    | some x =>
      obtain ⟨y, rfl, hy⟩ := h x rfl
      simp only [keysAbove, Bool.and_eq_true, decide_eq_true_eq] at hl ⊢
      exact ⟨by omega, hl.2⟩

theorem keysAbove_tail {a : Option Nat} {j : Nat} {v : α} {l : List (Nat × α)}
    (h : keysAbove a ((j, v) :: l) = true) : keysAbove (some j) l = true := by
  cases a <;> simp_all [keysAbove]

theorem keysAbove_cons {a : Option Nat} {j : Nat} {v : α} {l : List (Nat × α)}
    (h1 : ∀ x, a = some x → x < j) (h2 : keysAbove (some j) l = true) : keysAbove a ((j, v) :: l) = true := by
  cases a with
  | none => simpa [keysAbove] using h2
  | some x => simpa [keysAbove, h1 x rfl] using h2

theorem keysAbove_head {x j : Nat} {v : α} {l : List (Nat × α)}
    (h : keysAbove (some x) ((j, v) :: l) = true) : x < j := by
  simp [keysAbove] at h; exact h.1

theorem keysAbove_mput {a : Option Nat} {k : Nat} {v : α} {l : List (Nat × α)}
    (ha : ∀ x, a = some x → x < k) (hl : keysAbove a l = true) : keysAbove a (mput k v l) = true := by
  induction l generalizing a with
  | nil => exact keysAbove_cons ha (by rfl)
  | cons e l ih =>
    obtain ⟨j, w⟩ := e
    simp only [mput]
    split
    · rename_i h
      exact keysAbove_cons ha (keysAbove_cons (fun x e => by cases e; exact h) (keysAbove_tail hl))
    · split
      · rename_i h; subst h
        exact keysAbove_cons ha (keysAbove_tail hl)
      · rename_i h1 h2
        refine keysAbove_cons (fun x e => ?_) (ih (fun x e => by cases e; omega) (keysAbove_tail hl))
        subst e; exact keysAbove_head hl

theorem keysAbove_filter {a : Option Nat} {l : List (Nat × α)} (p : Nat × α → Bool) (hl : keysAbove a l = true) :
    keysAbove a (l.filter p) = true := by
  induction l generalizing a with
  | nil => exact hl
  | cons e l ih =>
    obtain ⟨j, w⟩ := e
    have ht := keysAbove_tail hl
    simp only [List.filter_cons]
    split
    · refine keysAbove_cons (fun x e => ?_) (ih ht)
      subst e; exact keysAbove_head hl
    · refine ih (keysAbove_mono (fun x e => ⟨j, rfl, ?_⟩) ht)
      subst e; exact Nat.le_of_lt (keysAbove_head hl)

theorem merase_eq_filter (k : Nat) (l : List (Nat × α)) : merase k l = l.filter fun e => decide (e.1 ≠ k) := by
  induction l with
  | nil => rfl
  | cons e l ih =>
    obtain ⟨j, w⟩ := e
    simp only [merase, List.filter_cons, ih]
    by_cases h : j = k <;> simp [h]

theorem mput_mem {k : Nat} {v : α} {l : List (Nat × α)} {e : Nat × α} (h : e ∈ mput k v l) : e = (k, v) ∨ e ∈ l := by
  induction l with
  | nil => simpa [mput] using h
  | cons x l ih =>
    obtain ⟨j, w⟩ := x
    simp only [mput] at h
    split at h
    · simpa using h
    · split at h
      · rcases List.mem_cons.1 h with h | h
        · exact .inl h
        · exact .inr (List.mem_cons_of_mem _ h)
      · rcases List.mem_cons.1 h with h | h
        · exact .inr (by rw [h]; exact List.mem_cons_self ..)
        · rcases ih h with h | h
          · exact .inl h
          · exact .inr (List.mem_cons_of_mem _ h)

theorem mwf_nil [DecidableEq α] (d : α) : mwf d ([] : List (Nat × α)) = true := rfl

/-- A write keeps the canonical form. -/
theorem mwf_mset [DecidableEq α] {d : α} {l : List (Nat × α)} (k : Nat) (v : α) (h : mwf d l = true) :
    mwf d (mset d k v l) = true := by
  simp only [mwf, Bool.and_eq_true, List.all_eq_true, decide_eq_true_eq] at h ⊢
  unfold mset
  split
  · rw [merase_eq_filter]
    exact ⟨keysAbove_filter _ h.1, fun e he => h.2 e ((List.mem_filter.1 he).1)⟩
  · rename_i hv
    refine ⟨keysAbove_mput (fun x e => by cases e) h.1, fun e he => ?_⟩
    rcases mput_mem he with rfl | he
    · exact hv
    · exact h.2 e he

/-- Dropping entries keeps the canonical form. -/
theorem mwf_filter [DecidableEq α] {d : α} {l : List (Nat × α)} (p : Nat × α → Bool) (h : mwf d l = true) :
    mwf d (l.filter p) = true := by
  simp only [mwf, Bool.and_eq_true, List.all_eq_true, decide_eq_true_eq] at h ⊢
  exact ⟨keysAbove_filter p h.1, fun e he => h.2 e ((List.mem_filter.1 he).1)⟩

end Sys2Proof
end

