-- ==== Sys2Proof/Laws/Group.lean ====
section
/-!
SUPPORT. The registers of a group after a write, and what the end of an issue leaves of a group: its registers and all
but the places of its threads.
-/

namespace Sys2Proof.Laws

open Sys2Proof Sys2Proof.Machine Sys2Proof.Safety

/-! ## Registers -/

theorem lane_key {n m l k : Nat} (hl : l < 32) (hk : k < 32) : 32 * n + l = 32 * m + k ↔ n = m ∧ l = k := by omega

theorem getV_setV (g : Group) {n m l k : Nat} (x : PV Word) (hl : l < 32) (hk : k < 32) :
    (g.setV m k x).getV n l = if n = m ∧ l = k then x else g.getV n l := by
  simp only [Group.getV, Group.setV, mget_mset, lane_key hl hk]

theorem getP_setP (g : Group) {n m l k : Nat} (x : PV Bool) (hl : l < 32) (hk : k < 32) :
    (g.setP m k x).getP n l = if n = m ∧ l = k then x else g.getP n l := by
  simp only [Group.getP, Group.setP, mget_mset, lane_key hl hk]

/-- What `k` words written from register `a` on in a lane read as. -/
theorem getV_writeV (g : Group) {n l b : Nat} (a k : Nat) (x : PV Nat) (hl : l < 32) (hb : b < 32) :
    (g.writeV a b k x).getV n l = if l = b ∧ a ≤ n ∧ n < a + k then wordOf x (n - a) else g.getV n l := by
  induction k generalizing g a x with
  | zero => simp only [Group.writeV]; rw [if_neg (by omega)]
  | succ k ih =>
    cases x with
    | bad t =>
      simp only [Group.writeV, ih, getV_setV _ _ hl hb]
      by_cases h : l = b
      · subst h
        by_cases h1 : n = a
        · subst h1; rw [if_neg (by omega), if_pos (by simp), if_pos (by omega)]; rfl
        · by_cases h2 : a + 1 ≤ n ∧ n < a + 1 + k
          · rw [if_pos (by omega), if_pos (by omega)]; rfl
          · rw [if_neg (by omega), if_neg (by simp [h1]), if_neg (by omega)]
      · simp [h]
    | ok x =>
      simp only [Group.writeV, ih, getV_setV _ _ hl hb]
      by_cases h : l = b
      · subst h
        by_cases h1 : n = a
        · subst h1; rw [if_neg (by omega), if_pos (by simp), if_pos (by omega)]; simp [wordOf, PV.map]
        · by_cases h2 : a + 1 ≤ n ∧ n < a + 1 + k
          · rw [if_pos (by omega), if_pos (by omega)]
            simp only [wordOf, PV.map]
            rw [Nat.div_div_eq_div_mul, ← Nat.pow_add]
            congr 4; omega
          · rw [if_neg (by omega), if_neg (by simp [h1]), if_neg (by omega)]
      · simp [h]

/-- A group that differs from another in v-registers alone. -/
def onlyV (g u : Group) : Prop := u = { g with v := u.v }

theorem onlyV_refl (g : Group) : onlyV g g := rfl
theorem onlyV_trans {g u w : Group} (h1 : onlyV g u) (h2 : onlyV u w) : onlyV g w := by
  unfold onlyV at *; rw [h2, h1]
theorem onlyV_setV (g : Group) (n l : Nat) (x : PV Word) : onlyV g (g.setV n l x) := rfl
theorem onlyV_writeV (g : Group) (n l k : Nat) (x : PV Nat) : onlyV g (g.writeV n l k x) := by
  induction k generalizing g n x with
  | zero => exact onlyV_refl g
  | succ k ih => cases x <;> exact onlyV_trans (onlyV_setV g n l _) (ih _ _ _)

theorem onlyV_foldl (ls : List Nat) (f : Group → Nat → Group) (hf : ∀ g l, onlyV g (f g l)) (g : Group) :
    onlyV g (ls.foldl f g) := by
  induction ls generalizing g with
  | nil => exact onlyV_refl g
  | cons l ls ih => exact onlyV_trans (hf g l) (ih _)

theorem regs_onlyV {g u : Group} (h : onlyV g u) : regsOf u = { regsOf g with v := u.getV } := by
  unfold onlyV at h; rw [h]; rfl

theorem sameRest_refl (g : Group) : sameRest g g := rfl
theorem sameRest_trans {g u w : Group} (h1 : sameRest g u) (h2 : sameRest u w) : sameRest g w := by
  unfold sameRest at *; rw [h2, h1]
theorem sameRest_onlyV {g u : Group} (h : onlyV g u) : sameRest g u := by
  unfold onlyV at h; unfold sameRest; rw [h]
theorem threads_onlyV {g u : Group} (h : onlyV g u) : u.threads = g.threads := by
  unfold onlyV at h; rw [h]

theorem same_refl (a : Regs) : Regs.same a a :=
  ⟨fun _ _ _ => rfl, fun _ => rfl, fun _ _ _ => rfl, fun _ => rfl, rfl, fun _ => rfl⟩
theorem same_trans {a b c : Regs} (h1 : Regs.same a b) (h2 : Regs.same b c) : Regs.same a c :=
  ⟨fun n l h => (h1.1 n l h).trans (h2.1 n l h), fun n => (h1.2.1 n).trans (h2.2.1 n),
   fun n l h => (h1.2.2.1 n l h).trans (h2.2.2.1 n l h), fun n => (h1.2.2.2.1 n).trans (h2.2.2.2.1 n),
   h1.2.2.2.2.1.trans h2.2.2.2.2.1, fun n => (h1.2.2.2.2.2 n).trans (h2.2.2.2.2.2 n)⟩

/-- Results written in a list of lanes, from values that do not depend on the writes. -/
theorem getV_foldl_writeV (ls : List Nat) (g : Group) (a k : Nat) (f : Nat → PV Nat) {n l : Nat} (hl : l < 32)
    (hs : ∀ b ∈ ls, b < 32) :
    (ls.foldl (fun g l => g.writeV a l k (f l)) g).getV n l =
      if l ∈ ls ∧ a ≤ n ∧ n < a + k then wordOf (f l) (n - a) else g.getV n l := by
  induction ls generalizing g with
  | nil => simp
  | cons b ls ih =>
    simp only [List.foldl_cons]
    rw [ih _ fun c hc => hs c (List.mem_cons_of_mem _ hc), getV_writeV _ _ _ _ hl (hs b (List.mem_cons_self ..))]
    by_cases h : a ≤ n ∧ n < a + k
    · by_cases h1 : l ∈ ls
      · simp [h, h1]
      · by_cases h2 : l = b
        · subst h2; simp [h, h1]
        · simp [h, h1, h2]
    · simp [h]

theorem regs_putLanes (r : Run) (a k : Nat) (f : Nat → PV Nat) (hs : ∀ b ∈ r.act, b < 32) :
    Regs.same (regsOf (r.putLanes a k f)) ((regsOf r.g).putV r.act a k f) := by
  have h : onlyV r.g (r.putLanes a k f) := onlyV_foldl _ _ (fun g l => onlyV_writeV g a l k _) _
  rw [regs_onlyV h]
  exact ⟨fun n l hl => getV_foldl_writeV r.act r.g a k f hl hs,
    fun _ => rfl, fun _ _ _ => rfl, fun _ => rfl, rfl, fun _ => rfl⟩

theorem rest_putLanes (r : Run) (a k : Nat) (f : Nat → PV Nat) :
    sameRest r.g (r.putLanes a k f) ∧ (r.putLanes a k f).threads = r.g.threads := by
  have h : onlyV r.g (r.putLanes a k f) := onlyV_foldl _ _ (fun g l => onlyV_writeV g a l k _) _
  exact ⟨sameRest_onlyV h, threads_onlyV h⟩

/-- A group that differs from another in predicates alone. -/
def onlyP (g u : Group) : Prop := u = { g with p := u.p }

theorem onlyP_putPreds (r : Run) (a : Nat) (f : Nat → PV Bool) : onlyP r.g (r.putPreds a f) := by
  unfold Run.putPreds
  generalize r.g = g
  induction r.act generalizing g with
  | nil => rfl
  | cons l ls ih => have h := ih (g.setP a l (f l)); unfold onlyP at *; exact h

theorem getP_foldl_setP (ls : List Nat) (g : Group) (a : Nat) (f : Nat → PV Bool) {n l : Nat} (hl : l < 32)
    (hs : ∀ b ∈ ls, b < 32) :
    (ls.foldl (fun g l => g.setP a l (f l)) g).getP n l = if l ∈ ls ∧ n = a then f l else g.getP n l := by
  induction ls generalizing g with
  | nil => simp
  | cons b ls ih =>
    simp only [List.foldl_cons]
    rw [ih _ fun c hc => hs c (List.mem_cons_of_mem _ hc), getP_setP _ _ hl (hs b (List.mem_cons_self ..))]
    by_cases h : n = a
    · by_cases h1 : l ∈ ls
      · simp [h, h1]
      · by_cases h2 : l = b
        · subst h2; simp [h, h1]
        · simp [h, h1, h2]
    · simp [h]

theorem regs_putPreds (r : Run) (a : Nat) (f : Nat → PV Bool) (hs : ∀ b ∈ r.act, b < 32) :
    Regs.same (regsOf (r.putPreds a f)) ((regsOf r.g).putP r.act a f) := by
  have h := onlyP_putPreds r a f
  have e : regsOf (r.putPreds a f) = { regsOf r.g with p := (r.putPreds a f).getP } := by
    unfold onlyP at h; rw [h]; rfl
  rw [e]
  exact ⟨fun _ _ _ => rfl, fun _ => rfl, fun n l hl => getP_foldl_setP r.act r.g a f hl hs,
    fun _ => rfl, rfl, fun _ => rfl⟩

theorem rest_putPreds (r : Run) (a : Nat) (f : Nat → PV Bool) :
    sameRest r.g (r.putPreds a f) ∧ (r.putPreds a f).threads = r.g.threads := by
  have h := onlyP_putPreds r a f
  unfold onlyP at h
  exact ⟨by unfold sameRest; rw [h], by rw [h]⟩

theorem contains_filter_ne (l : List Nat) (a n : Nat) : (l.filter (· != a)).contains n = (l.contains n && n != a) := by
  rw [Bool.eq_iff_iff]; simp

theorem regs_writeS (g : Group) (a : Nat) (x : PV Nat) : Regs.same (regsOf (g.writeS a x)) ((regsOf g).putS a x) := by
  refine ⟨fun _ _ _ => rfl, fun n => ?_, fun _ _ _ => rfl, fun _ => rfl, rfl, fun n => ?_⟩
  · simp only [regsOf, Regs.putS, Group.writeS, Group.setS, mget_mset]
  · simp only [regsOf, Regs.putS, Group.writeS, Group.setS, contains_filter_ne]

theorem regs_setQ (g : Group) (a : Nat) (x : PV Bool) : Regs.same (regsOf (g.setQ a x)) ((regsOf g).putQ a x) := by
  refine ⟨fun _ _ _ => rfl, fun n => rfl, fun _ _ _ => rfl, fun n => ?_, rfl, fun n => rfl⟩
  simp only [regsOf, Regs.putQ, Group.setQ, mget_mset]

/-! ## Threads -/

theorem thread_mapIdx (g : Group) (f : Nat → Thread → Thread) (l : Nat) :
    ({ g with threads := g.threads.mapIdx f } : Group).thread l =
      if l < g.threads.length then f l (g.thread l) else g.thread l := by
  simp only [Group.thread, List.getD_eq_getElem?_getD, List.getElem?_mapIdx]
  split
  · rename_i h; rw [List.getElem?_eq_getElem h]; rfl
  · rename_i h; rw [List.getElem?_eq_none (by omega)]; rfl

theorem thread_modThreads (g : Group) (lanes : List Nat) (f : Thread → Thread) (l : Nat) :
    (g.modThreads lanes f).thread l = if l < g.threads.length ∧ l ∈ lanes then f (g.thread l) else g.thread l := by
  unfold Group.modThreads
  rw [thread_mapIdx]
  by_cases h : l < g.threads.length <;> by_cases h2 : l ∈ lanes <;> simp [h, h2]

theorem sameThread_refl (a : Thread) : sameThread a a := rfl
theorem sameThread_trans {a b c : Thread} (h1 : sameThread a b) (h2 : sameThread b c) : sameThread a c := by
  unfold sameThread at *; rw [h2, h1]

/-- A group that differs from another in its threads' places and the bookkeeping of its paths alone. -/
def onlyPaths (g u : Group) : Prop :=
  u = { g with
    threads := u.threads, paths := u.paths, cur := u.cur, starved := u.starved, urgent := u.urgent, aside := u.aside } ∧
  u.threads.length = g.threads.length ∧ ∀ l, sameThread (g.thread l) (u.thread l)

/-- The same, and no thread has moved. -/
def stays (g u : Group) : Prop := onlyPaths g u ∧ ∀ l, (u.thread l).pc = (g.thread l).pc

theorem onlyPaths_refl (g : Group) : onlyPaths g g := ⟨rfl, rfl, fun _ => rfl⟩
theorem onlyPaths_trans {g u w : Group} (h1 : onlyPaths g u) (h2 : onlyPaths u w) : onlyPaths g w := by
  refine ⟨?_, h2.2.1.trans h1.2.1, fun l => sameThread_trans (h1.2.2 l) (h2.2.2 l)⟩
  have e1 := h1.1
  have e2 := h2.1
  rw [e2, e1]
theorem stays_refl (g : Group) : stays g g := ⟨onlyPaths_refl g, fun _ => rfl⟩
theorem stays_trans {g u w : Group} (h1 : stays g u) (h2 : stays u w) : stays g w :=
  ⟨onlyPaths_trans h1.1 h2.1, fun l => (h2.2 l).trans (h1.2 l)⟩

theorem stays_countIssue (g : Group) (p : Nat) : stays g (g.countIssue p) := ⟨⟨rfl, rfl, fun _ => rfl⟩, fun _ => rfl⟩
theorem stays_setWait (g : Group) (p : Nat) (w : Wait) : stays g (g.setWait p w) := ⟨⟨rfl, rfl, fun _ => rfl⟩, fun _ => rfl⟩
theorem stays_tidy (g : Group) : stays g g.tidy := ⟨⟨rfl, rfl, fun _ => rfl⟩, fun _ => rfl⟩

theorem stays_modThreads (g : Group) (lanes : List Nat) (f : Thread → Thread)
    (hf : ∀ t, sameThread t (f t) ∧ (f t).pc = t.pc) : stays g (g.modThreads lanes f) := by
  refine ⟨⟨rfl, by simp [Group.modThreads], fun l => ?_⟩, fun l => ?_⟩ <;> rw [thread_modThreads] <;> split
  · exact (hf _).1
  · rfl
  · exact (hf _).2
  · rfl

theorem stays_paths (g : Group) (ps : Map PathSt) : stays g { g with paths := ps } :=
  ⟨⟨rfl, rfl, fun _ => rfl⟩, fun _ => rfl⟩

theorem stays_merge (g : Group) (lanes : List Nat) (p : Nat) (st : List LoopEntry) (ps : Map PathSt) :
    stays g { g.modThreads lanes (fun t => { t with held := false, released := true, path := p, loops := st }) with
      paths := ps } :=
  stays_trans (stays_modThreads g lanes (fun t => { t with held := false, released := true, path := p, loops := st })
    fun _ => ⟨rfl, rfl⟩) (stays_paths _ ps)

theorem stays_mergeAt (g : Group) (x : Nat) : stays g (g.mergeAt x) := by
  unfold Group.mergeAt
  simp only
  split
  · exact stays_refl g
  · split
    · exact stays_merge g _ _ _ _
    · exact stays_refl g

theorem thread_map (g : Group) (f : Thread → Thread) (l : Nat) :
    ({ g with threads := g.threads.map f } : Group).thread l =
      if l < g.threads.length then f (g.thread l) else g.thread l := by
  simp only [Group.thread, List.getD_eq_getElem?_getD, List.getElem?_map]
  split
  · rename_i h; rw [List.getElem?_eq_getElem h]; rfl
  · rename_i h; rw [List.getElem?_eq_none (by omega)]; rfl

theorem stays_hold (g : Group) : stays g g.hold := by
  unfold Group.hold
  refine ⟨⟨rfl, by simp, fun l => ?_⟩, fun l => ?_⟩ <;> rw [thread_map] <;> split
  · split <;> rfl
  · rfl
  · split <;> rfl
  · rfl

theorem stays_foldl (xs : List Nat) (g : Group) : stays g (xs.foldl Group.mergeAt g) := by
  induction xs generalizing g with
  | nil => exact stays_refl g
  | cons x xs ih => exact stays_trans (stays_mergeAt g x) (ih _)

/-- The hold and merge rule moves no thread and changes no register (R146). -/
theorem stays_settle (g : Group) : stays g g.settle := by
  unfold Group.settle
  exact stays_trans (stays_hold g) (stays_trans (stays_foldl _ _) (stays_tidy _))

/-! ## Sending threads -/

theorem targets_nil {dest : List (Nat × Spot)} (h : targetsOf dest = []) : dest = [] := by
  have key : ∀ (ds : List (Nat × Spot)) (ts : List Spot), ts ≠ [] →
      ds.foldl (fun ts d => if ts.contains d.2 then ts else ts ++ [d.2]) ts ≠ [] := by
    intro ds
    induction ds with
    | nil => intro ts h; exact h
    | cons d ds ih =>
      intro ts h
      simp only [List.foldl_cons]
      split
      · exact ih ts h
      · exact ih _ (by simp)
  cases dest with
  | nil => rfl
  | cons d ds => exact absurd (by simpa [targetsOf] using h) (key ds [d.2] (by simp))

theorem mfind_spots (g : Group) (dest : List (Nat × Nat)) (l : Nat) :
    mfind l (g.spots dest) = (mfind l dest).map fun a => (a, (g.thread l).meet, (g.thread l).loops) := by
  induction dest with
  | nil => rfl
  | cons d ds ih =>
    simp only [Group.spots, List.map_cons, mfind] at ih ⊢
    by_cases h : d.1 = l
    · simp [h]
    · simp only [h]; exact ih

/-- Threads are sent to the addresses of the list, and no other thread moves (R144). -/
theorem send_moves (g : Group) (path : Nat) (dest : List (Nat × Nat))
    (hd : ∀ l, (mfind l dest).isSome → l < g.threads.length) :
    onlyPaths g (g.send path dest) ∧ ∀ l, ((g.send path dest).thread l).pc = (mfind l dest).getD (g.thread l).pc := by
  unfold Group.send
  dsimp only
  split
  · rename_i h
    obtain rfl : dest = [] := by simpa [Group.spots] using targets_nil h
    exact ⟨onlyPaths_refl g, fun l => rfl⟩
  · rename_i t0 ts _
    refine ⟨⟨rfl, by simp, fun l => ?_⟩, fun l => ?_⟩
    · refine Eq.subst (motive := fun b => sameThread (g.thread l) b) (thread_mapIdx g _ l).symm ?_
      split
      · rw [mfind_spots]; cases mfind l dest <;> rfl
      · rfl
    · refine Eq.trans (congrArg Thread.pc (thread_mapIdx g _ l)) ?_
      split
      · rw [mfind_spots]; cases mfind l dest <;> rfl
      · rename_i hl
        have : mfind l dest = none := by
          cases e : mfind l dest with
          | none => rfl
          | some v => exact absurd (hd l (by simp [e])) hl
        rw [this]; rfl

theorem mfind_map_lanes (lanes : List Nat) (f : Nat → Nat) (l : Nat) :
    mfind l (lanes.map fun l => (l, f l)) = if l ∈ lanes then some (f l) else none := by
  induction lanes with
  | nil => rfl
  | cons b ls ih =>
    simp only [List.map_cons, mfind, ih]
    by_cases h : b = l
    · subst h; simp
    · have : l ≠ b := fun e => h e.symm
      simp [h, this]

/-- Lanes that pass an instruction go on behind it or at the start of their loop (R155). -/
theorem pass_moves (g : Group) (path : Nat) (lanes : List Nat) (pc len : Nat)
    (hl : ∀ l ∈ lanes, l < g.threads.length) :
    onlyPaths g (g.pass path lanes pc len) ∧
      ∀ l, ((g.pass path lanes pc len).thread l).pc = if l ∈ lanes then (passLoop (g.thread l) pc len).1 else (g.thread l).pc := by
  have h0 : stays g (g.modThreads lanes fun t => { t with loops := (passLoop t pc len).2 }) :=
    stays_modThreads g lanes (fun t => { t with loops := (passLoop t pc len).2 }) fun t => ⟨rfl, rfl⟩
  have h1 := send_moves (g.modThreads lanes fun t => { t with loops := (passLoop t pc len).2 }) path
    (lanes.map fun l => (l, (passLoop (g.thread l) pc len).1)) (by
      intro l h
      rw [mfind_map_lanes] at h
      split at h
      · rename_i hm; rw [h0.1.2.1]; exact hl l hm
      · simp at h)
  refine ⟨onlyPaths_trans h0.1 h1.1, fun l => ?_⟩
  unfold Group.pass
  rw [h1.2 l, mfind_map_lanes, h0.2 l]
  split <;> rfl

/-! ## The past of registers -/

/-- What the bookkeeping of diverged paths leaves: all but its own fields (R72). -/
theorem notePast_rest (g old : Group) (lanes : List Nat) :
    sameRest g (g.notePast old lanes) ∧ Regs.same (regsOf (g.notePast old lanes)) (regsOf g) ∧
      (g.notePast old lanes).threads = g.threads := by
  unfold Group.notePast
  split <;> exact ⟨rfl, same_refl _, rfl⟩

theorem rest_onlyPaths {g u : Group} (h : onlyPaths g u) : sameRest g u ∧ Regs.same (regsOf u) (regsOf g) := by
  have e := h.1
  constructor
  · unfold sameRest; rw [e]
  · have : regsOf u = regsOf g := by rw [e]; rfl
    rw [this]; exact same_refl _

theorem thread_eq_of_threads {g u : Group} (h : u.threads = g.threads) (l : Nat) : u.thread l = g.thread l := by
  unfold Group.thread; rw [h]

end Sys2Proof.Laws
end

