-- ==== Sys2Proof/Laws/Issue.lean ====
section
/-!
SUPPORT. The issue of an instruction: where issueOf gives a path, the checks before the operation hand that path on; and
what the ends of an issue do to the state.
-/

namespace Sys2Proof.Laws

open Sys2Proof Sys2Proof.Machine Sys2Proof.Safety

/-! ## Teams and groups -/

/-- Does a state hold the group? -/
def hasGroup (s : State) (tid gnum : Nat) : Prop :=
  (mfind tid s.teams).isSome ∧ (mfind gnum (teamOf s tid).groups).isSome

theorem modTeam_teams (s : State) (tid : Nat) (f : Team → Team) : modTeam s tid f = { s with teams := mmod tid f s.teams } := rfl

theorem teamOf_modTeam (s : State) (tid k : Nat) (f : Team → Team) :
    teamOf (modTeam s tid f) k = if k = tid ∧ (mfind tid s.teams).isSome then f (teamOf s tid) else teamOf s k := by
  unfold teamOf modTeam
  simp only [mfind_mmod]
  by_cases h : k = tid
  · subst h; cases mfind k s.teams <;> simp
  · simp [h]

theorem groupAt_modGroup_self {s : State} {tid gnum : Nat} (f : Group → Group) (h : hasGroup s tid gnum) :
    groupAt (modGroup s tid gnum f) tid gnum = f (groupAt s tid gnum) := by
  unfold groupAt modGroup
  rw [teamOf_modTeam, if_pos ⟨rfl, h.1⟩]
  unfold Team.group
  simp only [mfind_mmod]
  have := h.2
  cases e : mfind gnum (teamOf s tid).groups with
  | none => simp [e] at this
  | some g => simp

theorem onlyGroup_modGroup {s : State} {tid gnum : Nat} (f : Group → Group) (h : hasGroup s tid gnum) :
    onlyGroup s (modGroup s tid gnum f) tid gnum := by
  refine ⟨rfl, fun k hk => ?_, ?_, fun g hg => ?_⟩
  · simp [modGroup, modTeam, mfind_mmod, hk]
  · unfold modGroup; rw [teamOf_modTeam, if_pos ⟨rfl, h.1⟩]
  · unfold modGroup; rw [teamOf_modTeam, if_pos ⟨rfl, h.1⟩]; simp [mfind_mmod, hg]

theorem hasGroup_modGroup {s : State} {tid gnum : Nat} (f : Group → Group) (h : hasGroup s tid gnum) :
    hasGroup (modGroup s tid gnum f) tid gnum := by
  constructor
  · have := h.1
    simp only [modGroup, modTeam, mfind_mmod]
    cases e : mfind tid s.teams <;> simp_all
  · unfold modGroup; rw [teamOf_modTeam, if_pos ⟨rfl, h.1⟩]
    have := h.2
    simp only [mfind_mmod]
    cases e : mfind gnum (teamOf s tid).groups <;> simp_all

/-! ## The issuing path -/

theorem pathLanes_spec {g : Group} {p l : Nat} (h : l ∈ g.pathLanes p) : l < 32 ∧ l < g.threads.length := by
  unfold Group.pathLanes at h
  simp only [List.mem_filter, List.mem_range] at h
  refine ⟨h.1, ?_⟩
  by_cases hl : l < g.threads.length
  · exact hl
  · exfalso
    have : g.thread l = { exited := true } := by
      unfold Group.thread; rw [List.getD_eq_getElem?_getD, List.getElem?_eq_none (by omega)]; rfl
    rw [this] at h
    simp at h

/-- What holds of a path that runOf gives. -/
structure Good (s : State) (r : Run) : Prop where
  state : r.s = s
  has : hasGroup s r.tid r.gnum
  team : teamOf s r.tid = r.t
  rest : sameRest (groupAt s r.tid r.gnum) r.g
  threads : r.g.threads = (groupAt s r.tid r.gnum).threads
  lanes : ∀ l ∈ r.lanes, l < 32 ∧ l < r.g.threads.length
  acts : ∀ l ∈ r.act, l ∈ r.lanes

theorem runOf_good {s : State} {r : Run} (h : runOf s = some r) : Good s r := by
  unfold runOf at h
  split at h
  · simp at h
  · rename_i a _
    split at h
    · simp at h
    · rename_i t ht
      split at h
      · simp at h
      · rename_i g hg
        split at h
        · simp at h
        · rename_i l ls hl
          simp only [Option.some.injEq] at h
          subst h
          have e1 : teamOf s a.team = t := by simp [teamOf, ht]
          have e2 : groupAt s a.team a.group = g := by simp [groupAt, e1, Team.group, hg]
          refine ⟨rfl, ⟨by simp [ht], by simp [e1, hg]⟩, e1, ?_, ?_, ?_, fun l h => h⟩
          · simp only [e2]; rfl
          · simp only [e2]; rfl
          · intro k hk
            exact pathLanes_spec (hl ▸ hk)

theorem guarded_sub {r : Run} {dom : Bool} {g : Option Guard} {act : List Nat} (h : r.guarded dom g = .active act) :
    ∀ l ∈ act, l ∈ r.lanes := by
  unfold Run.guarded at h
  split at h
  · cases h; exact fun _ h => h
  · split at h
    · split at h
      · simp at h
      · split at h
        · cases h; exact fun _ h => h
        · simp at h
    · split at h
      · simp at h
      · cases h; exact fun l hl => (List.mem_filter.1 hl).1

theorem hasAwaited_only (g : Group) (races : List TileRace) (i sq : Nat) :
    g.hasAwaited races i sq = { g with awaited := (g.hasAwaited races i sq).awaited } := by
  unfold Group.hasAwaited; split <;> rfl

/-- A blocking read changes the operations waited for alone (R263). -/
theorem awaits_only (r : Run) (ns : List Nat) : r.awaits ns = { r.g with awaited := (r.awaits ns).awaited } := by
  unfold Run.awaits
  generalize r.g.readS = rd
  generalize r.g = g
  induction ns generalizing g with
  | nil => rfl
  | cons n ns ih =>
    simp only [List.foldl_cons]
    rw [ih]
    split
    · rw [hasAwaited_only]
    · rfl

/-- The path that issueOf gives is the one that runOf gives, with its active lanes, its pending marks and the operations
it has waited for. -/
theorem issueOf_run {i : Instr} {s : State} {r : Run} (h : issueOf i s = some r) :
    ∃ q pend aw, runOf s = some q ∧ r = { q with act := r.act, g := { q.g with pend := pend, awaited := aw } } ∧
      ∀ l ∈ r.act, l ∈ q.lanes := by
  unfold issueOf at h
  split at h
  · rename_i q f hq hf
    split at h
    · simp at h
    · split at h
      · split at h
        · rename_i act hg
          dsimp only at h
          split at h
          · simp only [Option.some.injEq] at h
            refine ⟨q, _, _, hq, by rw [← h, Group.withoutPend, awaits_only], ?_⟩
            rw [← h]; exact guarded_sub hg
          · simp at h
        · simp at h
      · simp at h
  · simp at h

theorem issueOf_good {i : Instr} {s : State} {r : Run} (h : issueOf i s = some r) : Good s r := by
  obtain ⟨q, pend, aw, hq, hr, ha⟩ := issueOf_run h
  have g := runOf_good hq
  rw [hr]
  exact ⟨g.state, g.has, g.team, sameRest_trans g.rest rfl, g.threads, g.lanes, ha⟩

/-- Where issueOf gives a path, the checks before the operation hand it on. -/
theorem gate_issue {i : Instr} {s : State} {r : Run} (h : issueOf i s = some r) (k : Run → State) :
    gate i s k (extraReads i) (exemptReads s i) = k r := by
  unfold issueOf at h
  unfold gate
  split at h
  · rename_i q f hq hf
    try simp only [hq, hf]
    split at h
    · simp at h
    · rename_i row hrow
      try simp only [hrow]
      split at h
      · rename_i hc
        simp only [Bool.and_eq_true, Bool.not_eq_true', ] at hc
        obtain ⟨⟨⟨h1, h2⟩, h3⟩, h4⟩ := hc
        try simp only [h1, h2, h3, h4, Bool.not_true, Bool.false_eq_true, if_false]
        split at h
        · rename_i act hg
          try simp only [hg]
          dsimp only at h
          split at h
          · rename_i hp
            simp only [Bool.and_eq_true, Option.isNone_iff_eq_none] at hp
            simp only [Option.some.injEq] at h
            unfold waitsFor at hp h
            simp only [hp.1, hp.2]
            rw [h]
          · simp at h
        · simp at h
      · simp at h
  · simp at h

/-! ## Ends of an issue -/

/-- A path that passes its instruction in a state that holds its group. -/
theorem doneIn_passed {r : Run} {s : State} (g : Group) (hs : hasGroup s r.tid r.gnum)
    (hl : ∀ l ∈ r.lanes, l < g.threads.length) : passed r s (r.doneIn s g) g := by
  unfold Run.doneIn Run.put
  have e := groupAt_modGroup_self (s := s) (fun _ => (((((g.countIssue r.path).setWait r.path .none).pass r.path r.lanes r.pc
    r.len).settle).notePast (r.groupIn r.s) r.lanes)) hs
  refine ⟨onlyGroup_modGroup _ hs, ?_⟩
  rw [e]
  have a := stays_trans (stays_countIssue g r.path) (stays_setWait (g.countIssue r.path) r.path .none)
  have b := pass_moves ((g.countIssue r.path).setWait r.path .none) r.path r.lanes r.pc r.len
    (by rw [a.1.2.1]; exact hl)
  have c := stays_settle (((g.countIssue r.path).setWait r.path .none).pass r.path r.lanes r.pc r.len)
  have o := onlyPaths_trans a.1 (onlyPaths_trans b.1 c.1)
  have n := notePast_rest ((((g.countIssue r.path).setWait r.path .none).pass r.path r.lanes r.pc r.len).settle)
    (r.groupIn r.s) r.lanes
  have x := rest_onlyPaths o
  refine ⟨sameRest_trans x.1 n.1, same_trans n.2.1 x.2, fun l => ?_⟩
  rw [thread_eq_of_threads n.2.2]
  refine ⟨o.2.2 l, ?_⟩
  rw [c.2 l, b.2 l, a.2 l]
  rfl

/-- A path that sends its threads to addresses. -/
theorem goTo_sent {r : Run} {s : State} (g : Group) (dest : List (Nat × Nat)) (hs : hasGroup s r.tid r.gnum)
    (hd : ∀ l, (mfind l dest).isSome → l < g.threads.length) : sent r s (r.goTo s g dest) g dest := by
  unfold Run.goTo Run.put
  have e := groupAt_modGroup_self (s := s) (fun _ => ((((g.countIssue r.path).setWait r.path .none).send r.path dest).settle).notePast
    (r.groupIn r.s) r.lanes) hs
  refine ⟨onlyGroup_modGroup _ hs, ?_⟩
  rw [e]
  have a := stays_trans (stays_countIssue g r.path) (stays_setWait (g.countIssue r.path) r.path .none)
  have b := send_moves ((g.countIssue r.path).setWait r.path .none) r.path dest (by rw [a.1.2.1]; exact hd)
  have c := stays_settle (((g.countIssue r.path).setWait r.path .none).send r.path dest)
  have o := onlyPaths_trans a.1 (onlyPaths_trans b.1 c.1)
  have n := notePast_rest ((((g.countIssue r.path).setWait r.path .none).send r.path dest).settle) (r.groupIn r.s) r.lanes
  have x := rest_onlyPaths o
  refine ⟨sameRest_trans x.1 n.1, same_trans n.2.1 x.2, fun l => ?_⟩
  rw [thread_eq_of_threads n.2.2]
  refine ⟨o.2.2 l, ?_⟩
  rw [c.2 l, b.2 l, a.2 l]

/-- A path that waits. -/
theorem waitIn_waits {r : Run} {s : State} (w : Wait) (hs : hasGroup s r.tid r.gnum) : waits r s (r.waitIn s w) w := by
  unfold Run.waitIn Run.put
  exact ⟨onlyGroup_modGroup _ hs, by rw [groupAt_modGroup_self _ hs]; rfl⟩

/-! ## The forms of results -/

theorem wrote_done {s : State} {r : Run} (hr : Good s r) (g : Group) (regs : Regs) (h1 : sameRest r.g g)
    (h2 : g.threads = r.g.threads) (h3 : Regs.same (regsOf g) regs) : wrote r s (r.done g) regs := by
  refine ⟨g, ?_, h1, h2, h3⟩
  unfold Run.done
  rw [hr.state]
  exact doneIn_passed g hr.has fun l hl => by rw [h2]; exact (hr.lanes l hl).2

/-- A result of each active lane (R69, R81). -/
theorem wrote_lanesV {s : State} {r : Run} (hr : Good s r) (a k : Nat) (f : Nat → PV Nat) :
    wrote r s (r.lanesV a k f) ((regsOf r.g).putV r.act a k f) :=
  wrote_done hr _ _ (rest_putLanes r a k f).1 (rest_putLanes r a k f).2
    (regs_putLanes r a k f fun l hl => (hr.lanes l (hr.acts l hl)).1)

/-- A predicate of each active lane. -/
theorem wrote_lanesP {s : State} {r : Run} (hr : Good s r) (a : Nat) (f : Nat → PV Bool) :
    wrote r s (r.lanesP a f) ((regsOf r.g).putP r.act a f) :=
  wrote_done hr _ _ (rest_putPreds r a f).1 (rest_putPreds r a f).2
    (regs_putPreds r a f fun l hl => (hr.lanes l (hr.acts l hl)).1)

/-- A result written once in an s-register. -/
theorem wrote_writeS {s : State} {r : Run} (hr : Good s r) (a : Nat) (x : PV Nat) :
    wrote r s (r.done (r.g.writeS a x)) ((regsOf r.g).putS a x) :=
  wrote_done hr _ _ rfl rfl (regs_writeS r.g a x)

/-- A truth value written once in a q-register. -/
theorem wrote_setQ {s : State} {r : Run} (hr : Good s r) (a : Nat) (x : PV Bool) :
    wrote r s (r.done (r.g.setQ a x)) ((regsOf r.g).putQ a x) :=
  wrote_done hr _ _ rfl rfl (regs_setQ r.g a x)

/-- A result of an L-word with a uniform destination: once, and only if a lane is active (R70). -/
theorem wrote_onceS {s : State} {r : Run} (hr : Good s r) (a : Nat) (x : PV Nat) :
    wrote r s (r.onceS a x) (if r.act.isEmpty then regsOf r.g else (regsOf r.g).putS a x) := by
  unfold Run.onceS
  split
  · exact wrote_done hr _ _ rfl rfl (same_refl _)
  · exact wrote_writeS hr a x

/-- A path that passes its instruction and leaves its registers alone. -/
theorem wrote_nothing {s : State} {r : Run} (hr : Good s r) : wrote r s (r.done r.g) (regsOf r.g) :=
  wrote_done hr _ _ rfl rfl (same_refl _)

end Sys2Proof.Laws
end

