-- ==== Sys2Proof/Laws/State.lean ====
section
/-!
SUPPORT. What the named updates of the state, and of a group, leave: one lemma for every other field, true by definition.
-/

namespace Sys2Proof.Laws

open Sys2Proof Sys2Proof.Machine

/-! ## setTeam -/

@[simp] theorem setTeam_mem (s : State) (k : Nat) (t : Team) : (setTeam s k t).mem = s.mem := rfl
@[simp] theorem setTeam_marked (s : State) (k : Nat) (t : Team) : (setTeam s k t).marked = s.marked := rfl
@[simp] theorem setTeam_flaws (s : State) (k : Nat) (t : Team) : (setTeam s k t).flaws = s.flaws := rfl
@[simp] theorem setTeam_remote (s : State) (k : Nat) (t : Team) : (setTeam s k t).remote = s.remote := rfl
@[simp] theorem setTeam_peerMarks (s : State) (k : Nat) (t : Team) : (setTeam s k t).peerMarks = s.peerMarks := rfl
@[simp] theorem setTeam_peerWrites (s : State) (k : Nat) (t : Team) : (setTeam s k t).peerWrites = s.peerWrites := rfl
@[simp] theorem setTeam_devLog (s : State) (k : Nat) (t : Team) : (setTeam s k t).devLog = s.devLog := rfl
@[simp] theorem setTeam_l1 (s : State) (k : Nat) (t : Team) : (setTeam s k t).l1 = s.l1 := rfl
@[simp] theorem setTeam_sets (s : State) (k : Nat) (t : Team) : (setTeam s k t).sets = s.sets := rfl
@[simp] theorem setTeam_past (s : State) (k : Nat) (t : Team) : (setTeam s k t).past = s.past := rfl
@[simp] theorem setTeam_surfPast (s : State) (k : Nat) (t : Team) : (setTeam s k t).surfPast = s.surfPast := rfl
@[simp] theorem setTeam_olds (s : State) (k : Nat) (t : Team) : (setTeam s k t).olds = s.olds := rfl
@[simp] theorem setTeam_requests (s : State) (k : Nat) (t : Team) : (setTeam s k t).requests = s.requests := rfl
@[simp] theorem setTeam_responses (s : State) (k : Nat) (t : Team) : (setTeam s k t).responses = s.responses := rfl
@[simp] theorem setTeam_snoops (s : State) (k : Nat) (t : Team) : (setTeam s k t).snoops = s.snoops := rfl
@[simp] theorem setTeam_reports (s : State) (k : Nat) (t : Team) : (setTeam s k t).reports = s.reports := rfl
@[simp] theorem setTeam_ctx (s : State) (k : Nat) (t : Team) : (setTeam s k t).ctx = s.ctx := rfl
@[simp] theorem setTeam_ctxOps (s : State) (k : Nat) (t : Team) : (setTeam s k t).ctxOps = s.ctxOps := rfl
@[simp] theorem setTeam_ctl (s : State) (k : Nat) (t : Team) : (setTeam s k t).ctl = s.ctl := rfl
@[simp] theorem setTeam_lit (s : State) (k : Nat) (t : Team) : (setTeam s k t).lit = s.lit := rfl
@[simp] theorem setTeam_updates (s : State) (k : Nat) (t : Team) : (setTeam s k t).updates = s.updates := rfl
@[simp] theorem setTeam_acl (s : State) (k : Nat) (t : Team) : (setTeam s k t).acl = s.acl := rfl
@[simp] theorem setTeam_denials (s : State) (k : Nat) (t : Team) : (setTeam s k t).denials = s.denials := rfl
@[simp] theorem setTeam_denialNext (s : State) (k : Nat) (t : Team) : (setTeam s k t).denialNext = s.denialNext := rfl
@[simp] theorem setTeam_denialCount (s : State) (k : Nat) (t : Team) : (setTeam s k t).denialCount = s.denialCount := rfl
@[simp] theorem setTeam_orphans (s : State) (k : Nat) (t : Team) : (setTeam s k t).orphans = s.orphans := rfl
@[simp] theorem setTeam_ids (s : State) (k : Nat) (t : Team) : (setTeam s k t).ids = s.ids := rfl
@[simp] theorem setTeam_tlb (s : State) (k : Nat) (t : Team) : (setTeam s k t).tlb = s.tlb := rfl
@[simp] theorem setTeam_nonLeaf (s : State) (k : Nat) (t : Team) : (setTeam s k t).nonLeaf = s.nonLeaf := rfl
@[simp] theorem setTeam_walks (s : State) (k : Nat) (t : Team) : (setTeam s k t).walks = s.walks := rfl
@[simp] theorem setTeam_faultq (s : State) (k : Nat) (t : Team) : (setTeam s k t).faultq = s.faultq := rfl
@[simp] theorem setTeam_notices (s : State) (k : Nat) (t : Team) : (setTeam s k t).notices = s.notices := rfl
@[simp] theorem setTeam_copies (s : State) (k : Nat) (t : Team) : (setTeam s k t).copies = s.copies := rfl
@[simp] theorem setTeam_mxops (s : State) (k : Nat) (t : Team) : (setTeam s k t).mxops = s.mxops := rfl
@[simp] theorem setTeam_notifs (s : State) (k : Nat) (t : Team) : (setTeam s k t).notifs = s.notifs := rfl
@[simp] theorem setTeam_queue (s : State) (k : Nat) (t : Team) : (setTeam s k t).queue = s.queue := rfl
@[simp] theorem setTeam_insts (s : State) (k : Nat) (t : Team) : (setTeam s k t).insts = s.insts := rfl
@[simp] theorem setTeam_decs (s : State) (k : Nat) (t : Team) : (setTeam s k t).decs = s.decs := rfl
@[simp] theorem setTeam_pushes (s : State) (k : Nat) (t : Team) : (setTeam s k t).pushes = s.pushes := rfl
@[simp] theorem setTeam_raster (s : State) (k : Nat) (t : Team) : (setTeam s k t).raster = s.raster := rfl
@[simp] theorem setTeam_closed (s : State) (k : Nat) (t : Team) : (setTeam s k t).closed = s.closed := rfl
@[simp] theorem setTeam_texops (s : State) (k : Nat) (t : Team) : (setTeam s k t).texops = s.texops := rfl
@[simp] theorem setTeam_sfops (s : State) (k : Nat) (t : Team) : (setTeam s k t).sfops = s.sfops := rfl
@[simp] theorem setTeam_evicts (s : State) (k : Nat) (t : Team) : (setTeam s k t).evicts = s.evicts := rfl
@[simp] theorem setTeam_colGroups (s : State) (k : Nat) (t : Team) : (setTeam s k t).colGroups = s.colGroups := rfl
@[simp] theorem setTeam_colls (s : State) (k : Nat) (t : Team) : (setTeam s k t).colls = s.colls := rfl
@[simp] theorem setTeam_relaunches (s : State) (k : Nat) (t : Team) : (setTeam s k t).relaunches = s.relaunches := rfl
@[simp] theorem setTeam_slots (s : State) (k : Nat) (t : Team) : (setTeam s k t).slots = s.slots := rfl
@[simp] theorem setTeam_cores (s : State) (k : Nat) (t : Team) : (setTeam s k t).cores = s.cores := rfl
@[simp] theorem setTeam_dies (s : State) (k : Nat) (t : Team) : (setTeam s k t).dies = s.dies := rfl
@[simp] theorem setTeam_surf (s : State) (k : Nat) (t : Team) : (setTeam s k t).surf = s.surf := rfl
@[simp] theorem setTeam_surfBad (s : State) (k : Nat) (t : Team) : (setTeam s k t).surfBad = s.surfBad := rfl
@[simp] theorem setTeam_tiles (s : State) (k : Nat) (t : Team) : (setTeam s k t).tiles = s.tiles := rfl
@[simp] theorem setTeam_ports (s : State) (k : Nat) (t : Team) : (setTeam s k t).ports = s.ports := rfl
@[simp] theorem setTeam_elog (s : State) (k : Nat) (t : Team) : (setTeam s k t).elog = s.elog := rfl
@[simp] theorem setTeam_fwNotes (s : State) (k : Nat) (t : Team) : (setTeam s k t).fwNotes = s.fwNotes := rfl
@[simp] theorem setTeam_mortarOut (s : State) (k : Nat) (t : Team) : (setTeam s k t).mortarOut = s.mortarOut := rfl
@[simp] theorem setTeam_clocks (s : State) (k : Nat) (t : Team) : (setTeam s k t).clocks = s.clocks := rfl
@[simp] theorem setTeam_gnodes (s : State) (k : Nat) (t : Team) : (setTeam s k t).gnodes = s.gnodes := rfl
@[simp] theorem setTeam_hostLine (s : State) (k : Nat) (t : Team) : (setTeam s k t).hostLine = s.hostLine := rfl
@[simp] theorem setTeam_replies (s : State) (k : Nat) (t : Team) : (setTeam s k t).replies = s.replies := rfl
@[simp] theorem setTeam_flash (s : State) (k : Nat) (t : Team) : (setTeam s k t).flash = s.flash := rfl
@[simp] theorem setTeam_nextId (s : State) (k : Nat) (t : Team) : (setTeam s k t).nextId = s.nextId := rfl
@[simp] theorem setTeam_irqs (s : State) (k : Nat) (t : Team) : (setTeam s k t).irqs = s.irqs := rfl
@[simp] theorem setTeam_tick (s : State) (k : Nat) (t : Team) : (setTeam s k t).tick = s.tick := rfl
@[simp] theorem setTeam_inbox (s : State) (k : Nat) (t : Team) : (setTeam s k t).inbox = s.inbox := rfl
@[simp] theorem setTeam_at_ (s : State) (k : Nat) (t : Team) : (setTeam s k t).at_ = s.at_ := rfl

/-! ## modTeam -/

@[simp] theorem modTeam_mem (s : State) (k : Nat) (f : Team → Team) : (modTeam s k f).mem = s.mem := rfl
@[simp] theorem modTeam_marked (s : State) (k : Nat) (f : Team → Team) : (modTeam s k f).marked = s.marked := rfl
@[simp] theorem modTeam_flaws (s : State) (k : Nat) (f : Team → Team) : (modTeam s k f).flaws = s.flaws := rfl
@[simp] theorem modTeam_remote (s : State) (k : Nat) (f : Team → Team) : (modTeam s k f).remote = s.remote := rfl
@[simp] theorem modTeam_peerMarks (s : State) (k : Nat) (f : Team → Team) : (modTeam s k f).peerMarks = s.peerMarks := rfl
@[simp] theorem modTeam_peerWrites (s : State) (k : Nat) (f : Team → Team) : (modTeam s k f).peerWrites = s.peerWrites := rfl
@[simp] theorem modTeam_devLog (s : State) (k : Nat) (f : Team → Team) : (modTeam s k f).devLog = s.devLog := rfl
@[simp] theorem modTeam_l1 (s : State) (k : Nat) (f : Team → Team) : (modTeam s k f).l1 = s.l1 := rfl
@[simp] theorem modTeam_sets (s : State) (k : Nat) (f : Team → Team) : (modTeam s k f).sets = s.sets := rfl
@[simp] theorem modTeam_past (s : State) (k : Nat) (f : Team → Team) : (modTeam s k f).past = s.past := rfl
@[simp] theorem modTeam_surfPast (s : State) (k : Nat) (f : Team → Team) : (modTeam s k f).surfPast = s.surfPast := rfl
@[simp] theorem modTeam_olds (s : State) (k : Nat) (f : Team → Team) : (modTeam s k f).olds = s.olds := rfl
@[simp] theorem modTeam_requests (s : State) (k : Nat) (f : Team → Team) : (modTeam s k f).requests = s.requests := rfl
@[simp] theorem modTeam_responses (s : State) (k : Nat) (f : Team → Team) : (modTeam s k f).responses = s.responses := rfl
@[simp] theorem modTeam_snoops (s : State) (k : Nat) (f : Team → Team) : (modTeam s k f).snoops = s.snoops := rfl
@[simp] theorem modTeam_reports (s : State) (k : Nat) (f : Team → Team) : (modTeam s k f).reports = s.reports := rfl
@[simp] theorem modTeam_ctx (s : State) (k : Nat) (f : Team → Team) : (modTeam s k f).ctx = s.ctx := rfl
@[simp] theorem modTeam_ctxOps (s : State) (k : Nat) (f : Team → Team) : (modTeam s k f).ctxOps = s.ctxOps := rfl
@[simp] theorem modTeam_ctl (s : State) (k : Nat) (f : Team → Team) : (modTeam s k f).ctl = s.ctl := rfl
@[simp] theorem modTeam_lit (s : State) (k : Nat) (f : Team → Team) : (modTeam s k f).lit = s.lit := rfl
@[simp] theorem modTeam_updates (s : State) (k : Nat) (f : Team → Team) : (modTeam s k f).updates = s.updates := rfl
@[simp] theorem modTeam_acl (s : State) (k : Nat) (f : Team → Team) : (modTeam s k f).acl = s.acl := rfl
@[simp] theorem modTeam_denials (s : State) (k : Nat) (f : Team → Team) : (modTeam s k f).denials = s.denials := rfl
@[simp] theorem modTeam_denialNext (s : State) (k : Nat) (f : Team → Team) : (modTeam s k f).denialNext = s.denialNext := rfl
@[simp] theorem modTeam_denialCount (s : State) (k : Nat) (f : Team → Team) : (modTeam s k f).denialCount = s.denialCount := rfl
@[simp] theorem modTeam_orphans (s : State) (k : Nat) (f : Team → Team) : (modTeam s k f).orphans = s.orphans := rfl
@[simp] theorem modTeam_ids (s : State) (k : Nat) (f : Team → Team) : (modTeam s k f).ids = s.ids := rfl
@[simp] theorem modTeam_tlb (s : State) (k : Nat) (f : Team → Team) : (modTeam s k f).tlb = s.tlb := rfl
@[simp] theorem modTeam_nonLeaf (s : State) (k : Nat) (f : Team → Team) : (modTeam s k f).nonLeaf = s.nonLeaf := rfl
@[simp] theorem modTeam_walks (s : State) (k : Nat) (f : Team → Team) : (modTeam s k f).walks = s.walks := rfl
@[simp] theorem modTeam_faultq (s : State) (k : Nat) (f : Team → Team) : (modTeam s k f).faultq = s.faultq := rfl
@[simp] theorem modTeam_notices (s : State) (k : Nat) (f : Team → Team) : (modTeam s k f).notices = s.notices := rfl
@[simp] theorem modTeam_copies (s : State) (k : Nat) (f : Team → Team) : (modTeam s k f).copies = s.copies := rfl
@[simp] theorem modTeam_mxops (s : State) (k : Nat) (f : Team → Team) : (modTeam s k f).mxops = s.mxops := rfl
@[simp] theorem modTeam_notifs (s : State) (k : Nat) (f : Team → Team) : (modTeam s k f).notifs = s.notifs := rfl
@[simp] theorem modTeam_queue (s : State) (k : Nat) (f : Team → Team) : (modTeam s k f).queue = s.queue := rfl
@[simp] theorem modTeam_insts (s : State) (k : Nat) (f : Team → Team) : (modTeam s k f).insts = s.insts := rfl
@[simp] theorem modTeam_decs (s : State) (k : Nat) (f : Team → Team) : (modTeam s k f).decs = s.decs := rfl
@[simp] theorem modTeam_pushes (s : State) (k : Nat) (f : Team → Team) : (modTeam s k f).pushes = s.pushes := rfl
@[simp] theorem modTeam_raster (s : State) (k : Nat) (f : Team → Team) : (modTeam s k f).raster = s.raster := rfl
@[simp] theorem modTeam_closed (s : State) (k : Nat) (f : Team → Team) : (modTeam s k f).closed = s.closed := rfl
@[simp] theorem modTeam_texops (s : State) (k : Nat) (f : Team → Team) : (modTeam s k f).texops = s.texops := rfl
@[simp] theorem modTeam_sfops (s : State) (k : Nat) (f : Team → Team) : (modTeam s k f).sfops = s.sfops := rfl
@[simp] theorem modTeam_evicts (s : State) (k : Nat) (f : Team → Team) : (modTeam s k f).evicts = s.evicts := rfl
@[simp] theorem modTeam_colGroups (s : State) (k : Nat) (f : Team → Team) : (modTeam s k f).colGroups = s.colGroups := rfl
@[simp] theorem modTeam_colls (s : State) (k : Nat) (f : Team → Team) : (modTeam s k f).colls = s.colls := rfl
@[simp] theorem modTeam_relaunches (s : State) (k : Nat) (f : Team → Team) : (modTeam s k f).relaunches = s.relaunches := rfl
@[simp] theorem modTeam_slots (s : State) (k : Nat) (f : Team → Team) : (modTeam s k f).slots = s.slots := rfl
@[simp] theorem modTeam_cores (s : State) (k : Nat) (f : Team → Team) : (modTeam s k f).cores = s.cores := rfl
@[simp] theorem modTeam_dies (s : State) (k : Nat) (f : Team → Team) : (modTeam s k f).dies = s.dies := rfl
@[simp] theorem modTeam_surf (s : State) (k : Nat) (f : Team → Team) : (modTeam s k f).surf = s.surf := rfl
@[simp] theorem modTeam_surfBad (s : State) (k : Nat) (f : Team → Team) : (modTeam s k f).surfBad = s.surfBad := rfl
@[simp] theorem modTeam_tiles (s : State) (k : Nat) (f : Team → Team) : (modTeam s k f).tiles = s.tiles := rfl
@[simp] theorem modTeam_ports (s : State) (k : Nat) (f : Team → Team) : (modTeam s k f).ports = s.ports := rfl
@[simp] theorem modTeam_elog (s : State) (k : Nat) (f : Team → Team) : (modTeam s k f).elog = s.elog := rfl
@[simp] theorem modTeam_fwNotes (s : State) (k : Nat) (f : Team → Team) : (modTeam s k f).fwNotes = s.fwNotes := rfl
@[simp] theorem modTeam_mortarOut (s : State) (k : Nat) (f : Team → Team) : (modTeam s k f).mortarOut = s.mortarOut := rfl
@[simp] theorem modTeam_clocks (s : State) (k : Nat) (f : Team → Team) : (modTeam s k f).clocks = s.clocks := rfl
@[simp] theorem modTeam_gnodes (s : State) (k : Nat) (f : Team → Team) : (modTeam s k f).gnodes = s.gnodes := rfl
@[simp] theorem modTeam_hostLine (s : State) (k : Nat) (f : Team → Team) : (modTeam s k f).hostLine = s.hostLine := rfl
@[simp] theorem modTeam_replies (s : State) (k : Nat) (f : Team → Team) : (modTeam s k f).replies = s.replies := rfl
@[simp] theorem modTeam_flash (s : State) (k : Nat) (f : Team → Team) : (modTeam s k f).flash = s.flash := rfl
@[simp] theorem modTeam_nextId (s : State) (k : Nat) (f : Team → Team) : (modTeam s k f).nextId = s.nextId := rfl
@[simp] theorem modTeam_irqs (s : State) (k : Nat) (f : Team → Team) : (modTeam s k f).irqs = s.irqs := rfl
@[simp] theorem modTeam_tick (s : State) (k : Nat) (f : Team → Team) : (modTeam s k f).tick = s.tick := rfl
@[simp] theorem modTeam_inbox (s : State) (k : Nat) (f : Team → Team) : (modTeam s k f).inbox = s.inbox := rfl
@[simp] theorem modTeam_at_ (s : State) (k : Nat) (f : Team → Team) : (modTeam s k f).at_ = s.at_ := rfl

/-! ## modGroup -/

@[simp] theorem modGroup_mem (s : State) (k g : Nat) (f : Group → Group) : (modGroup s k g f).mem = s.mem := rfl
@[simp] theorem modGroup_marked (s : State) (k g : Nat) (f : Group → Group) : (modGroup s k g f).marked = s.marked := rfl
@[simp] theorem modGroup_flaws (s : State) (k g : Nat) (f : Group → Group) : (modGroup s k g f).flaws = s.flaws := rfl
@[simp] theorem modGroup_remote (s : State) (k g : Nat) (f : Group → Group) : (modGroup s k g f).remote = s.remote := rfl
@[simp] theorem modGroup_peerMarks (s : State) (k g : Nat) (f : Group → Group) : (modGroup s k g f).peerMarks = s.peerMarks := rfl
@[simp] theorem modGroup_peerWrites (s : State) (k g : Nat) (f : Group → Group) : (modGroup s k g f).peerWrites = s.peerWrites := rfl
@[simp] theorem modGroup_devLog (s : State) (k g : Nat) (f : Group → Group) : (modGroup s k g f).devLog = s.devLog := rfl
@[simp] theorem modGroup_l1 (s : State) (k g : Nat) (f : Group → Group) : (modGroup s k g f).l1 = s.l1 := rfl
@[simp] theorem modGroup_sets (s : State) (k g : Nat) (f : Group → Group) : (modGroup s k g f).sets = s.sets := rfl
@[simp] theorem modGroup_past (s : State) (k g : Nat) (f : Group → Group) : (modGroup s k g f).past = s.past := rfl
@[simp] theorem modGroup_surfPast (s : State) (k g : Nat) (f : Group → Group) : (modGroup s k g f).surfPast = s.surfPast := rfl
@[simp] theorem modGroup_olds (s : State) (k g : Nat) (f : Group → Group) : (modGroup s k g f).olds = s.olds := rfl
@[simp] theorem modGroup_requests (s : State) (k g : Nat) (f : Group → Group) : (modGroup s k g f).requests = s.requests := rfl
@[simp] theorem modGroup_responses (s : State) (k g : Nat) (f : Group → Group) : (modGroup s k g f).responses = s.responses := rfl
@[simp] theorem modGroup_snoops (s : State) (k g : Nat) (f : Group → Group) : (modGroup s k g f).snoops = s.snoops := rfl
@[simp] theorem modGroup_reports (s : State) (k g : Nat) (f : Group → Group) : (modGroup s k g f).reports = s.reports := rfl
@[simp] theorem modGroup_ctx (s : State) (k g : Nat) (f : Group → Group) : (modGroup s k g f).ctx = s.ctx := rfl
@[simp] theorem modGroup_ctxOps (s : State) (k g : Nat) (f : Group → Group) : (modGroup s k g f).ctxOps = s.ctxOps := rfl
@[simp] theorem modGroup_ctl (s : State) (k g : Nat) (f : Group → Group) : (modGroup s k g f).ctl = s.ctl := rfl
@[simp] theorem modGroup_lit (s : State) (k g : Nat) (f : Group → Group) : (modGroup s k g f).lit = s.lit := rfl
@[simp] theorem modGroup_updates (s : State) (k g : Nat) (f : Group → Group) : (modGroup s k g f).updates = s.updates := rfl
@[simp] theorem modGroup_acl (s : State) (k g : Nat) (f : Group → Group) : (modGroup s k g f).acl = s.acl := rfl
@[simp] theorem modGroup_denials (s : State) (k g : Nat) (f : Group → Group) : (modGroup s k g f).denials = s.denials := rfl
@[simp] theorem modGroup_denialNext (s : State) (k g : Nat) (f : Group → Group) : (modGroup s k g f).denialNext = s.denialNext := rfl
@[simp] theorem modGroup_denialCount (s : State) (k g : Nat) (f : Group → Group) : (modGroup s k g f).denialCount = s.denialCount := rfl
@[simp] theorem modGroup_orphans (s : State) (k g : Nat) (f : Group → Group) : (modGroup s k g f).orphans = s.orphans := rfl
@[simp] theorem modGroup_ids (s : State) (k g : Nat) (f : Group → Group) : (modGroup s k g f).ids = s.ids := rfl
@[simp] theorem modGroup_tlb (s : State) (k g : Nat) (f : Group → Group) : (modGroup s k g f).tlb = s.tlb := rfl
@[simp] theorem modGroup_nonLeaf (s : State) (k g : Nat) (f : Group → Group) : (modGroup s k g f).nonLeaf = s.nonLeaf := rfl
@[simp] theorem modGroup_walks (s : State) (k g : Nat) (f : Group → Group) : (modGroup s k g f).walks = s.walks := rfl
@[simp] theorem modGroup_faultq (s : State) (k g : Nat) (f : Group → Group) : (modGroup s k g f).faultq = s.faultq := rfl
@[simp] theorem modGroup_notices (s : State) (k g : Nat) (f : Group → Group) : (modGroup s k g f).notices = s.notices := rfl
@[simp] theorem modGroup_copies (s : State) (k g : Nat) (f : Group → Group) : (modGroup s k g f).copies = s.copies := rfl
@[simp] theorem modGroup_mxops (s : State) (k g : Nat) (f : Group → Group) : (modGroup s k g f).mxops = s.mxops := rfl
@[simp] theorem modGroup_notifs (s : State) (k g : Nat) (f : Group → Group) : (modGroup s k g f).notifs = s.notifs := rfl
@[simp] theorem modGroup_queue (s : State) (k g : Nat) (f : Group → Group) : (modGroup s k g f).queue = s.queue := rfl
@[simp] theorem modGroup_insts (s : State) (k g : Nat) (f : Group → Group) : (modGroup s k g f).insts = s.insts := rfl
@[simp] theorem modGroup_decs (s : State) (k g : Nat) (f : Group → Group) : (modGroup s k g f).decs = s.decs := rfl
@[simp] theorem modGroup_pushes (s : State) (k g : Nat) (f : Group → Group) : (modGroup s k g f).pushes = s.pushes := rfl
@[simp] theorem modGroup_raster (s : State) (k g : Nat) (f : Group → Group) : (modGroup s k g f).raster = s.raster := rfl
@[simp] theorem modGroup_closed (s : State) (k g : Nat) (f : Group → Group) : (modGroup s k g f).closed = s.closed := rfl
@[simp] theorem modGroup_texops (s : State) (k g : Nat) (f : Group → Group) : (modGroup s k g f).texops = s.texops := rfl
@[simp] theorem modGroup_sfops (s : State) (k g : Nat) (f : Group → Group) : (modGroup s k g f).sfops = s.sfops := rfl
@[simp] theorem modGroup_evicts (s : State) (k g : Nat) (f : Group → Group) : (modGroup s k g f).evicts = s.evicts := rfl
@[simp] theorem modGroup_colGroups (s : State) (k g : Nat) (f : Group → Group) : (modGroup s k g f).colGroups = s.colGroups := rfl
@[simp] theorem modGroup_colls (s : State) (k g : Nat) (f : Group → Group) : (modGroup s k g f).colls = s.colls := rfl
@[simp] theorem modGroup_relaunches (s : State) (k g : Nat) (f : Group → Group) : (modGroup s k g f).relaunches = s.relaunches := rfl
@[simp] theorem modGroup_slots (s : State) (k g : Nat) (f : Group → Group) : (modGroup s k g f).slots = s.slots := rfl
@[simp] theorem modGroup_cores (s : State) (k g : Nat) (f : Group → Group) : (modGroup s k g f).cores = s.cores := rfl
@[simp] theorem modGroup_dies (s : State) (k g : Nat) (f : Group → Group) : (modGroup s k g f).dies = s.dies := rfl
@[simp] theorem modGroup_surf (s : State) (k g : Nat) (f : Group → Group) : (modGroup s k g f).surf = s.surf := rfl
@[simp] theorem modGroup_surfBad (s : State) (k g : Nat) (f : Group → Group) : (modGroup s k g f).surfBad = s.surfBad := rfl
@[simp] theorem modGroup_tiles (s : State) (k g : Nat) (f : Group → Group) : (modGroup s k g f).tiles = s.tiles := rfl
@[simp] theorem modGroup_ports (s : State) (k g : Nat) (f : Group → Group) : (modGroup s k g f).ports = s.ports := rfl
@[simp] theorem modGroup_elog (s : State) (k g : Nat) (f : Group → Group) : (modGroup s k g f).elog = s.elog := rfl
@[simp] theorem modGroup_fwNotes (s : State) (k g : Nat) (f : Group → Group) : (modGroup s k g f).fwNotes = s.fwNotes := rfl
@[simp] theorem modGroup_mortarOut (s : State) (k g : Nat) (f : Group → Group) : (modGroup s k g f).mortarOut = s.mortarOut := rfl
@[simp] theorem modGroup_clocks (s : State) (k g : Nat) (f : Group → Group) : (modGroup s k g f).clocks = s.clocks := rfl
@[simp] theorem modGroup_gnodes (s : State) (k g : Nat) (f : Group → Group) : (modGroup s k g f).gnodes = s.gnodes := rfl
@[simp] theorem modGroup_hostLine (s : State) (k g : Nat) (f : Group → Group) : (modGroup s k g f).hostLine = s.hostLine := rfl
@[simp] theorem modGroup_replies (s : State) (k g : Nat) (f : Group → Group) : (modGroup s k g f).replies = s.replies := rfl
@[simp] theorem modGroup_flash (s : State) (k g : Nat) (f : Group → Group) : (modGroup s k g f).flash = s.flash := rfl
@[simp] theorem modGroup_nextId (s : State) (k g : Nat) (f : Group → Group) : (modGroup s k g f).nextId = s.nextId := rfl
@[simp] theorem modGroup_irqs (s : State) (k g : Nat) (f : Group → Group) : (modGroup s k g f).irqs = s.irqs := rfl
@[simp] theorem modGroup_tick (s : State) (k g : Nat) (f : Group → Group) : (modGroup s k g f).tick = s.tick := rfl
@[simp] theorem modGroup_inbox (s : State) (k g : Nat) (f : Group → Group) : (modGroup s k g f).inbox = s.inbox := rfl
@[simp] theorem modGroup_at_ (s : State) (k g : Nat) (f : Group → Group) : (modGroup s k g f).at_ = s.at_ := rfl

/-! ## setScratch -/

@[simp] theorem setScratch_mem (s : State) (k o : Nat) (bs : List Byte) : (setScratch s k o bs).mem = s.mem := rfl
@[simp] theorem setScratch_marked (s : State) (k o : Nat) (bs : List Byte) : (setScratch s k o bs).marked = s.marked := rfl
@[simp] theorem setScratch_flaws (s : State) (k o : Nat) (bs : List Byte) : (setScratch s k o bs).flaws = s.flaws := rfl
@[simp] theorem setScratch_remote (s : State) (k o : Nat) (bs : List Byte) : (setScratch s k o bs).remote = s.remote := rfl
@[simp] theorem setScratch_peerMarks (s : State) (k o : Nat) (bs : List Byte) : (setScratch s k o bs).peerMarks = s.peerMarks := rfl
@[simp] theorem setScratch_peerWrites (s : State) (k o : Nat) (bs : List Byte) : (setScratch s k o bs).peerWrites = s.peerWrites := rfl
@[simp] theorem setScratch_devLog (s : State) (k o : Nat) (bs : List Byte) : (setScratch s k o bs).devLog = s.devLog := rfl
@[simp] theorem setScratch_l1 (s : State) (k o : Nat) (bs : List Byte) : (setScratch s k o bs).l1 = s.l1 := rfl
@[simp] theorem setScratch_sets (s : State) (k o : Nat) (bs : List Byte) : (setScratch s k o bs).sets = s.sets := rfl
@[simp] theorem setScratch_past (s : State) (k o : Nat) (bs : List Byte) : (setScratch s k o bs).past = s.past := rfl
@[simp] theorem setScratch_surfPast (s : State) (k o : Nat) (bs : List Byte) : (setScratch s k o bs).surfPast = s.surfPast := rfl
@[simp] theorem setScratch_olds (s : State) (k o : Nat) (bs : List Byte) : (setScratch s k o bs).olds = s.olds := rfl
@[simp] theorem setScratch_requests (s : State) (k o : Nat) (bs : List Byte) : (setScratch s k o bs).requests = s.requests := rfl
@[simp] theorem setScratch_responses (s : State) (k o : Nat) (bs : List Byte) : (setScratch s k o bs).responses = s.responses := rfl
@[simp] theorem setScratch_snoops (s : State) (k o : Nat) (bs : List Byte) : (setScratch s k o bs).snoops = s.snoops := rfl
@[simp] theorem setScratch_reports (s : State) (k o : Nat) (bs : List Byte) : (setScratch s k o bs).reports = s.reports := rfl
@[simp] theorem setScratch_ctx (s : State) (k o : Nat) (bs : List Byte) : (setScratch s k o bs).ctx = s.ctx := rfl
@[simp] theorem setScratch_ctxOps (s : State) (k o : Nat) (bs : List Byte) : (setScratch s k o bs).ctxOps = s.ctxOps := rfl
@[simp] theorem setScratch_ctl (s : State) (k o : Nat) (bs : List Byte) : (setScratch s k o bs).ctl = s.ctl := rfl
@[simp] theorem setScratch_lit (s : State) (k o : Nat) (bs : List Byte) : (setScratch s k o bs).lit = s.lit := rfl
@[simp] theorem setScratch_updates (s : State) (k o : Nat) (bs : List Byte) : (setScratch s k o bs).updates = s.updates := rfl
@[simp] theorem setScratch_acl (s : State) (k o : Nat) (bs : List Byte) : (setScratch s k o bs).acl = s.acl := rfl
@[simp] theorem setScratch_denials (s : State) (k o : Nat) (bs : List Byte) : (setScratch s k o bs).denials = s.denials := rfl
@[simp] theorem setScratch_denialNext (s : State) (k o : Nat) (bs : List Byte) : (setScratch s k o bs).denialNext = s.denialNext := rfl
@[simp] theorem setScratch_denialCount (s : State) (k o : Nat) (bs : List Byte) : (setScratch s k o bs).denialCount = s.denialCount := rfl
@[simp] theorem setScratch_orphans (s : State) (k o : Nat) (bs : List Byte) : (setScratch s k o bs).orphans = s.orphans := rfl
@[simp] theorem setScratch_ids (s : State) (k o : Nat) (bs : List Byte) : (setScratch s k o bs).ids = s.ids := rfl
@[simp] theorem setScratch_tlb (s : State) (k o : Nat) (bs : List Byte) : (setScratch s k o bs).tlb = s.tlb := rfl
@[simp] theorem setScratch_nonLeaf (s : State) (k o : Nat) (bs : List Byte) : (setScratch s k o bs).nonLeaf = s.nonLeaf := rfl
@[simp] theorem setScratch_walks (s : State) (k o : Nat) (bs : List Byte) : (setScratch s k o bs).walks = s.walks := rfl
@[simp] theorem setScratch_faultq (s : State) (k o : Nat) (bs : List Byte) : (setScratch s k o bs).faultq = s.faultq := rfl
@[simp] theorem setScratch_notices (s : State) (k o : Nat) (bs : List Byte) : (setScratch s k o bs).notices = s.notices := rfl
@[simp] theorem setScratch_copies (s : State) (k o : Nat) (bs : List Byte) : (setScratch s k o bs).copies = s.copies := rfl
@[simp] theorem setScratch_mxops (s : State) (k o : Nat) (bs : List Byte) : (setScratch s k o bs).mxops = s.mxops := rfl
@[simp] theorem setScratch_notifs (s : State) (k o : Nat) (bs : List Byte) : (setScratch s k o bs).notifs = s.notifs := rfl
@[simp] theorem setScratch_queue (s : State) (k o : Nat) (bs : List Byte) : (setScratch s k o bs).queue = s.queue := rfl
@[simp] theorem setScratch_insts (s : State) (k o : Nat) (bs : List Byte) : (setScratch s k o bs).insts = s.insts := rfl
@[simp] theorem setScratch_decs (s : State) (k o : Nat) (bs : List Byte) : (setScratch s k o bs).decs = s.decs := rfl
@[simp] theorem setScratch_pushes (s : State) (k o : Nat) (bs : List Byte) : (setScratch s k o bs).pushes = s.pushes := rfl
@[simp] theorem setScratch_raster (s : State) (k o : Nat) (bs : List Byte) : (setScratch s k o bs).raster = s.raster := rfl
@[simp] theorem setScratch_closed (s : State) (k o : Nat) (bs : List Byte) : (setScratch s k o bs).closed = s.closed := rfl
@[simp] theorem setScratch_texops (s : State) (k o : Nat) (bs : List Byte) : (setScratch s k o bs).texops = s.texops := rfl
@[simp] theorem setScratch_sfops (s : State) (k o : Nat) (bs : List Byte) : (setScratch s k o bs).sfops = s.sfops := rfl
@[simp] theorem setScratch_evicts (s : State) (k o : Nat) (bs : List Byte) : (setScratch s k o bs).evicts = s.evicts := rfl
@[simp] theorem setScratch_colGroups (s : State) (k o : Nat) (bs : List Byte) : (setScratch s k o bs).colGroups = s.colGroups := rfl
@[simp] theorem setScratch_colls (s : State) (k o : Nat) (bs : List Byte) : (setScratch s k o bs).colls = s.colls := rfl
@[simp] theorem setScratch_relaunches (s : State) (k o : Nat) (bs : List Byte) : (setScratch s k o bs).relaunches = s.relaunches := rfl
@[simp] theorem setScratch_slots (s : State) (k o : Nat) (bs : List Byte) : (setScratch s k o bs).slots = s.slots := rfl
@[simp] theorem setScratch_cores (s : State) (k o : Nat) (bs : List Byte) : (setScratch s k o bs).cores = s.cores := rfl
@[simp] theorem setScratch_dies (s : State) (k o : Nat) (bs : List Byte) : (setScratch s k o bs).dies = s.dies := rfl
@[simp] theorem setScratch_surf (s : State) (k o : Nat) (bs : List Byte) : (setScratch s k o bs).surf = s.surf := rfl
@[simp] theorem setScratch_surfBad (s : State) (k o : Nat) (bs : List Byte) : (setScratch s k o bs).surfBad = s.surfBad := rfl
@[simp] theorem setScratch_tiles (s : State) (k o : Nat) (bs : List Byte) : (setScratch s k o bs).tiles = s.tiles := rfl
@[simp] theorem setScratch_ports (s : State) (k o : Nat) (bs : List Byte) : (setScratch s k o bs).ports = s.ports := rfl
@[simp] theorem setScratch_elog (s : State) (k o : Nat) (bs : List Byte) : (setScratch s k o bs).elog = s.elog := rfl
@[simp] theorem setScratch_fwNotes (s : State) (k o : Nat) (bs : List Byte) : (setScratch s k o bs).fwNotes = s.fwNotes := rfl
@[simp] theorem setScratch_mortarOut (s : State) (k o : Nat) (bs : List Byte) : (setScratch s k o bs).mortarOut = s.mortarOut := rfl
@[simp] theorem setScratch_clocks (s : State) (k o : Nat) (bs : List Byte) : (setScratch s k o bs).clocks = s.clocks := rfl
@[simp] theorem setScratch_gnodes (s : State) (k o : Nat) (bs : List Byte) : (setScratch s k o bs).gnodes = s.gnodes := rfl
@[simp] theorem setScratch_hostLine (s : State) (k o : Nat) (bs : List Byte) : (setScratch s k o bs).hostLine = s.hostLine := rfl
@[simp] theorem setScratch_replies (s : State) (k o : Nat) (bs : List Byte) : (setScratch s k o bs).replies = s.replies := rfl
@[simp] theorem setScratch_flash (s : State) (k o : Nat) (bs : List Byte) : (setScratch s k o bs).flash = s.flash := rfl
@[simp] theorem setScratch_nextId (s : State) (k o : Nat) (bs : List Byte) : (setScratch s k o bs).nextId = s.nextId := rfl
@[simp] theorem setScratch_irqs (s : State) (k o : Nat) (bs : List Byte) : (setScratch s k o bs).irqs = s.irqs := rfl
@[simp] theorem setScratch_tick (s : State) (k o : Nat) (bs : List Byte) : (setScratch s k o bs).tick = s.tick := rfl
@[simp] theorem setScratch_inbox (s : State) (k o : Nat) (bs : List Byte) : (setScratch s k o bs).inbox = s.inbox := rfl
@[simp] theorem setScratch_at_ (s : State) (k o : Nat) (bs : List Byte) : (setScratch s k o bs).at_ = s.at_ := rfl

/-! ## modCore -/

@[simp] theorem modCore_mem (s : State) (c : Nat) (f : CoreSt → CoreSt) : (modCore s c f).mem = s.mem := rfl
@[simp] theorem modCore_marked (s : State) (c : Nat) (f : CoreSt → CoreSt) : (modCore s c f).marked = s.marked := rfl
@[simp] theorem modCore_flaws (s : State) (c : Nat) (f : CoreSt → CoreSt) : (modCore s c f).flaws = s.flaws := rfl
@[simp] theorem modCore_remote (s : State) (c : Nat) (f : CoreSt → CoreSt) : (modCore s c f).remote = s.remote := rfl
@[simp] theorem modCore_peerMarks (s : State) (c : Nat) (f : CoreSt → CoreSt) : (modCore s c f).peerMarks = s.peerMarks := rfl
@[simp] theorem modCore_peerWrites (s : State) (c : Nat) (f : CoreSt → CoreSt) : (modCore s c f).peerWrites = s.peerWrites := rfl
@[simp] theorem modCore_devLog (s : State) (c : Nat) (f : CoreSt → CoreSt) : (modCore s c f).devLog = s.devLog := rfl
@[simp] theorem modCore_l1 (s : State) (c : Nat) (f : CoreSt → CoreSt) : (modCore s c f).l1 = s.l1 := rfl
@[simp] theorem modCore_sets (s : State) (c : Nat) (f : CoreSt → CoreSt) : (modCore s c f).sets = s.sets := rfl
@[simp] theorem modCore_past (s : State) (c : Nat) (f : CoreSt → CoreSt) : (modCore s c f).past = s.past := rfl
@[simp] theorem modCore_surfPast (s : State) (c : Nat) (f : CoreSt → CoreSt) : (modCore s c f).surfPast = s.surfPast := rfl
@[simp] theorem modCore_olds (s : State) (c : Nat) (f : CoreSt → CoreSt) : (modCore s c f).olds = s.olds := rfl
@[simp] theorem modCore_requests (s : State) (c : Nat) (f : CoreSt → CoreSt) : (modCore s c f).requests = s.requests := rfl
@[simp] theorem modCore_responses (s : State) (c : Nat) (f : CoreSt → CoreSt) : (modCore s c f).responses = s.responses := rfl
@[simp] theorem modCore_snoops (s : State) (c : Nat) (f : CoreSt → CoreSt) : (modCore s c f).snoops = s.snoops := rfl
@[simp] theorem modCore_reports (s : State) (c : Nat) (f : CoreSt → CoreSt) : (modCore s c f).reports = s.reports := rfl
@[simp] theorem modCore_ctx (s : State) (c : Nat) (f : CoreSt → CoreSt) : (modCore s c f).ctx = s.ctx := rfl
@[simp] theorem modCore_ctxOps (s : State) (c : Nat) (f : CoreSt → CoreSt) : (modCore s c f).ctxOps = s.ctxOps := rfl
@[simp] theorem modCore_ctl (s : State) (c : Nat) (f : CoreSt → CoreSt) : (modCore s c f).ctl = s.ctl := rfl
@[simp] theorem modCore_lit (s : State) (c : Nat) (f : CoreSt → CoreSt) : (modCore s c f).lit = s.lit := rfl
@[simp] theorem modCore_updates (s : State) (c : Nat) (f : CoreSt → CoreSt) : (modCore s c f).updates = s.updates := rfl
@[simp] theorem modCore_acl (s : State) (c : Nat) (f : CoreSt → CoreSt) : (modCore s c f).acl = s.acl := rfl
@[simp] theorem modCore_denials (s : State) (c : Nat) (f : CoreSt → CoreSt) : (modCore s c f).denials = s.denials := rfl
@[simp] theorem modCore_denialNext (s : State) (c : Nat) (f : CoreSt → CoreSt) : (modCore s c f).denialNext = s.denialNext := rfl
@[simp] theorem modCore_denialCount (s : State) (c : Nat) (f : CoreSt → CoreSt) : (modCore s c f).denialCount = s.denialCount := rfl
@[simp] theorem modCore_orphans (s : State) (c : Nat) (f : CoreSt → CoreSt) : (modCore s c f).orphans = s.orphans := rfl
@[simp] theorem modCore_ids (s : State) (c : Nat) (f : CoreSt → CoreSt) : (modCore s c f).ids = s.ids := rfl
@[simp] theorem modCore_tlb (s : State) (c : Nat) (f : CoreSt → CoreSt) : (modCore s c f).tlb = s.tlb := rfl
@[simp] theorem modCore_nonLeaf (s : State) (c : Nat) (f : CoreSt → CoreSt) : (modCore s c f).nonLeaf = s.nonLeaf := rfl
@[simp] theorem modCore_walks (s : State) (c : Nat) (f : CoreSt → CoreSt) : (modCore s c f).walks = s.walks := rfl
@[simp] theorem modCore_faultq (s : State) (c : Nat) (f : CoreSt → CoreSt) : (modCore s c f).faultq = s.faultq := rfl
@[simp] theorem modCore_notices (s : State) (c : Nat) (f : CoreSt → CoreSt) : (modCore s c f).notices = s.notices := rfl
@[simp] theorem modCore_copies (s : State) (c : Nat) (f : CoreSt → CoreSt) : (modCore s c f).copies = s.copies := rfl
@[simp] theorem modCore_mxops (s : State) (c : Nat) (f : CoreSt → CoreSt) : (modCore s c f).mxops = s.mxops := rfl
@[simp] theorem modCore_notifs (s : State) (c : Nat) (f : CoreSt → CoreSt) : (modCore s c f).notifs = s.notifs := rfl
@[simp] theorem modCore_queue (s : State) (c : Nat) (f : CoreSt → CoreSt) : (modCore s c f).queue = s.queue := rfl
@[simp] theorem modCore_insts (s : State) (c : Nat) (f : CoreSt → CoreSt) : (modCore s c f).insts = s.insts := rfl
@[simp] theorem modCore_decs (s : State) (c : Nat) (f : CoreSt → CoreSt) : (modCore s c f).decs = s.decs := rfl
@[simp] theorem modCore_pushes (s : State) (c : Nat) (f : CoreSt → CoreSt) : (modCore s c f).pushes = s.pushes := rfl
@[simp] theorem modCore_raster (s : State) (c : Nat) (f : CoreSt → CoreSt) : (modCore s c f).raster = s.raster := rfl
@[simp] theorem modCore_closed (s : State) (c : Nat) (f : CoreSt → CoreSt) : (modCore s c f).closed = s.closed := rfl
@[simp] theorem modCore_texops (s : State) (c : Nat) (f : CoreSt → CoreSt) : (modCore s c f).texops = s.texops := rfl
@[simp] theorem modCore_sfops (s : State) (c : Nat) (f : CoreSt → CoreSt) : (modCore s c f).sfops = s.sfops := rfl
@[simp] theorem modCore_evicts (s : State) (c : Nat) (f : CoreSt → CoreSt) : (modCore s c f).evicts = s.evicts := rfl
@[simp] theorem modCore_colGroups (s : State) (c : Nat) (f : CoreSt → CoreSt) : (modCore s c f).colGroups = s.colGroups := rfl
@[simp] theorem modCore_colls (s : State) (c : Nat) (f : CoreSt → CoreSt) : (modCore s c f).colls = s.colls := rfl
@[simp] theorem modCore_teams (s : State) (c : Nat) (f : CoreSt → CoreSt) : (modCore s c f).teams = s.teams := rfl
@[simp] theorem modCore_relaunches (s : State) (c : Nat) (f : CoreSt → CoreSt) : (modCore s c f).relaunches = s.relaunches := rfl
@[simp] theorem modCore_slots (s : State) (c : Nat) (f : CoreSt → CoreSt) : (modCore s c f).slots = s.slots := rfl
@[simp] theorem modCore_dies (s : State) (c : Nat) (f : CoreSt → CoreSt) : (modCore s c f).dies = s.dies := rfl
@[simp] theorem modCore_surf (s : State) (c : Nat) (f : CoreSt → CoreSt) : (modCore s c f).surf = s.surf := rfl
@[simp] theorem modCore_surfBad (s : State) (c : Nat) (f : CoreSt → CoreSt) : (modCore s c f).surfBad = s.surfBad := rfl
@[simp] theorem modCore_tiles (s : State) (c : Nat) (f : CoreSt → CoreSt) : (modCore s c f).tiles = s.tiles := rfl
@[simp] theorem modCore_ports (s : State) (c : Nat) (f : CoreSt → CoreSt) : (modCore s c f).ports = s.ports := rfl
@[simp] theorem modCore_elog (s : State) (c : Nat) (f : CoreSt → CoreSt) : (modCore s c f).elog = s.elog := rfl
@[simp] theorem modCore_fwNotes (s : State) (c : Nat) (f : CoreSt → CoreSt) : (modCore s c f).fwNotes = s.fwNotes := rfl
@[simp] theorem modCore_mortarOut (s : State) (c : Nat) (f : CoreSt → CoreSt) : (modCore s c f).mortarOut = s.mortarOut := rfl
@[simp] theorem modCore_clocks (s : State) (c : Nat) (f : CoreSt → CoreSt) : (modCore s c f).clocks = s.clocks := rfl
@[simp] theorem modCore_gnodes (s : State) (c : Nat) (f : CoreSt → CoreSt) : (modCore s c f).gnodes = s.gnodes := rfl
@[simp] theorem modCore_hostLine (s : State) (c : Nat) (f : CoreSt → CoreSt) : (modCore s c f).hostLine = s.hostLine := rfl
@[simp] theorem modCore_replies (s : State) (c : Nat) (f : CoreSt → CoreSt) : (modCore s c f).replies = s.replies := rfl
@[simp] theorem modCore_flash (s : State) (c : Nat) (f : CoreSt → CoreSt) : (modCore s c f).flash = s.flash := rfl
@[simp] theorem modCore_nextId (s : State) (c : Nat) (f : CoreSt → CoreSt) : (modCore s c f).nextId = s.nextId := rfl
@[simp] theorem modCore_irqs (s : State) (c : Nat) (f : CoreSt → CoreSt) : (modCore s c f).irqs = s.irqs := rfl
@[simp] theorem modCore_tick (s : State) (c : Nat) (f : CoreSt → CoreSt) : (modCore s c f).tick = s.tick := rfl
@[simp] theorem modCore_inbox (s : State) (c : Nat) (f : CoreSt → CoreSt) : (modCore s c f).inbox = s.inbox := rfl
@[simp] theorem modCore_at_ (s : State) (c : Nat) (f : CoreSt → CoreSt) : (modCore s c f).at_ = s.at_ := rfl

/-! ## modDie -/

@[simp] theorem modDie_mem (s : State) (d : Nat) (f : DieSt → DieSt) : (modDie s d f).mem = s.mem := rfl
@[simp] theorem modDie_marked (s : State) (d : Nat) (f : DieSt → DieSt) : (modDie s d f).marked = s.marked := rfl
@[simp] theorem modDie_flaws (s : State) (d : Nat) (f : DieSt → DieSt) : (modDie s d f).flaws = s.flaws := rfl
@[simp] theorem modDie_remote (s : State) (d : Nat) (f : DieSt → DieSt) : (modDie s d f).remote = s.remote := rfl
@[simp] theorem modDie_peerMarks (s : State) (d : Nat) (f : DieSt → DieSt) : (modDie s d f).peerMarks = s.peerMarks := rfl
@[simp] theorem modDie_peerWrites (s : State) (d : Nat) (f : DieSt → DieSt) : (modDie s d f).peerWrites = s.peerWrites := rfl
@[simp] theorem modDie_devLog (s : State) (d : Nat) (f : DieSt → DieSt) : (modDie s d f).devLog = s.devLog := rfl
@[simp] theorem modDie_l1 (s : State) (d : Nat) (f : DieSt → DieSt) : (modDie s d f).l1 = s.l1 := rfl
@[simp] theorem modDie_sets (s : State) (d : Nat) (f : DieSt → DieSt) : (modDie s d f).sets = s.sets := rfl
@[simp] theorem modDie_past (s : State) (d : Nat) (f : DieSt → DieSt) : (modDie s d f).past = s.past := rfl
@[simp] theorem modDie_surfPast (s : State) (d : Nat) (f : DieSt → DieSt) : (modDie s d f).surfPast = s.surfPast := rfl
@[simp] theorem modDie_olds (s : State) (d : Nat) (f : DieSt → DieSt) : (modDie s d f).olds = s.olds := rfl
@[simp] theorem modDie_requests (s : State) (d : Nat) (f : DieSt → DieSt) : (modDie s d f).requests = s.requests := rfl
@[simp] theorem modDie_responses (s : State) (d : Nat) (f : DieSt → DieSt) : (modDie s d f).responses = s.responses := rfl
@[simp] theorem modDie_snoops (s : State) (d : Nat) (f : DieSt → DieSt) : (modDie s d f).snoops = s.snoops := rfl
@[simp] theorem modDie_reports (s : State) (d : Nat) (f : DieSt → DieSt) : (modDie s d f).reports = s.reports := rfl
@[simp] theorem modDie_ctx (s : State) (d : Nat) (f : DieSt → DieSt) : (modDie s d f).ctx = s.ctx := rfl
@[simp] theorem modDie_ctxOps (s : State) (d : Nat) (f : DieSt → DieSt) : (modDie s d f).ctxOps = s.ctxOps := rfl
@[simp] theorem modDie_ctl (s : State) (d : Nat) (f : DieSt → DieSt) : (modDie s d f).ctl = s.ctl := rfl
@[simp] theorem modDie_lit (s : State) (d : Nat) (f : DieSt → DieSt) : (modDie s d f).lit = s.lit := rfl
@[simp] theorem modDie_updates (s : State) (d : Nat) (f : DieSt → DieSt) : (modDie s d f).updates = s.updates := rfl
@[simp] theorem modDie_acl (s : State) (d : Nat) (f : DieSt → DieSt) : (modDie s d f).acl = s.acl := rfl
@[simp] theorem modDie_denials (s : State) (d : Nat) (f : DieSt → DieSt) : (modDie s d f).denials = s.denials := rfl
@[simp] theorem modDie_denialNext (s : State) (d : Nat) (f : DieSt → DieSt) : (modDie s d f).denialNext = s.denialNext := rfl
@[simp] theorem modDie_denialCount (s : State) (d : Nat) (f : DieSt → DieSt) : (modDie s d f).denialCount = s.denialCount := rfl
@[simp] theorem modDie_orphans (s : State) (d : Nat) (f : DieSt → DieSt) : (modDie s d f).orphans = s.orphans := rfl
@[simp] theorem modDie_ids (s : State) (d : Nat) (f : DieSt → DieSt) : (modDie s d f).ids = s.ids := rfl
@[simp] theorem modDie_tlb (s : State) (d : Nat) (f : DieSt → DieSt) : (modDie s d f).tlb = s.tlb := rfl
@[simp] theorem modDie_nonLeaf (s : State) (d : Nat) (f : DieSt → DieSt) : (modDie s d f).nonLeaf = s.nonLeaf := rfl
@[simp] theorem modDie_walks (s : State) (d : Nat) (f : DieSt → DieSt) : (modDie s d f).walks = s.walks := rfl
@[simp] theorem modDie_faultq (s : State) (d : Nat) (f : DieSt → DieSt) : (modDie s d f).faultq = s.faultq := rfl
@[simp] theorem modDie_notices (s : State) (d : Nat) (f : DieSt → DieSt) : (modDie s d f).notices = s.notices := rfl
@[simp] theorem modDie_copies (s : State) (d : Nat) (f : DieSt → DieSt) : (modDie s d f).copies = s.copies := rfl
@[simp] theorem modDie_mxops (s : State) (d : Nat) (f : DieSt → DieSt) : (modDie s d f).mxops = s.mxops := rfl
@[simp] theorem modDie_notifs (s : State) (d : Nat) (f : DieSt → DieSt) : (modDie s d f).notifs = s.notifs := rfl
@[simp] theorem modDie_queue (s : State) (d : Nat) (f : DieSt → DieSt) : (modDie s d f).queue = s.queue := rfl
@[simp] theorem modDie_insts (s : State) (d : Nat) (f : DieSt → DieSt) : (modDie s d f).insts = s.insts := rfl
@[simp] theorem modDie_decs (s : State) (d : Nat) (f : DieSt → DieSt) : (modDie s d f).decs = s.decs := rfl
@[simp] theorem modDie_pushes (s : State) (d : Nat) (f : DieSt → DieSt) : (modDie s d f).pushes = s.pushes := rfl
@[simp] theorem modDie_raster (s : State) (d : Nat) (f : DieSt → DieSt) : (modDie s d f).raster = s.raster := rfl
@[simp] theorem modDie_closed (s : State) (d : Nat) (f : DieSt → DieSt) : (modDie s d f).closed = s.closed := rfl
@[simp] theorem modDie_texops (s : State) (d : Nat) (f : DieSt → DieSt) : (modDie s d f).texops = s.texops := rfl
@[simp] theorem modDie_sfops (s : State) (d : Nat) (f : DieSt → DieSt) : (modDie s d f).sfops = s.sfops := rfl
@[simp] theorem modDie_evicts (s : State) (d : Nat) (f : DieSt → DieSt) : (modDie s d f).evicts = s.evicts := rfl
@[simp] theorem modDie_colGroups (s : State) (d : Nat) (f : DieSt → DieSt) : (modDie s d f).colGroups = s.colGroups := rfl
@[simp] theorem modDie_colls (s : State) (d : Nat) (f : DieSt → DieSt) : (modDie s d f).colls = s.colls := rfl
@[simp] theorem modDie_teams (s : State) (d : Nat) (f : DieSt → DieSt) : (modDie s d f).teams = s.teams := rfl
@[simp] theorem modDie_relaunches (s : State) (d : Nat) (f : DieSt → DieSt) : (modDie s d f).relaunches = s.relaunches := rfl
@[simp] theorem modDie_slots (s : State) (d : Nat) (f : DieSt → DieSt) : (modDie s d f).slots = s.slots := rfl
@[simp] theorem modDie_cores (s : State) (d : Nat) (f : DieSt → DieSt) : (modDie s d f).cores = s.cores := rfl
@[simp] theorem modDie_surf (s : State) (d : Nat) (f : DieSt → DieSt) : (modDie s d f).surf = s.surf := rfl
@[simp] theorem modDie_surfBad (s : State) (d : Nat) (f : DieSt → DieSt) : (modDie s d f).surfBad = s.surfBad := rfl
@[simp] theorem modDie_tiles (s : State) (d : Nat) (f : DieSt → DieSt) : (modDie s d f).tiles = s.tiles := rfl
@[simp] theorem modDie_ports (s : State) (d : Nat) (f : DieSt → DieSt) : (modDie s d f).ports = s.ports := rfl
@[simp] theorem modDie_elog (s : State) (d : Nat) (f : DieSt → DieSt) : (modDie s d f).elog = s.elog := rfl
@[simp] theorem modDie_fwNotes (s : State) (d : Nat) (f : DieSt → DieSt) : (modDie s d f).fwNotes = s.fwNotes := rfl
@[simp] theorem modDie_mortarOut (s : State) (d : Nat) (f : DieSt → DieSt) : (modDie s d f).mortarOut = s.mortarOut := rfl
@[simp] theorem modDie_clocks (s : State) (d : Nat) (f : DieSt → DieSt) : (modDie s d f).clocks = s.clocks := rfl
@[simp] theorem modDie_gnodes (s : State) (d : Nat) (f : DieSt → DieSt) : (modDie s d f).gnodes = s.gnodes := rfl
@[simp] theorem modDie_hostLine (s : State) (d : Nat) (f : DieSt → DieSt) : (modDie s d f).hostLine = s.hostLine := rfl
@[simp] theorem modDie_replies (s : State) (d : Nat) (f : DieSt → DieSt) : (modDie s d f).replies = s.replies := rfl
@[simp] theorem modDie_flash (s : State) (d : Nat) (f : DieSt → DieSt) : (modDie s d f).flash = s.flash := rfl
@[simp] theorem modDie_nextId (s : State) (d : Nat) (f : DieSt → DieSt) : (modDie s d f).nextId = s.nextId := rfl
@[simp] theorem modDie_irqs (s : State) (d : Nat) (f : DieSt → DieSt) : (modDie s d f).irqs = s.irqs := rfl
@[simp] theorem modDie_tick (s : State) (d : Nat) (f : DieSt → DieSt) : (modDie s d f).tick = s.tick := rfl
@[simp] theorem modDie_inbox (s : State) (d : Nat) (f : DieSt → DieSt) : (modDie s d f).inbox = s.inbox := rfl
@[simp] theorem modDie_at_ (s : State) (d : Nat) (f : DieSt → DieSt) : (modDie s d f).at_ = s.at_ := rfl

/-! ## setCtx -/

@[simp] theorem setCtx_mem (s : State) (cid : Nat) (c : Ctx) : (setCtx s cid c).mem = s.mem := rfl
@[simp] theorem setCtx_marked (s : State) (cid : Nat) (c : Ctx) : (setCtx s cid c).marked = s.marked := rfl
@[simp] theorem setCtx_flaws (s : State) (cid : Nat) (c : Ctx) : (setCtx s cid c).flaws = s.flaws := rfl
@[simp] theorem setCtx_remote (s : State) (cid : Nat) (c : Ctx) : (setCtx s cid c).remote = s.remote := rfl
@[simp] theorem setCtx_peerMarks (s : State) (cid : Nat) (c : Ctx) : (setCtx s cid c).peerMarks = s.peerMarks := rfl
@[simp] theorem setCtx_peerWrites (s : State) (cid : Nat) (c : Ctx) : (setCtx s cid c).peerWrites = s.peerWrites := rfl
@[simp] theorem setCtx_devLog (s : State) (cid : Nat) (c : Ctx) : (setCtx s cid c).devLog = s.devLog := rfl
@[simp] theorem setCtx_l1 (s : State) (cid : Nat) (c : Ctx) : (setCtx s cid c).l1 = s.l1 := rfl
@[simp] theorem setCtx_sets (s : State) (cid : Nat) (c : Ctx) : (setCtx s cid c).sets = s.sets := rfl
@[simp] theorem setCtx_past (s : State) (cid : Nat) (c : Ctx) : (setCtx s cid c).past = s.past := rfl
@[simp] theorem setCtx_surfPast (s : State) (cid : Nat) (c : Ctx) : (setCtx s cid c).surfPast = s.surfPast := rfl
@[simp] theorem setCtx_olds (s : State) (cid : Nat) (c : Ctx) : (setCtx s cid c).olds = s.olds := rfl
@[simp] theorem setCtx_requests (s : State) (cid : Nat) (c : Ctx) : (setCtx s cid c).requests = s.requests := rfl
@[simp] theorem setCtx_responses (s : State) (cid : Nat) (c : Ctx) : (setCtx s cid c).responses = s.responses := rfl
@[simp] theorem setCtx_snoops (s : State) (cid : Nat) (c : Ctx) : (setCtx s cid c).snoops = s.snoops := rfl
@[simp] theorem setCtx_reports (s : State) (cid : Nat) (c : Ctx) : (setCtx s cid c).reports = s.reports := rfl
@[simp] theorem setCtx_ctxOps (s : State) (cid : Nat) (c : Ctx) : (setCtx s cid c).ctxOps = s.ctxOps := rfl
@[simp] theorem setCtx_ctl (s : State) (cid : Nat) (c : Ctx) : (setCtx s cid c).ctl = s.ctl := rfl
@[simp] theorem setCtx_lit (s : State) (cid : Nat) (c : Ctx) : (setCtx s cid c).lit = s.lit := rfl
@[simp] theorem setCtx_updates (s : State) (cid : Nat) (c : Ctx) : (setCtx s cid c).updates = s.updates := rfl
@[simp] theorem setCtx_acl (s : State) (cid : Nat) (c : Ctx) : (setCtx s cid c).acl = s.acl := rfl
@[simp] theorem setCtx_denials (s : State) (cid : Nat) (c : Ctx) : (setCtx s cid c).denials = s.denials := rfl
@[simp] theorem setCtx_denialNext (s : State) (cid : Nat) (c : Ctx) : (setCtx s cid c).denialNext = s.denialNext := rfl
@[simp] theorem setCtx_denialCount (s : State) (cid : Nat) (c : Ctx) : (setCtx s cid c).denialCount = s.denialCount := rfl
@[simp] theorem setCtx_orphans (s : State) (cid : Nat) (c : Ctx) : (setCtx s cid c).orphans = s.orphans := rfl
@[simp] theorem setCtx_ids (s : State) (cid : Nat) (c : Ctx) : (setCtx s cid c).ids = s.ids := rfl
@[simp] theorem setCtx_tlb (s : State) (cid : Nat) (c : Ctx) : (setCtx s cid c).tlb = s.tlb := rfl
@[simp] theorem setCtx_nonLeaf (s : State) (cid : Nat) (c : Ctx) : (setCtx s cid c).nonLeaf = s.nonLeaf := rfl
@[simp] theorem setCtx_walks (s : State) (cid : Nat) (c : Ctx) : (setCtx s cid c).walks = s.walks := rfl
@[simp] theorem setCtx_faultq (s : State) (cid : Nat) (c : Ctx) : (setCtx s cid c).faultq = s.faultq := rfl
@[simp] theorem setCtx_notices (s : State) (cid : Nat) (c : Ctx) : (setCtx s cid c).notices = s.notices := rfl
@[simp] theorem setCtx_copies (s : State) (cid : Nat) (c : Ctx) : (setCtx s cid c).copies = s.copies := rfl
@[simp] theorem setCtx_mxops (s : State) (cid : Nat) (c : Ctx) : (setCtx s cid c).mxops = s.mxops := rfl
@[simp] theorem setCtx_notifs (s : State) (cid : Nat) (c : Ctx) : (setCtx s cid c).notifs = s.notifs := rfl
@[simp] theorem setCtx_queue (s : State) (cid : Nat) (c : Ctx) : (setCtx s cid c).queue = s.queue := rfl
@[simp] theorem setCtx_insts (s : State) (cid : Nat) (c : Ctx) : (setCtx s cid c).insts = s.insts := rfl
@[simp] theorem setCtx_decs (s : State) (cid : Nat) (c : Ctx) : (setCtx s cid c).decs = s.decs := rfl
@[simp] theorem setCtx_pushes (s : State) (cid : Nat) (c : Ctx) : (setCtx s cid c).pushes = s.pushes := rfl
@[simp] theorem setCtx_raster (s : State) (cid : Nat) (c : Ctx) : (setCtx s cid c).raster = s.raster := rfl
@[simp] theorem setCtx_closed (s : State) (cid : Nat) (c : Ctx) : (setCtx s cid c).closed = s.closed := rfl
@[simp] theorem setCtx_texops (s : State) (cid : Nat) (c : Ctx) : (setCtx s cid c).texops = s.texops := rfl
@[simp] theorem setCtx_sfops (s : State) (cid : Nat) (c : Ctx) : (setCtx s cid c).sfops = s.sfops := rfl
@[simp] theorem setCtx_evicts (s : State) (cid : Nat) (c : Ctx) : (setCtx s cid c).evicts = s.evicts := rfl
@[simp] theorem setCtx_colGroups (s : State) (cid : Nat) (c : Ctx) : (setCtx s cid c).colGroups = s.colGroups := rfl
@[simp] theorem setCtx_colls (s : State) (cid : Nat) (c : Ctx) : (setCtx s cid c).colls = s.colls := rfl
@[simp] theorem setCtx_teams (s : State) (cid : Nat) (c : Ctx) : (setCtx s cid c).teams = s.teams := rfl
@[simp] theorem setCtx_relaunches (s : State) (cid : Nat) (c : Ctx) : (setCtx s cid c).relaunches = s.relaunches := rfl
@[simp] theorem setCtx_slots (s : State) (cid : Nat) (c : Ctx) : (setCtx s cid c).slots = s.slots := rfl
@[simp] theorem setCtx_cores (s : State) (cid : Nat) (c : Ctx) : (setCtx s cid c).cores = s.cores := rfl
@[simp] theorem setCtx_dies (s : State) (cid : Nat) (c : Ctx) : (setCtx s cid c).dies = s.dies := rfl
@[simp] theorem setCtx_surf (s : State) (cid : Nat) (c : Ctx) : (setCtx s cid c).surf = s.surf := rfl
@[simp] theorem setCtx_surfBad (s : State) (cid : Nat) (c : Ctx) : (setCtx s cid c).surfBad = s.surfBad := rfl
@[simp] theorem setCtx_tiles (s : State) (cid : Nat) (c : Ctx) : (setCtx s cid c).tiles = s.tiles := rfl
@[simp] theorem setCtx_ports (s : State) (cid : Nat) (c : Ctx) : (setCtx s cid c).ports = s.ports := rfl
@[simp] theorem setCtx_elog (s : State) (cid : Nat) (c : Ctx) : (setCtx s cid c).elog = s.elog := rfl
@[simp] theorem setCtx_fwNotes (s : State) (cid : Nat) (c : Ctx) : (setCtx s cid c).fwNotes = s.fwNotes := rfl
@[simp] theorem setCtx_mortarOut (s : State) (cid : Nat) (c : Ctx) : (setCtx s cid c).mortarOut = s.mortarOut := rfl
@[simp] theorem setCtx_clocks (s : State) (cid : Nat) (c : Ctx) : (setCtx s cid c).clocks = s.clocks := rfl
@[simp] theorem setCtx_gnodes (s : State) (cid : Nat) (c : Ctx) : (setCtx s cid c).gnodes = s.gnodes := rfl
@[simp] theorem setCtx_hostLine (s : State) (cid : Nat) (c : Ctx) : (setCtx s cid c).hostLine = s.hostLine := rfl
@[simp] theorem setCtx_replies (s : State) (cid : Nat) (c : Ctx) : (setCtx s cid c).replies = s.replies := rfl
@[simp] theorem setCtx_flash (s : State) (cid : Nat) (c : Ctx) : (setCtx s cid c).flash = s.flash := rfl
@[simp] theorem setCtx_nextId (s : State) (cid : Nat) (c : Ctx) : (setCtx s cid c).nextId = s.nextId := rfl
@[simp] theorem setCtx_irqs (s : State) (cid : Nat) (c : Ctx) : (setCtx s cid c).irqs = s.irqs := rfl
@[simp] theorem setCtx_tick (s : State) (cid : Nat) (c : Ctx) : (setCtx s cid c).tick = s.tick := rfl
@[simp] theorem setCtx_inbox (s : State) (cid : Nat) (c : Ctx) : (setCtx s cid c).inbox = s.inbox := rfl
@[simp] theorem setCtx_at_ (s : State) (cid : Nat) (c : Ctx) : (setCtx s cid c).at_ = s.at_ := rfl

/-! ## Group.setV -/

@[simp] theorem setV_num (g : Group) (n l : Nat) (x : PV Word) : (g.setV n l x).num = g.num := rfl
@[simp] theorem setV_role (g : Group) (n l : Nat) (x : PV Word) : (g.setV n l x).role = g.role := rfl
@[simp] theorem setV_satellite (g : Group) (n l : Nat) (x : PV Word) : (g.setV n l x).satellite = g.satellite := rfl
@[simp] theorem setV_pixel (g : Group) (n l : Nat) (x : PV Word) : (g.setV n l x).pixel = g.pixel := rfl
@[simp] theorem setV_s (g : Group) (n l : Nat) (x : PV Word) : (g.setV n l x).s = g.s := rfl
@[simp] theorem setV_p (g : Group) (n l : Nat) (x : PV Word) : (g.setV n l x).p = g.p := rfl
@[simp] theorem setV_q (g : Group) (n l : Nat) (x : PV Word) : (g.setV n l x).q = g.q := rfl
@[simp] theorem setV_pend (g : Group) (n l : Nat) (x : PV Word) : (g.setV n l x).pend = g.pend := rfl
@[simp] theorem setV_fflags (g : Group) (n l : Nat) (x : PV Word) : (g.setV n l x).fflags = g.fflags := rfl
@[simp] theorem setV_gstat (g : Group) (n l : Nat) (x : PV Word) : (g.setV n l x).gstat = g.gstat := rfl
@[simp] theorem setV_recN (g : Group) (n l : Nat) (x : PV Word) : (g.setV n l x).recN = g.recN := rfl
@[simp] theorem setV_threads (g : Group) (n l : Nat) (x : PV Word) : (g.setV n l x).threads = g.threads := rfl
@[simp] theorem setV_paths (g : Group) (n l : Nat) (x : PV Word) : (g.setV n l x).paths = g.paths := rfl
@[simp] theorem setV_cur (g : Group) (n l : Nat) (x : PV Word) : (g.setV n l x).cur = g.cur := rfl
@[simp] theorem setV_urgent (g : Group) (n l : Nat) (x : PV Word) : (g.setV n l x).urgent = g.urgent := rfl
@[simp] theorem setV_starved (g : Group) (n l : Nat) (x : PV Word) : (g.setV n l x).starved = g.starved := rfl
@[simp] theorem setV_copyCode (g : Group) (n l : Nat) (x : PV Word) : (g.setV n l x).copyCode = g.copyCode := rfl
@[simp] theorem setV_reportCode (g : Group) (n l : Nat) (x : PV Word) : (g.setV n l x).reportCode = g.reportCode := rfl
@[simp] theorem setV_reportFirst (g : Group) (n l : Nat) (x : PV Word) : (g.setV n l x).reportFirst = g.reportFirst := rfl
@[simp] theorem setV_copyLost (g : Group) (n l : Nat) (x : PV Word) : (g.setV n l x).copyLost = g.copyLost := rfl
@[simp] theorem setV_mon (g : Group) (n l : Nat) (x : PV Word) : (g.setV n l x).mon = g.mon := rfl
@[simp] theorem setV_redirected (g : Group) (n l : Nat) (x : PV Word) : (g.setV n l x).redirected = g.redirected := rfl
@[simp] theorem setV_swapped (g : Group) (n l : Nat) (x : PV Word) : (g.setV n l x).swapped = g.swapped := rfl
@[simp] theorem setV_lastOp (g : Group) (n l : Nat) (x : PV Word) : (g.setV n l x).lastOp = g.lastOp := rfl
@[simp] theorem setV_awaited (g : Group) (n l : Nat) (x : PV Word) : (g.setV n l x).awaited = g.awaited := rfl
@[simp] theorem setV_progress (g : Group) (n l : Nat) (x : PV Word) : (g.setV n l x).progress = g.progress := rfl
@[simp] theorem setV_mismatch (g : Group) (n l : Nat) (x : PV Word) : (g.setV n l x).mismatch = g.mismatch := rfl
@[simp] theorem setV_partly (g : Group) (n l : Nat) (x : PV Word) : (g.setV n l x).partly = g.partly := rfl
@[simp] theorem setV_aside (g : Group) (n l : Nat) (x : PV Word) : (g.setV n l x).aside = g.aside := rfl
@[simp] theorem setV_clock (g : Group) (n l : Nat) (x : PV Word) : (g.setV n l x).clock = g.clock := rfl
@[simp] theorem setV_parts (g : Group) (n l : Nat) (x : PV Word) : (g.setV n l x).parts = g.parts := rfl
@[simp] theorem setV_pastV (g : Group) (n l : Nat) (x : PV Word) : (g.setV n l x).pastV = g.pastV := rfl
@[simp] theorem setV_pastP (g : Group) (n l : Nat) (x : PV Word) : (g.setV n l x).pastP = g.pastP := rfl
@[simp] theorem setV_pastS (g : Group) (n l : Nat) (x : PV Word) : (g.setV n l x).pastS = g.pastS := rfl
@[simp] theorem setV_pastQ (g : Group) (n l : Nat) (x : PV Word) : (g.setV n l x).pastQ = g.pastQ := rfl
@[simp] theorem setV_viewS (g : Group) (n l : Nat) (x : PV Word) : (g.setV n l x).viewS = g.viewS := rfl
@[simp] theorem setV_viewQ (g : Group) (n l : Nat) (x : PV Word) : (g.setV n l x).viewQ = g.viewQ := rfl

/-! ## Group.setP -/

@[simp] theorem setP_num (g : Group) (n l : Nat) (x : PV Bool) : (g.setP n l x).num = g.num := rfl
@[simp] theorem setP_role (g : Group) (n l : Nat) (x : PV Bool) : (g.setP n l x).role = g.role := rfl
@[simp] theorem setP_satellite (g : Group) (n l : Nat) (x : PV Bool) : (g.setP n l x).satellite = g.satellite := rfl
@[simp] theorem setP_pixel (g : Group) (n l : Nat) (x : PV Bool) : (g.setP n l x).pixel = g.pixel := rfl
@[simp] theorem setP_v (g : Group) (n l : Nat) (x : PV Bool) : (g.setP n l x).v = g.v := rfl
@[simp] theorem setP_s (g : Group) (n l : Nat) (x : PV Bool) : (g.setP n l x).s = g.s := rfl
@[simp] theorem setP_q (g : Group) (n l : Nat) (x : PV Bool) : (g.setP n l x).q = g.q := rfl
@[simp] theorem setP_pend (g : Group) (n l : Nat) (x : PV Bool) : (g.setP n l x).pend = g.pend := rfl
@[simp] theorem setP_fflags (g : Group) (n l : Nat) (x : PV Bool) : (g.setP n l x).fflags = g.fflags := rfl
@[simp] theorem setP_gstat (g : Group) (n l : Nat) (x : PV Bool) : (g.setP n l x).gstat = g.gstat := rfl
@[simp] theorem setP_recN (g : Group) (n l : Nat) (x : PV Bool) : (g.setP n l x).recN = g.recN := rfl
@[simp] theorem setP_threads (g : Group) (n l : Nat) (x : PV Bool) : (g.setP n l x).threads = g.threads := rfl
@[simp] theorem setP_paths (g : Group) (n l : Nat) (x : PV Bool) : (g.setP n l x).paths = g.paths := rfl
@[simp] theorem setP_cur (g : Group) (n l : Nat) (x : PV Bool) : (g.setP n l x).cur = g.cur := rfl
@[simp] theorem setP_urgent (g : Group) (n l : Nat) (x : PV Bool) : (g.setP n l x).urgent = g.urgent := rfl
@[simp] theorem setP_starved (g : Group) (n l : Nat) (x : PV Bool) : (g.setP n l x).starved = g.starved := rfl
@[simp] theorem setP_copyCode (g : Group) (n l : Nat) (x : PV Bool) : (g.setP n l x).copyCode = g.copyCode := rfl
@[simp] theorem setP_reportCode (g : Group) (n l : Nat) (x : PV Bool) : (g.setP n l x).reportCode = g.reportCode := rfl
@[simp] theorem setP_reportFirst (g : Group) (n l : Nat) (x : PV Bool) : (g.setP n l x).reportFirst = g.reportFirst := rfl
@[simp] theorem setP_copyLost (g : Group) (n l : Nat) (x : PV Bool) : (g.setP n l x).copyLost = g.copyLost := rfl
@[simp] theorem setP_mon (g : Group) (n l : Nat) (x : PV Bool) : (g.setP n l x).mon = g.mon := rfl
@[simp] theorem setP_redirected (g : Group) (n l : Nat) (x : PV Bool) : (g.setP n l x).redirected = g.redirected := rfl
@[simp] theorem setP_swapped (g : Group) (n l : Nat) (x : PV Bool) : (g.setP n l x).swapped = g.swapped := rfl
@[simp] theorem setP_lastOp (g : Group) (n l : Nat) (x : PV Bool) : (g.setP n l x).lastOp = g.lastOp := rfl
@[simp] theorem setP_awaited (g : Group) (n l : Nat) (x : PV Bool) : (g.setP n l x).awaited = g.awaited := rfl
@[simp] theorem setP_progress (g : Group) (n l : Nat) (x : PV Bool) : (g.setP n l x).progress = g.progress := rfl
@[simp] theorem setP_mismatch (g : Group) (n l : Nat) (x : PV Bool) : (g.setP n l x).mismatch = g.mismatch := rfl
@[simp] theorem setP_partly (g : Group) (n l : Nat) (x : PV Bool) : (g.setP n l x).partly = g.partly := rfl
@[simp] theorem setP_aside (g : Group) (n l : Nat) (x : PV Bool) : (g.setP n l x).aside = g.aside := rfl
@[simp] theorem setP_clock (g : Group) (n l : Nat) (x : PV Bool) : (g.setP n l x).clock = g.clock := rfl
@[simp] theorem setP_parts (g : Group) (n l : Nat) (x : PV Bool) : (g.setP n l x).parts = g.parts := rfl
@[simp] theorem setP_pastV (g : Group) (n l : Nat) (x : PV Bool) : (g.setP n l x).pastV = g.pastV := rfl
@[simp] theorem setP_pastP (g : Group) (n l : Nat) (x : PV Bool) : (g.setP n l x).pastP = g.pastP := rfl
@[simp] theorem setP_pastS (g : Group) (n l : Nat) (x : PV Bool) : (g.setP n l x).pastS = g.pastS := rfl
@[simp] theorem setP_pastQ (g : Group) (n l : Nat) (x : PV Bool) : (g.setP n l x).pastQ = g.pastQ := rfl
@[simp] theorem setP_viewS (g : Group) (n l : Nat) (x : PV Bool) : (g.setP n l x).viewS = g.viewS := rfl
@[simp] theorem setP_viewQ (g : Group) (n l : Nat) (x : PV Bool) : (g.setP n l x).viewQ = g.viewQ := rfl

/-! ## Group.setS -/

@[simp] theorem setS_num (g : Group) (n : Nat) (x : PV DWord) : (g.setS n x).num = g.num := rfl
@[simp] theorem setS_role (g : Group) (n : Nat) (x : PV DWord) : (g.setS n x).role = g.role := rfl
@[simp] theorem setS_satellite (g : Group) (n : Nat) (x : PV DWord) : (g.setS n x).satellite = g.satellite := rfl
@[simp] theorem setS_pixel (g : Group) (n : Nat) (x : PV DWord) : (g.setS n x).pixel = g.pixel := rfl
@[simp] theorem setS_v (g : Group) (n : Nat) (x : PV DWord) : (g.setS n x).v = g.v := rfl
@[simp] theorem setS_p (g : Group) (n : Nat) (x : PV DWord) : (g.setS n x).p = g.p := rfl
@[simp] theorem setS_q (g : Group) (n : Nat) (x : PV DWord) : (g.setS n x).q = g.q := rfl
@[simp] theorem setS_fflags (g : Group) (n : Nat) (x : PV DWord) : (g.setS n x).fflags = g.fflags := rfl
@[simp] theorem setS_gstat (g : Group) (n : Nat) (x : PV DWord) : (g.setS n x).gstat = g.gstat := rfl
@[simp] theorem setS_recN (g : Group) (n : Nat) (x : PV DWord) : (g.setS n x).recN = g.recN := rfl
@[simp] theorem setS_threads (g : Group) (n : Nat) (x : PV DWord) : (g.setS n x).threads = g.threads := rfl
@[simp] theorem setS_paths (g : Group) (n : Nat) (x : PV DWord) : (g.setS n x).paths = g.paths := rfl
@[simp] theorem setS_cur (g : Group) (n : Nat) (x : PV DWord) : (g.setS n x).cur = g.cur := rfl
@[simp] theorem setS_urgent (g : Group) (n : Nat) (x : PV DWord) : (g.setS n x).urgent = g.urgent := rfl
@[simp] theorem setS_starved (g : Group) (n : Nat) (x : PV DWord) : (g.setS n x).starved = g.starved := rfl
@[simp] theorem setS_copyCode (g : Group) (n : Nat) (x : PV DWord) : (g.setS n x).copyCode = g.copyCode := rfl
@[simp] theorem setS_reportCode (g : Group) (n : Nat) (x : PV DWord) : (g.setS n x).reportCode = g.reportCode := rfl
@[simp] theorem setS_reportFirst (g : Group) (n : Nat) (x : PV DWord) : (g.setS n x).reportFirst = g.reportFirst := rfl
@[simp] theorem setS_copyLost (g : Group) (n : Nat) (x : PV DWord) : (g.setS n x).copyLost = g.copyLost := rfl
@[simp] theorem setS_mon (g : Group) (n : Nat) (x : PV DWord) : (g.setS n x).mon = g.mon := rfl
@[simp] theorem setS_redirected (g : Group) (n : Nat) (x : PV DWord) : (g.setS n x).redirected = g.redirected := rfl
@[simp] theorem setS_swapped (g : Group) (n : Nat) (x : PV DWord) : (g.setS n x).swapped = g.swapped := rfl
@[simp] theorem setS_lastOp (g : Group) (n : Nat) (x : PV DWord) : (g.setS n x).lastOp = g.lastOp := rfl
@[simp] theorem setS_awaited (g : Group) (n : Nat) (x : PV DWord) : (g.setS n x).awaited = g.awaited := rfl
@[simp] theorem setS_progress (g : Group) (n : Nat) (x : PV DWord) : (g.setS n x).progress = g.progress := rfl
@[simp] theorem setS_mismatch (g : Group) (n : Nat) (x : PV DWord) : (g.setS n x).mismatch = g.mismatch := rfl
@[simp] theorem setS_partly (g : Group) (n : Nat) (x : PV DWord) : (g.setS n x).partly = g.partly := rfl
@[simp] theorem setS_aside (g : Group) (n : Nat) (x : PV DWord) : (g.setS n x).aside = g.aside := rfl
@[simp] theorem setS_clock (g : Group) (n : Nat) (x : PV DWord) : (g.setS n x).clock = g.clock := rfl
@[simp] theorem setS_parts (g : Group) (n : Nat) (x : PV DWord) : (g.setS n x).parts = g.parts := rfl
@[simp] theorem setS_pastV (g : Group) (n : Nat) (x : PV DWord) : (g.setS n x).pastV = g.pastV := rfl
@[simp] theorem setS_pastP (g : Group) (n : Nat) (x : PV DWord) : (g.setS n x).pastP = g.pastP := rfl
@[simp] theorem setS_pastS (g : Group) (n : Nat) (x : PV DWord) : (g.setS n x).pastS = g.pastS := rfl
@[simp] theorem setS_pastQ (g : Group) (n : Nat) (x : PV DWord) : (g.setS n x).pastQ = g.pastQ := rfl
@[simp] theorem setS_viewQ (g : Group) (n : Nat) (x : PV DWord) : (g.setS n x).viewQ = g.viewQ := rfl

/-! ## Group.setQ -/

@[simp] theorem setQ_num (g : Group) (n : Nat) (x : PV Bool) : (g.setQ n x).num = g.num := rfl
@[simp] theorem setQ_role (g : Group) (n : Nat) (x : PV Bool) : (g.setQ n x).role = g.role := rfl
@[simp] theorem setQ_satellite (g : Group) (n : Nat) (x : PV Bool) : (g.setQ n x).satellite = g.satellite := rfl
@[simp] theorem setQ_pixel (g : Group) (n : Nat) (x : PV Bool) : (g.setQ n x).pixel = g.pixel := rfl
@[simp] theorem setQ_v (g : Group) (n : Nat) (x : PV Bool) : (g.setQ n x).v = g.v := rfl
@[simp] theorem setQ_s (g : Group) (n : Nat) (x : PV Bool) : (g.setQ n x).s = g.s := rfl
@[simp] theorem setQ_p (g : Group) (n : Nat) (x : PV Bool) : (g.setQ n x).p = g.p := rfl
@[simp] theorem setQ_pend (g : Group) (n : Nat) (x : PV Bool) : (g.setQ n x).pend = g.pend := rfl
@[simp] theorem setQ_fflags (g : Group) (n : Nat) (x : PV Bool) : (g.setQ n x).fflags = g.fflags := rfl
@[simp] theorem setQ_gstat (g : Group) (n : Nat) (x : PV Bool) : (g.setQ n x).gstat = g.gstat := rfl
@[simp] theorem setQ_recN (g : Group) (n : Nat) (x : PV Bool) : (g.setQ n x).recN = g.recN := rfl
@[simp] theorem setQ_threads (g : Group) (n : Nat) (x : PV Bool) : (g.setQ n x).threads = g.threads := rfl
@[simp] theorem setQ_paths (g : Group) (n : Nat) (x : PV Bool) : (g.setQ n x).paths = g.paths := rfl
@[simp] theorem setQ_cur (g : Group) (n : Nat) (x : PV Bool) : (g.setQ n x).cur = g.cur := rfl
@[simp] theorem setQ_urgent (g : Group) (n : Nat) (x : PV Bool) : (g.setQ n x).urgent = g.urgent := rfl
@[simp] theorem setQ_starved (g : Group) (n : Nat) (x : PV Bool) : (g.setQ n x).starved = g.starved := rfl
@[simp] theorem setQ_copyCode (g : Group) (n : Nat) (x : PV Bool) : (g.setQ n x).copyCode = g.copyCode := rfl
@[simp] theorem setQ_reportCode (g : Group) (n : Nat) (x : PV Bool) : (g.setQ n x).reportCode = g.reportCode := rfl
@[simp] theorem setQ_reportFirst (g : Group) (n : Nat) (x : PV Bool) : (g.setQ n x).reportFirst = g.reportFirst := rfl
@[simp] theorem setQ_copyLost (g : Group) (n : Nat) (x : PV Bool) : (g.setQ n x).copyLost = g.copyLost := rfl
@[simp] theorem setQ_mon (g : Group) (n : Nat) (x : PV Bool) : (g.setQ n x).mon = g.mon := rfl
@[simp] theorem setQ_redirected (g : Group) (n : Nat) (x : PV Bool) : (g.setQ n x).redirected = g.redirected := rfl
@[simp] theorem setQ_swapped (g : Group) (n : Nat) (x : PV Bool) : (g.setQ n x).swapped = g.swapped := rfl
@[simp] theorem setQ_lastOp (g : Group) (n : Nat) (x : PV Bool) : (g.setQ n x).lastOp = g.lastOp := rfl
@[simp] theorem setQ_awaited (g : Group) (n : Nat) (x : PV Bool) : (g.setQ n x).awaited = g.awaited := rfl
@[simp] theorem setQ_progress (g : Group) (n : Nat) (x : PV Bool) : (g.setQ n x).progress = g.progress := rfl
@[simp] theorem setQ_mismatch (g : Group) (n : Nat) (x : PV Bool) : (g.setQ n x).mismatch = g.mismatch := rfl
@[simp] theorem setQ_partly (g : Group) (n : Nat) (x : PV Bool) : (g.setQ n x).partly = g.partly := rfl
@[simp] theorem setQ_aside (g : Group) (n : Nat) (x : PV Bool) : (g.setQ n x).aside = g.aside := rfl
@[simp] theorem setQ_clock (g : Group) (n : Nat) (x : PV Bool) : (g.setQ n x).clock = g.clock := rfl
@[simp] theorem setQ_parts (g : Group) (n : Nat) (x : PV Bool) : (g.setQ n x).parts = g.parts := rfl
@[simp] theorem setQ_pastV (g : Group) (n : Nat) (x : PV Bool) : (g.setQ n x).pastV = g.pastV := rfl
@[simp] theorem setQ_pastP (g : Group) (n : Nat) (x : PV Bool) : (g.setQ n x).pastP = g.pastP := rfl
@[simp] theorem setQ_pastS (g : Group) (n : Nat) (x : PV Bool) : (g.setQ n x).pastS = g.pastS := rfl
@[simp] theorem setQ_pastQ (g : Group) (n : Nat) (x : PV Bool) : (g.setQ n x).pastQ = g.pastQ := rfl
@[simp] theorem setQ_viewS (g : Group) (n : Nat) (x : PV Bool) : (g.setQ n x).viewS = g.viewS := rfl

/-! ## Group.setPending -/

@[simp] theorem setPending_num (g : Group) (n h : Nat) : (g.setPending n h).num = g.num := rfl
@[simp] theorem setPending_role (g : Group) (n h : Nat) : (g.setPending n h).role = g.role := rfl
@[simp] theorem setPending_satellite (g : Group) (n h : Nat) : (g.setPending n h).satellite = g.satellite := rfl
@[simp] theorem setPending_pixel (g : Group) (n h : Nat) : (g.setPending n h).pixel = g.pixel := rfl
@[simp] theorem setPending_v (g : Group) (n h : Nat) : (g.setPending n h).v = g.v := rfl
@[simp] theorem setPending_p (g : Group) (n h : Nat) : (g.setPending n h).p = g.p := rfl
@[simp] theorem setPending_q (g : Group) (n h : Nat) : (g.setPending n h).q = g.q := rfl
@[simp] theorem setPending_fflags (g : Group) (n h : Nat) : (g.setPending n h).fflags = g.fflags := rfl
@[simp] theorem setPending_gstat (g : Group) (n h : Nat) : (g.setPending n h).gstat = g.gstat := rfl
@[simp] theorem setPending_recN (g : Group) (n h : Nat) : (g.setPending n h).recN = g.recN := rfl
@[simp] theorem setPending_threads (g : Group) (n h : Nat) : (g.setPending n h).threads = g.threads := rfl
@[simp] theorem setPending_paths (g : Group) (n h : Nat) : (g.setPending n h).paths = g.paths := rfl
@[simp] theorem setPending_cur (g : Group) (n h : Nat) : (g.setPending n h).cur = g.cur := rfl
@[simp] theorem setPending_urgent (g : Group) (n h : Nat) : (g.setPending n h).urgent = g.urgent := rfl
@[simp] theorem setPending_starved (g : Group) (n h : Nat) : (g.setPending n h).starved = g.starved := rfl
@[simp] theorem setPending_copyCode (g : Group) (n h : Nat) : (g.setPending n h).copyCode = g.copyCode := rfl
@[simp] theorem setPending_reportCode (g : Group) (n h : Nat) : (g.setPending n h).reportCode = g.reportCode := rfl
@[simp] theorem setPending_reportFirst (g : Group) (n h : Nat) : (g.setPending n h).reportFirst = g.reportFirst := rfl
@[simp] theorem setPending_copyLost (g : Group) (n h : Nat) : (g.setPending n h).copyLost = g.copyLost := rfl
@[simp] theorem setPending_mon (g : Group) (n h : Nat) : (g.setPending n h).mon = g.mon := rfl
@[simp] theorem setPending_redirected (g : Group) (n h : Nat) : (g.setPending n h).redirected = g.redirected := rfl
@[simp] theorem setPending_swapped (g : Group) (n h : Nat) : (g.setPending n h).swapped = g.swapped := rfl
@[simp] theorem setPending_lastOp (g : Group) (n h : Nat) : (g.setPending n h).lastOp = g.lastOp := rfl
@[simp] theorem setPending_awaited (g : Group) (n h : Nat) : (g.setPending n h).awaited = g.awaited := rfl
@[simp] theorem setPending_progress (g : Group) (n h : Nat) : (g.setPending n h).progress = g.progress := rfl
@[simp] theorem setPending_mismatch (g : Group) (n h : Nat) : (g.setPending n h).mismatch = g.mismatch := rfl
@[simp] theorem setPending_partly (g : Group) (n h : Nat) : (g.setPending n h).partly = g.partly := rfl
@[simp] theorem setPending_aside (g : Group) (n h : Nat) : (g.setPending n h).aside = g.aside := rfl
@[simp] theorem setPending_clock (g : Group) (n h : Nat) : (g.setPending n h).clock = g.clock := rfl
@[simp] theorem setPending_parts (g : Group) (n h : Nat) : (g.setPending n h).parts = g.parts := rfl
@[simp] theorem setPending_pastV (g : Group) (n h : Nat) : (g.setPending n h).pastV = g.pastV := rfl
@[simp] theorem setPending_pastP (g : Group) (n h : Nat) : (g.setPending n h).pastP = g.pastP := rfl
@[simp] theorem setPending_pastS (g : Group) (n h : Nat) : (g.setPending n h).pastS = g.pastS := rfl
@[simp] theorem setPending_pastQ (g : Group) (n h : Nat) : (g.setPending n h).pastQ = g.pastQ := rfl
@[simp] theorem setPending_viewQ (g : Group) (n h : Nat) : (g.setPending n h).viewQ = g.viewQ := rfl

/-! ## Group.setWait -/

@[simp] theorem setWait_num (g : Group) (p : Nat) (w : Wait) : (g.setWait p w).num = g.num := rfl
@[simp] theorem setWait_role (g : Group) (p : Nat) (w : Wait) : (g.setWait p w).role = g.role := rfl
@[simp] theorem setWait_satellite (g : Group) (p : Nat) (w : Wait) : (g.setWait p w).satellite = g.satellite := rfl
@[simp] theorem setWait_pixel (g : Group) (p : Nat) (w : Wait) : (g.setWait p w).pixel = g.pixel := rfl
@[simp] theorem setWait_v (g : Group) (p : Nat) (w : Wait) : (g.setWait p w).v = g.v := rfl
@[simp] theorem setWait_s (g : Group) (p : Nat) (w : Wait) : (g.setWait p w).s = g.s := rfl
@[simp] theorem setWait_p (g : Group) (p : Nat) (w : Wait) : (g.setWait p w).p = g.p := rfl
@[simp] theorem setWait_q (g : Group) (p : Nat) (w : Wait) : (g.setWait p w).q = g.q := rfl
@[simp] theorem setWait_pend (g : Group) (p : Nat) (w : Wait) : (g.setWait p w).pend = g.pend := rfl
@[simp] theorem setWait_fflags (g : Group) (p : Nat) (w : Wait) : (g.setWait p w).fflags = g.fflags := rfl
@[simp] theorem setWait_gstat (g : Group) (p : Nat) (w : Wait) : (g.setWait p w).gstat = g.gstat := rfl
@[simp] theorem setWait_recN (g : Group) (p : Nat) (w : Wait) : (g.setWait p w).recN = g.recN := rfl
@[simp] theorem setWait_threads (g : Group) (p : Nat) (w : Wait) : (g.setWait p w).threads = g.threads := rfl
@[simp] theorem setWait_cur (g : Group) (p : Nat) (w : Wait) : (g.setWait p w).cur = g.cur := rfl
@[simp] theorem setWait_urgent (g : Group) (p : Nat) (w : Wait) : (g.setWait p w).urgent = g.urgent := rfl
@[simp] theorem setWait_starved (g : Group) (p : Nat) (w : Wait) : (g.setWait p w).starved = g.starved := rfl
@[simp] theorem setWait_copyCode (g : Group) (p : Nat) (w : Wait) : (g.setWait p w).copyCode = g.copyCode := rfl
@[simp] theorem setWait_reportCode (g : Group) (p : Nat) (w : Wait) : (g.setWait p w).reportCode = g.reportCode := rfl
@[simp] theorem setWait_reportFirst (g : Group) (p : Nat) (w : Wait) : (g.setWait p w).reportFirst = g.reportFirst := rfl
@[simp] theorem setWait_copyLost (g : Group) (p : Nat) (w : Wait) : (g.setWait p w).copyLost = g.copyLost := rfl
@[simp] theorem setWait_mon (g : Group) (p : Nat) (w : Wait) : (g.setWait p w).mon = g.mon := rfl
@[simp] theorem setWait_redirected (g : Group) (p : Nat) (w : Wait) : (g.setWait p w).redirected = g.redirected := rfl
@[simp] theorem setWait_swapped (g : Group) (p : Nat) (w : Wait) : (g.setWait p w).swapped = g.swapped := rfl
@[simp] theorem setWait_lastOp (g : Group) (p : Nat) (w : Wait) : (g.setWait p w).lastOp = g.lastOp := rfl
@[simp] theorem setWait_awaited (g : Group) (p : Nat) (w : Wait) : (g.setWait p w).awaited = g.awaited := rfl
@[simp] theorem setWait_progress (g : Group) (p : Nat) (w : Wait) : (g.setWait p w).progress = g.progress := rfl
@[simp] theorem setWait_mismatch (g : Group) (p : Nat) (w : Wait) : (g.setWait p w).mismatch = g.mismatch := rfl
@[simp] theorem setWait_partly (g : Group) (p : Nat) (w : Wait) : (g.setWait p w).partly = g.partly := rfl
@[simp] theorem setWait_aside (g : Group) (p : Nat) (w : Wait) : (g.setWait p w).aside = g.aside := rfl
@[simp] theorem setWait_clock (g : Group) (p : Nat) (w : Wait) : (g.setWait p w).clock = g.clock := rfl
@[simp] theorem setWait_parts (g : Group) (p : Nat) (w : Wait) : (g.setWait p w).parts = g.parts := rfl
@[simp] theorem setWait_pastV (g : Group) (p : Nat) (w : Wait) : (g.setWait p w).pastV = g.pastV := rfl
@[simp] theorem setWait_pastP (g : Group) (p : Nat) (w : Wait) : (g.setWait p w).pastP = g.pastP := rfl
@[simp] theorem setWait_pastS (g : Group) (p : Nat) (w : Wait) : (g.setWait p w).pastS = g.pastS := rfl
@[simp] theorem setWait_pastQ (g : Group) (p : Nat) (w : Wait) : (g.setWait p w).pastQ = g.pastQ := rfl
@[simp] theorem setWait_viewS (g : Group) (p : Nat) (w : Wait) : (g.setWait p w).viewS = g.viewS := rfl
@[simp] theorem setWait_viewQ (g : Group) (p : Nat) (w : Wait) : (g.setWait p w).viewQ = g.viewQ := rfl

end Sys2Proof.Laws
end

