-- ==== Sys2Proof/Laws/Memory.lean ====
section
/-!
SUPPORT. What the operations over physical memory can do: what a byte reads as after a write, that a write changes memory
and the context table alone, and that every operation that writes memory keeps it in its canonical form (`Memory.wf`).
-/

namespace Sys2Proof.Laws

open Sys2Proof Sys2Proof.Machine

theorem wf_reset : Memory.wf State.reset.mem := rfl

/-! ## One byte -/

theorem inCtxTable_ctl {s t : State} (h : t.ctl = s.ctl) (pa : Nat) : inCtxTable t pa = inCtxTable s pa := by
  simp only [inCtxTable, h]

/-- A write of a byte changes memory, or an entry of the context table, and nothing else. -/
theorem setPhysByte_only (s : State) (pa : Nat) (b : Byte) :
    setPhysByte s pa b = { s with mem := (setPhysByte s pa b).mem, ctx := (setPhysByte s pa b).ctx } := by
  unfold setPhysByte; split <;> rfl

/-- A byte outside the context table reads as it was written, and every other one as before. -/
theorem physByte_setPhysByte {s : State} {pa qa : Nat} (b : Byte) (hp : inCtxTable s pa = false)
    (hq : inCtxTable s qa = false) : physByte (setPhysByte s pa b) qa = if qa = pa then b else physByte s qa := by
  have h1 : setPhysByte s pa b = { s with mem := mset 0 pa b s.mem } := by simp [setPhysByte, hp]
  have h2 : inCtxTable { s with mem := mset 0 pa b s.mem } qa = false := hq
  rw [h1]
  simp only [physByte, h2, hq, Bool.false_eq_true, if_false, mget_mset]

theorem wf_setPhysByte {s : State} (pa : Nat) (b : Byte) (h : Memory.wf s.mem) : Memory.wf (setPhysByte s pa b).mem := by
  unfold setPhysByte; split
  · exact h
  · exact mwf_mset pa b h

/-! ## Several bytes -/

/-- Two states that differ in memory and the context table alone. -/
def onlyMem (s t : State) : Prop := t = { s with mem := t.mem, ctx := t.ctx }

theorem onlyMem_trans {s t u : State} (h1 : onlyMem s t) (h2 : onlyMem t u) : onlyMem s u := by
  unfold onlyMem at *
  rw [h2, h1]

theorem setPhysBytes_only (s : State) (pa : Nat) (bs : List Byte) : onlyMem s (setPhysBytes s pa bs) := by
  induction bs generalizing s pa with
  | nil => rfl
  | cons b bs ih => exact onlyMem_trans (setPhysByte_only s pa b) (ih (setPhysByte s pa b) (pa + 1))

theorem wf_setPhysBytes {s : State} (pa : Nat) (bs : List Byte) (h : Memory.wf s.mem) :
    Memory.wf (setPhysBytes s pa bs).mem := by
  induction bs generalizing s pa with
  | nil => exact h
  | cons b bs ih => exact ih (pa + 1) (wf_setPhysByte pa b h)

theorem wf_setPhysNat {s : State} (pa n x : Nat) (h : Memory.wf s.mem) : Memory.wf (setPhysNat s pa n x).mem :=
  wf_setPhysBytes pa _ h

theorem wf_physWrite {s : State} (pa : Nat) (bs : List Byte) (h : Memory.wf s.mem) : Memory.wf (physWrite s pa bs).mem := by
  unfold physWrite; dsimp only; split <;> exact wf_setPhysBytes pa bs h

/-- Operations that each keep memory's form keep it one after another. -/
theorem wf_foldl {α : Type} (xs : List α) (f : State → α → State) (hf : ∀ s x, Memory.wf s.mem → Memory.wf (f s x).mem)
    {s : State} (h : Memory.wf s.mem) : Memory.wf (xs.foldl f s).mem := by
  induction xs generalizing s with
  | nil => exact h
  | cons x xs ih => exact ih (hf s x h)

/-! ## Operations that clear memory -/

theorem wf_filter {m : List Host.Cell} (p : Host.Cell → Bool) (h : Memory.wf m) : Memory.wf (m.filter p) := mwf_filter p h

theorem wf_freeSurfaces {s : State} (cid : Nat) (h : Memory.wf s.mem) : Memory.wf (freeSurfaces s cid).mem := wf_filter _ h

theorem keysAbove_filterMap {a : Option Nat} {l : List Host.Cell} (f : Host.Cell → Option Host.Cell)
    (hf : ∀ e ∈ l, ∀ u, f e = some u → u.1 = e.1) (hl : keysAbove a l = true) : keysAbove a (l.filterMap f) = true := by
  induction l generalizing a with
  | nil => cases a <;> rfl
  | cons e l ih =>
    obtain ⟨j, v⟩ := e
    have hf2 : ∀ e ∈ l, ∀ u, f e = some u → u.1 = e.1 := fun e he => hf e (List.mem_cons_of_mem _ he)
    rw [List.filterMap_cons]
    cases hu : f (j, v) with
    | none =>
      refine ih hf2 (keysAbove_mono ?_ (keysAbove_tail hl))
      intro x hx; subst hx; exact ⟨j, rfl, Nat.le_of_lt (keysAbove_head hl)⟩
    | some u =>
      obtain ⟨k, w⟩ := u
      obtain rfl : k = j := hf _ (List.mem_cons_self ..) _ hu
      refine keysAbove_cons ?_ (ih hf2 (keysAbove_tail hl))
      intro x hx; subst hx; exact keysAbove_head hl

/-- Changing bytes and dropping cells keeps the form, where no byte becomes what an unlisted address reads. -/
theorem wf_filterMap {m : List Host.Cell} (f : Host.Cell → Option Host.Cell)
    (hf : ∀ e u, e.2 ≠ 0 → f e = some u → u.1 = e.1 ∧ u.2 ≠ 0) (h : Memory.wf m) : Memory.wf (m.filterMap f) := by
  simp only [Memory.wf, mwf, Bool.and_eq_true, List.all_eq_true, decide_eq_true_eq] at h ⊢
  refine ⟨keysAbove_filterMap f (fun e he u hu => (hf e u (h.2 e he) hu).1) h.1, fun u hu => ?_⟩
  obtain ⟨e, he, hu⟩ := List.mem_filterMap.mp hu
  exact (hf e u (h.2 e he) hu).2

theorem wf_clearIdentifiers {s : State} (cid : Nat) (h : Memory.wf s.mem) : Memory.wf (clearIdentifiers s cid).mem := by
  refine wf_filterMap _ (fun e u he hu => ?_) h
  dsimp only at hu
  split at hu
  · split at hu
    · cases hu
    · rename_i h; cases hu; exact ⟨rfl, by simpa using h⟩
  · cases hu; exact ⟨rfl, he⟩

/-! ## Writes performed in memory -/

theorem notePast_mem (s : State) (cid icn pa : Nat) : (notePast s cid icn pa).mem = s.mem := by
  unfold notePast; split <;> rfl

theorem wf_performByte {s : State} (cid icn pa : Nat) (b : Byte) (h : Memory.wf s.mem) :
    Memory.wf (performByte s cid icn pa b).mem := by
  unfold performByte; apply wf_setPhysByte; rw [notePast_mem]; exact h

theorem sendSnoops_mem (s : State) (core team pa : Nat) : (sendSnoops s core team pa).mem = s.mem := by
  unfold sendSnoops
  generalize snoopsFor s core team pa = xs
  induction xs generalizing s with
  | nil => rfl
  | cons x xs ih => rw [List.foldl_cons, ih]

theorem keepWords_mem (s : State) (line : Nat) (bs : List (Nat × Byte)) : (keepWords s line bs).mem = s.mem := by
  unfold keepWords
  generalize bs.foldl (fun ws b => insertNat (b.1 / 4) ws) [] = ws
  suffices h : ∀ (f : Nat → Word) (t : State), (ws.foldl (fun t w => keepWord t (line / 4 + w) (f w)) t).mem = t.mem from h _ s
  intro f
  induction ws with
  | nil => exact fun _ => rfl
  | cons w ws ih => exact fun t => ih _

theorem wf_performAt {s : State} (core team cid icn line : Nat) (bs : List (Nat × Byte)) (h : Memory.wf s.mem) :
    Memory.wf (performAt s core team cid icn line bs).mem := by
  have := wf_foldl bs (fun t b => performByte t cid icn (line + b.1) b.2) (fun _ _ h => wf_performByte _ _ _ _ h)
    (s := keepWords (sendSnoops s core team line) line bs) (by rw [keepWords_mem, sendSnoops_mem]; exact h)
  unfold performAt; dsimp only; split <;> exact this

theorem wf_performBytes {s : State} (core team cid icn pa : Nat) (bs : List Byte) (h : Memory.wf s.mem) :
    Memory.wf (performBytes s core team cid icn pa bs).mem :=
  wf_foldl _ _ (fun _ _ h => wf_performAt _ _ _ _ _ _ h) h

theorem wf_revertByte {s : State} (pa : Nat) (p : Past) (h : Memory.wf s.mem) : Memory.wf (revertByte s pa p).mem := by
  unfold revertByte; dsimp only; split
  · exact wf_setPhysByte _ _ h
  · exact h

theorem wf_engineWrite {s : State} (cid icn pa : Nat) (bs : List Byte) (h : Memory.wf s.mem) :
    Memory.wf (engineWrite s cid icn pa bs).mem := wf_performBytes _ _ _ _ _ _ h

theorem logDenial_mem (s : State) (m : Master) (cid pa : Nat) (k : Access) : (logDenial s m cid pa k).mem = s.mem := rfl

theorem wf_hwWrite {s : State} (m : Master) (pa : Nat) (bs : List Byte) (h : Memory.wf s.mem) :
    Memory.wf (hwWrite s m pa bs).1.mem := by
  unfold hwWrite; split
  · exact wf_performBytes _ _ _ _ _ _ h
  · exact h

/-! ## Write-backs -/

theorem wf_performBack {s : State} (r : Request) (h : Memory.wf s.mem) : Memory.wf (performBack s r).mem := by
  unfold performBack; split
  · exact h
  · split
    · dsimp only; split <;> exact h
    · exact wf_performAt _ _ _ _ _ _ h

theorem wf_landRequests {s : State} (core : Nat) (sel : Nat × Request → Bool) (h : Memory.wf s.mem) :
    Memory.wf (landRequests s core sel).mem :=
  wf_foldl _ _ (fun _ r h => wf_performBack r.2 h) h

theorem wf_flushCells {s : State} (core : Nat) (sel : Nat × L1Cell → Bool) (h : Memory.wf s.mem) :
    Memory.wf (flushCells s core sel).mem :=
  wf_foldl _ _ (fun _ _ h => wf_foldl _ _ (fun _ r h => wf_performBack r h) h) (wf_landRequests core _ h)

theorem wf_flushCore {s : State} (core : Nat) (h : Memory.wf s.mem) : Memory.wf (flushCore s core).mem :=
  wf_flushCells core _ (wf_landRequests core _ h)

theorem wf_flushLine {s : State} (core pa : Nat) (h : Memory.wf s.mem) : Memory.wf (flushLine s core pa).mem :=
  wf_flushCells core _ (wf_landRequests core _ h)

/-- What a release performs keeps the form (R203). -/
theorem wf_flushSeen {s : State} (core : Nat) (sel : List Nat → Bool) (h : Memory.wf s.mem) :
    Memory.wf (flushSeen s core sel).mem :=
  wf_flushCells core _ (wf_landRequests core _ h)

theorem wf_writePast {s : State} (core team cid icn pa : Nat) (bs : List Byte) (h : Memory.wf s.mem) :
    Memory.wf (writePast s core team cid icn pa bs).mem :=
  wf_performBytes core team cid icn pa bs (wf_flushLine core pa h)

/-! ## Accesses of a path -/

theorem l1Store_mem (s : State) (core cid icn pa : Nat) (w : Option (Nat × Nat)) (ts : List Nat) (bs : List Byte) :
    (l1Store s core cid icn pa w ts bs).mem = s.mem := by
  induction bs generalizing s pa with
  | nil => rfl
  | cons b bs ih => simp only [l1Store, ih]

/-- A store that stays in a first-level cache leaves memory as it is; one past it keeps its form. -/
theorem wf_storeNormal {s : State} (who : Who) (pa : Nat) (bs : List Byte) (hint : Hint) (h : Memory.wf s.mem) :
    Memory.wf (storeNormal s who pa bs hint).mem := by
  unfold storeNormal; split
  · exact wf_writePast _ _ _ _ _ _ h
  · rw [l1Store_mem]; exact h

theorem askTargets_mem (s : State) (who : Who) (pa : Nat) (k : Access) : (askTargets s who pa k).1.mem = s.mem := by
  unfold askTargets; split <;> rfl

theorem wf_atomicNormal {s : State} (who : Who) (pa w op v c : Nat) (h : Memory.wf s.mem) :
    Memory.wf (atomicNormal s who pa w op v c).1.mem := by
  have h0 : Memory.wf (askTargets s who pa .atomic).1.mem := by rw [askTargets_mem]; exact h
  unfold atomicNormal
  split
  · rename_i t ht; rw [ht] at h0; exact h0
  · rename_i t ht
    rw [ht] at h0
    split
    · exact h0
    · dsimp only
      have h1 : Memory.wf (flushLine (touchSlice t pa (classOf t (some (who.team, 0))) (some (who.cid, who.icn))) who.core pa).mem :=
        wf_flushLine _ _ h0
      split
      · exact h1
      · exact wf_performBytes _ _ _ _ _ _ h1

/-! ## Surfaces and save areas -/

theorem wf_writePieces {s : State} (tick cid icn tile : Nat) (ps : List Nat) (h : Memory.wf s.mem) :
    Memory.wf (writePieces s tick cid icn tile ps).mem :=
  wf_foldl _ _ (fun _ _ h => wf_performBytes _ _ _ _ _ _ h) h

theorem wf_unpin {s : State} (stack cid sid : Nat) (h : Memory.wf s.mem) : Memory.wf (unpin s stack cid sid).mem :=
  wf_hwWrite _ _ _ h

theorem wf_writeImage {s : State} (t : Team) (h : Memory.wf s.mem) : Memory.wf (writeImage s t).mem := by
  unfold writeImage
  dsimp only
  apply wf_foldl
  · intro u p hu
    unfold putPart; split
    · exact hu
    · exact wf_setPhysNat _ _ _ hu
  · exact wf_filter _ h

end Sys2Proof.Laws
end

