-- ==== Sys2Proof/Laws/PerInstr.lean ====
section
/-!
SUPPORT. Laws of the instructions as syntax, one lemma per constructor. `Assigned`: the fields that an instruction
stands for carry an opcode that Table 1.9 or Table 1.10 assigns, with the length that it gives, and no guard where R20
allows none unless the instruction holds one.
-/

namespace Sys2Proof.Laws.Assigned

open Sys2Proof

/-- The opcode of an instruction is assigned, and X agrees with its length (R8, R24). -/
def Statement (i : Instr) : Prop := ∀ f, i.fields = some f → lengthOf f.dom f.op.toNat = some f.x

/-- The same of the fields of each layout. -/
theorem of_std {dom : Bool} {op : BitVec 8} (x : Std) (h : lengthOf dom op.toNat = some true) :
    lengthOf (x.toFields dom op).dom (x.toFields dom op).op.toNat = some (x.toFields dom op).x := by
  unfold Std.toFields headFields; cases x.g <;> exact h
theorem of_mem {dom : Bool} {op : BitVec 8} (x : Mem) (h : lengthOf dom op.toNat = some true) :
    lengthOf (x.toFields dom op).dom (x.toFields dom op).op.toNat = some (x.toFields dom op).x := by
  unfold Mem.toFields headFields; cases x.g <;> exact h
theorem of_one {dom : Bool} {op : BitVec 8} (x : One) (h : lengthOf dom op.toNat = some false) :
    lengthOf (x.toFields dom op).dom (x.toFields dom op).op.toNat = some (x.toFields dom op).x := by
  unfold One.toFields headFields; cases x.g <;> exact h
theorem of_imm {dom : Bool} {op : BitVec 8} (x : Imm) (h : lengthOf dom op.toNat = some true) :
    lengthOf (x.toFields dom op).dom (x.toFields dom op).op.toNat = some (x.toFields dom op).x := by
  unfold Imm.toFields headFields; cases x.g <;> exact h

theorem mov : ∀ x, Statement (.mov x) := by rintro x f ⟨⟩; exact of_std x rfl
theorem movi : ∀ x, Statement (.movi x) := by rintro x f ⟨⟩; exact of_imm x rfl
theorem movs : ∀ x, Statement (.movs x) := by rintro x f ⟨⟩; exact of_one x rfl
theorem rdlane : ∀ x, Statement (.rdlane x) := by rintro x f ⟨⟩; exact of_std x rfl
theorem wrlane : ∀ x, Statement (.wrlane x) := by rintro x f ⟨⟩; exact of_std x rfl
theorem lxch : ∀ x, Statement (.lxch x) := by rintro x f ⟨⟩; exact of_std x rfl
theorem pfold : ∀ x, Statement (.pfold x) := by rintro x f ⟨⟩; exact of_std x rfl
theorem matchv : ∀ x, Statement (.matchv x) := by rintro x f ⟨⟩; exact of_std x rfl
theorem redux : ∀ x, Statement (.redux x) := by rintro x f ⟨⟩; exact of_std x rfl
theorem plop : ∀ x, Statement (.plop x) := by rintro x f ⟨⟩; exact of_std x rfl
theorem pmask : ∀ x, Statement (.pmask x) := by rintro x f ⟨⟩; exact of_std x rfl
theorem pset : ∀ x, Statement (.pset x) := by rintro x f ⟨⟩; exact of_std x rfl
theorem chk : ∀ x, Statement (.chk x) := by rintro x f ⟨⟩; exact of_std x rfl
theorem ptest : ∀ x, Statement (.ptest x) := by rintro x f ⟨⟩; exact of_std x rfl
theorem pscrub : ∀ x, Statement (.pscrub x) := by rintro x f ⟨⟩; exact of_std x rfl
theorem iadd : ∀ x, Statement (.iadd x) := by rintro x f ⟨⟩; exact of_std x rfl
theorem isub : ∀ x, Statement (.isub x) := by rintro x f ⟨⟩; exact of_std x rfl
theorem iaddc : ∀ x, Statement (.iaddc x) := by rintro x f ⟨⟩; exact of_std x rfl
theorem isubb : ∀ x, Statement (.isubb x) := by rintro x f ⟨⟩; exact of_std x rfl
theorem imul : ∀ x, Statement (.imul x) := by rintro x f ⟨⟩; exact of_std x rfl
theorem imulhi : ∀ x, Statement (.imulhi x) := by rintro x f ⟨⟩; exact of_std x rfl
theorem imad : ∀ x, Statement (.imad x) := by rintro x f ⟨⟩; exact of_std x rfl
theorem imadw : ∀ x, Statement (.imadw x) := by rintro x f ⟨⟩; exact of_std x rfl
theorem iabs : ∀ x, Statement (.iabs x) := by rintro x f ⟨⟩; exact of_std x rfl
theorem ineg : ∀ x, Statement (.ineg x) := by rintro x f ⟨⟩; exact of_std x rfl
theorem imin : ∀ x, Statement (.imin x) := by rintro x f ⟨⟩; exact of_std x rfl
theorem imax : ∀ x, Statement (.imax x) := by rintro x f ⟨⟩; exact of_std x rfl
theorem shl : ∀ x, Statement (.shl x) := by rintro x f ⟨⟩; exact of_std x rfl
theorem shr : ∀ x, Statement (.shr x) := by rintro x f ⟨⟩; exact of_std x rfl
theorem sra : ∀ x, Statement (.sra x) := by rintro x f ⟨⟩; exact of_std x rfl
theorem rot : ∀ x, Statement (.rot x) := by rintro x f ⟨⟩; exact of_std x rfl
theorem and : ∀ x, Statement (.and x) := by rintro x f ⟨⟩; exact of_std x rfl
theorem or : ∀ x, Statement (.or x) := by rintro x f ⟨⟩; exact of_std x rfl
theorem xor : ∀ x, Statement (.xor x) := by rintro x f ⟨⟩; exact of_std x rfl
theorem not : ∀ x, Statement (.not x) := by rintro x f ⟨⟩; exact of_std x rfl
theorem blogic : ∀ x, Statement (.blogic x) := by rintro x f ⟨⟩; exact of_std x rfl
theorem popc : ∀ x, Statement (.popc x) := by rintro x f ⟨⟩; exact of_std x rfl
theorem clz : ∀ x, Statement (.clz x) := by rintro x f ⟨⟩; exact of_std x rfl
theorem ctz : ∀ x, Statement (.ctz x) := by rintro x f ⟨⟩; exact of_std x rfl
theorem brev : ∀ x, Statement (.brev x) := by rintro x f ⟨⟩; exact of_std x rfl
theorem bfe : ∀ x, Statement (.bfe x) := by rintro x f ⟨⟩; exact of_std x rfl
theorem bfi : ∀ x, Statement (.bfi x) := by rintro x f ⟨⟩; exact of_std x rfl
theorem bpick : ∀ x, Statement (.bpick x) := by rintro x f ⟨⟩; exact of_std x rfl
theorem icmp : ∀ x, Statement (.icmp x) := by rintro x f ⟨⟩; exact of_std x rfl
theorem isel : ∀ x, Statement (.isel x) := by rintro x f ⟨⟩; exact of_std x rfl
theorem lea : ∀ x, Statement (.lea x) := by rintro x f ⟨⟩; exact of_std x rfl
theorem srd : ∀ x, Statement (.srd x) := by rintro x f ⟨⟩; exact of_one x rfl
theorem fadd : ∀ x, Statement (.fadd x) := by rintro x f ⟨⟩; exact of_std x rfl
theorem fsub : ∀ x, Statement (.fsub x) := by rintro x f ⟨⟩; exact of_std x rfl
theorem fmul : ∀ x, Statement (.fmul x) := by rintro x f ⟨⟩; exact of_std x rfl
theorem ffma : ∀ x, Statement (.ffma x) := by rintro x f ⟨⟩; exact of_std x rfl
theorem fmin : ∀ x, Statement (.fmin x) := by rintro x f ⟨⟩; exact of_std x rfl
theorem fmax : ∀ x, Statement (.fmax x) := by rintro x f ⟨⟩; exact of_std x rfl
theorem fcmp : ∀ x, Statement (.fcmp x) := by rintro x f ⟨⟩; exact of_std x rfl
theorem fround : ∀ x, Statement (.fround x) := by rintro x f ⟨⟩; exact of_std x rfl
theorem fclass : ∀ x, Statement (.fclass x) := by rintro x f ⟨⟩; exact of_std x rfl
theorem fldexp : ∀ x, Statement (.fldexp x) := by rintro x f ⟨⟩; exact of_std x rfl
theorem cvt : ∀ x, Statement (.cvt x) := by rintro x f ⟨⟩; exact of_std x rfl
theorem fdivfix : ∀ x, Statement (.fdivfix x) := by rintro x f ⟨⟩; exact of_std x rfl
theorem fredux : ∀ x, Statement (.fredux x) := by rintro x f ⟨⟩; exact of_std x rfl
theorem fdp2 : ∀ x, Statement (.fdp2 x) := by rintro x f ⟨⟩; exact of_std x rfl
theorem idp4 : ∀ x, Statement (.idp4 x) := by rintro x f ⟨⟩; exact of_std x rfl
theorem lmul : ∀ x, Statement (.lmul x) := by rintro x f ⟨⟩; exact of_std x rfl
theorem frcp : ∀ x, Statement (.frcp x) := by rintro x f ⟨⟩; exact of_std x rfl
theorem frsq : ∀ x, Statement (.frsq x) := by rintro x f ⟨⟩; exact of_std x rfl
theorem fsqrt : ∀ x, Statement (.fsqrt x) := by rintro x f ⟨⟩; exact of_std x rfl
theorem fexp2 : ∀ x, Statement (.fexp2 x) := by rintro x f ⟨⟩; exact of_std x rfl
theorem flog2 : ∀ x, Statement (.flog2 x) := by rintro x f ⟨⟩; exact of_std x rfl
theorem fsin : ∀ x, Statement (.fsin x) := by rintro x f ⟨⟩; exact of_std x rfl
theorem fcos : ∀ x, Statement (.fcos x) := by rintro x f ⟨⟩; exact of_std x rfl
theorem pkop : ∀ x, Statement (.pkop x) := by rintro x f ⟨⟩; exact of_std x rfl
theorem pkmul : ∀ x, Statement (.pkmul x) := by rintro x f ⟨⟩; exact of_std x rfl
theorem pkfma : ∀ x, Statement (.pkfma x) := by rintro x f ⟨⟩; exact of_std x rfl
theorem ld : ∀ x, Statement (.ld x) := by rintro x f ⟨⟩; exact of_mem x rfl
theorem st : ∀ x, Statement (.st x) := by rintro x f ⟨⟩; exact of_mem x rfl
theorem atom : ∀ x, Statement (.atom x) := by rintro x f ⟨⟩; exact of_mem x rfl
theorem red : ∀ x, Statement (.red x) := by rintro x f ⟨⟩; exact of_mem x rfl
theorem pf : ∀ x, Statement (.pf x) := by rintro x f ⟨⟩; exact of_mem x rfl
theorem fence : ∀ x, Statement (.fence x) := by rintro x f ⟨⟩; exact of_mem x rfl
theorem ldl : ∀ x, Statement (.ldl x) := by rintro x f ⟨⟩; exact of_std x rfl
theorem ldlAddr : ∀ x, Statement (.ldlAddr x) := by rintro x f ⟨⟩; exact of_std x rfl
theorem stl : ∀ x, Statement (.stl x) := by rintro x f ⟨⟩; exact of_std x rfl
theorem atml : ∀ x, Statement (.atml x) := by rintro x f ⟨⟩; exact of_std x rfl
theorem cpl : ∀ x, Statement (.cpl x) := by rintro x f ⟨⟩; exact of_std x rfl
theorem cpxExpand : ∀ x, Statement (.cpxExpand x) := by rintro x f ⟨⟩; exact of_std x rfl
theorem cpxCompact : ∀ x, Statement (.cpxCompact x) := by rintro x f ⟨⟩; exact of_std x rfl
theorem cpz : ∀ x, Statement (.cpz x) := by rintro x f ⟨⟩; exact of_std x rfl
theorem tdrain : ∀ x, Statement (.tdrain x) := by rintro x f ⟨⟩; exact of_std x rfl
theorem tfeed : ∀ x, Statement (.tfeed x) := by rintro x f ⟨⟩; exact of_std x rfl
theorem sfblend : ∀ x, Statement (.sfblend x) := by rintro x f ⟨⟩; exact of_std x rfl
theorem sfdepth : ∀ x, Statement (.sfdepth x) := by rintro x f ⟨⟩; exact of_std x rfl
theorem sfld : ∀ x, Statement (.sfld x) := by rintro x f ⟨⟩; exact of_std x rfl
theorem sfst : ∀ x, Statement (.sfst x) := by rintro x f ⟨⟩; exact of_std x rfl
theorem tex : ∀ x, Statement (.tex x) := by rintro x f ⟨⟩; exact of_std x rfl
theorem texg : ∀ x, Statement (.texg x) := by rintro x f ⟨⟩; exact of_std x rfl
theorem texq : ∀ x, Statement (.texq x) := by rintro x f ⟨⟩; exact of_std x rfl
theorem trace : ∀ x, Statement (.trace x) := by rintro x f ⟨⟩; exact of_std x rfl
theorem bra : ∀ x, Statement (.bra x) := by rintro x f ⟨⟩; exact of_imm x rfl
theorem brx : ∀ x, Statement (.brx x) := by rintro x f ⟨⟩; exact of_imm x rfl
theorem bri : ∀ x, Statement (.bri x) := by rintro x f ⟨⟩; exact of_one x rfl
theorem call : ∀ x, Statement (.call x) := by rintro x f ⟨⟩; exact of_imm x rfl
theorem ret : ∀ x, Statement (.ret x) := by rintro x f ⟨⟩; exact of_one x rfl
theorem setmt : ∀ x, Statement (.setmt x) := by rintro x f ⟨⟩; exact of_imm x rfl
theorem setmtR : ∀ x, Statement (.setmtR x) := by rintro x f ⟨⟩; exact of_imm x rfl
theorem exit : ∀ x, Statement (.exit x) := by rintro x f ⟨⟩; exact of_one x rfl
theorem nop : ∀ x, Statement (.nop x) := by rintro x f ⟨⟩; exact of_one x rfl
theorem yld : ∀ x, Statement (.yld x) := by rintro x f ⟨⟩; exact of_one x rfl
theorem brk : ∀ x, Statement (.brk x) := by rintro x f ⟨⟩; exact of_one x rfl
theorem movU : ∀ x, Statement (.movU x) := by rintro x f ⟨⟩; exact of_one x rfl
theorem moviU : ∀ x, Statement (.moviU x) := by rintro x f ⟨⟩; exact of_imm x rfl
theorem movih : ∀ x, Statement (.movih x) := by rintro x f ⟨⟩; exact of_imm x rfl
theorem ssr : ∀ x, Statement (.ssr x) := by rintro x f ⟨⟩; exact of_one x rfl
theorem swr : ∀ x, Statement (.swr x) := by rintro x f ⟨⟩; exact of_one x rfl
theorem plopU : ∀ x, Statement (.plopU x) := by rintro x f ⟨⟩; exact of_std x rfl
theorem iaddU : ∀ x, Statement (.iaddU x) := by rintro x f ⟨⟩; exact of_std x rfl
theorem isubU : ∀ x, Statement (.isubU x) := by rintro x f ⟨⟩; exact of_std x rfl
theorem iaddcU : ∀ x, Statement (.iaddcU x) := by rintro x f ⟨⟩; exact of_std x rfl
theorem isubbU : ∀ x, Statement (.isubbU x) := by rintro x f ⟨⟩; exact of_std x rfl
theorem imulU : ∀ x, Statement (.imulU x) := by rintro x f ⟨⟩; exact of_std x rfl
theorem imulhiU : ∀ x, Statement (.imulhiU x) := by rintro x f ⟨⟩; exact of_std x rfl
theorem imadU : ∀ x, Statement (.imadU x) := by rintro x f ⟨⟩; exact of_std x rfl
theorem imadwU : ∀ x, Statement (.imadwU x) := by rintro x f ⟨⟩; exact of_std x rfl
theorem iabsU : ∀ x, Statement (.iabsU x) := by rintro x f ⟨⟩; exact of_std x rfl
theorem inegU : ∀ x, Statement (.inegU x) := by rintro x f ⟨⟩; exact of_std x rfl
theorem iminU : ∀ x, Statement (.iminU x) := by rintro x f ⟨⟩; exact of_std x rfl
theorem imaxU : ∀ x, Statement (.imaxU x) := by rintro x f ⟨⟩; exact of_std x rfl
theorem shlU : ∀ x, Statement (.shlU x) := by rintro x f ⟨⟩; exact of_std x rfl
theorem shrU : ∀ x, Statement (.shrU x) := by rintro x f ⟨⟩; exact of_std x rfl
theorem sraU : ∀ x, Statement (.sraU x) := by rintro x f ⟨⟩; exact of_std x rfl
theorem rotU : ∀ x, Statement (.rotU x) := by rintro x f ⟨⟩; exact of_std x rfl
theorem andU : ∀ x, Statement (.andU x) := by rintro x f ⟨⟩; exact of_std x rfl
theorem orU : ∀ x, Statement (.orU x) := by rintro x f ⟨⟩; exact of_std x rfl
theorem xorU : ∀ x, Statement (.xorU x) := by rintro x f ⟨⟩; exact of_std x rfl
theorem notU : ∀ x, Statement (.notU x) := by rintro x f ⟨⟩; exact of_std x rfl
theorem blogicU : ∀ x, Statement (.blogicU x) := by rintro x f ⟨⟩; exact of_std x rfl
theorem popcU : ∀ x, Statement (.popcU x) := by rintro x f ⟨⟩; exact of_std x rfl
theorem clzU : ∀ x, Statement (.clzU x) := by rintro x f ⟨⟩; exact of_std x rfl
theorem ctzU : ∀ x, Statement (.ctzU x) := by rintro x f ⟨⟩; exact of_std x rfl
theorem brevU : ∀ x, Statement (.brevU x) := by rintro x f ⟨⟩; exact of_std x rfl
theorem bfeU : ∀ x, Statement (.bfeU x) := by rintro x f ⟨⟩; exact of_std x rfl
theorem bfiU : ∀ x, Statement (.bfiU x) := by rintro x f ⟨⟩; exact of_std x rfl
theorem bpickU : ∀ x, Statement (.bpickU x) := by rintro x f ⟨⟩; exact of_std x rfl
theorem icmpU : ∀ x, Statement (.icmpU x) := by rintro x f ⟨⟩; exact of_std x rfl
theorem iselU : ∀ x, Statement (.iselU x) := by rintro x f ⟨⟩; exact of_std x rfl
theorem leaU : ∀ x, Statement (.leaU x) := by rintro x f ⟨⟩; exact of_std x rfl
theorem sld : ∀ x, Statement (.sld x) := by rintro x f ⟨⟩; exact of_mem x rfl
theorem sst : ∀ x, Statement (.sst x) := by rintro x f ⟨⟩; exact of_mem x rfl
theorem satom : ∀ x, Statement (.satom x) := by rintro x f ⟨⟩; exact of_mem x rfl
theorem fenceU : ∀ x, Statement (.fenceU x) := by rintro x f ⟨⟩; exact of_mem x rfl
theorem mon : ∀ x, Statement (.mon x) := by rintro x f ⟨⟩; exact of_std x rfl
theorem monw : ∀ x, Statement (.monw x) := by rintro x f ⟨⟩; exact of_std x rfl
theorem kmap : ∀ x, Statement (.kmap x) := by rintro x f ⟨⟩; exact of_std x rfl
theorem kunmap : ∀ x, Statement (.kunmap x) := by rintro x f ⟨⟩; exact of_std x rfl
theorem kwb : ∀ x, Statement (.kwb x) := by rintro x f ⟨⟩; exact of_std x rfl
theorem kwbAll : ∀ x, Statement (.kwbAll x) := by rintro x f ⟨⟩; exact of_std x rfl
theorem kinv : ∀ x, Statement (.kinv x) := by rintro x f ⟨⟩; exact of_std x rfl
theorem cpst : ∀ x, Statement (.cpst x) := by rintro x f ⟨⟩; exact of_std x rfl
theorem cpw : ∀ x, Statement (.cpw x) := by rintro x f ⟨⟩; exact of_std x rfl
theorem sfalloc : ∀ x, Statement (.sfalloc x) := by rintro x f ⟨⟩; exact of_std x rfl
theorem sffree : ∀ x, Statement (.sffree x) := by rintro x f ⟨⟩; exact of_std x rfl
theorem sfpin : ∀ x, Statement (.sfpin x) := by rintro x f ⟨⟩; exact of_std x rfl
theorem sfpinUnpin : ∀ x, Statement (.sfpinUnpin x) := by rintro x f ⟨⟩; exact of_std x rfl
theorem sfevict : ∀ x, Statement (.sfevict x) := by rintro x f ⟨⟩; exact of_std x rfl
theorem sfmap : ∀ x, Statement (.sfmap x) := by rintro x f ⟨⟩; exact of_std x rfl
theorem vqpush : ∀ x, Statement (.vqpush x) := by rintro x f ⟨⟩; exact of_std x rfl
theorem vqfence : ∀ x, Statement (.vqfence x) := by rintro x f ⟨⟩; exact of_one x rfl
theorem rsbind : ∀ x, Statement (.rsbind x) := by rintro x f ⟨⟩; exact of_std x rfl
theorem ubra : ∀ x, Statement (.ubra x) := by rintro x f ⟨⟩; exact of_imm x rfl
theorem ujmp : ∀ x, Statement (.ujmp x) := by rintro x f ⟨⟩; exact of_one x rfl
theorem ucall : ∀ x, Statement (.ucall x) := by rintro x f ⟨⟩; exact of_imm x rfl
theorem uret : ∀ x, Statement (.uret x) := by rintro x f ⟨⟩; exact of_one x rfl
theorem loop : ∀ x, Statement (.loop x) := by rintro x f ⟨⟩; exact of_imm x rfl
theorem exitU : ∀ x, Statement (.exitU x) := by rintro x f ⟨⟩; exact of_one x rfl
theorem nopU : ∀ x, Statement (.nopU x) := by rintro x f ⟨⟩; exact of_one x rfl
theorem hwait : ∀ x, Statement (.hwait x) := by rintro x f ⟨⟩; exact of_one x rfl
theorem brkU : ∀ x, Statement (.brkU x) := by rintro x f ⟨⟩; exact of_one x rfl
theorem trap : ∀ x, Statement (.trap x) := by rintro x f ⟨⟩; exact of_one x rfl
theorem htest : ∀ x, Statement (.htest x) := by rintro x f ⟨⟩; exact of_one x rfl
theorem hcancel : ∀ x, Statement (.hcancel x) := by rintro x f ⟨⟩; exact of_one x rfl
theorem region : ∀ x, Statement (.region x) := by rintro x f ⟨⟩; exact of_one x rfl
theorem fcont : ∀ x, Statement (.fcont x) := by rintro x f ⟨⟩; exact of_imm x rfl
theorem fcontClr : ∀ x, Statement (.fcontClr x) := by rintro x f ⟨⟩; exact of_imm x rfl
theorem fret : ∀ x, Statement (.fret x) := by rintro x f ⟨⟩; exact of_one x rfl
theorem binit : ∀ x, Statement (.binit x) := by rintro x f ⟨⟩; exact of_std x rfl
theorem barr : ∀ x, Statement (.barr x) := by rintro x f ⟨⟩; exact of_std x rfl
theorem bwait : ∀ x, Statement (.bwait x) := by rintro x f ⟨⟩; exact of_std x rfl
theorem barw : ∀ x, Statement (.barw x) := by rintro x f ⟨⟩; exact of_std x rfl
theorem binv : ∀ x, Statement (.binv x) := by rintro x f ⟨⟩; exact of_std x rfl
theorem btest : ∀ x, Statement (.btest x) := by rintro x f ⟨⟩; exact of_std x rfl
theorem rgwait : ∀ x, Statement (.rgwait x) := by rintro x f ⟨⟩; exact of_std x rfl
theorem rgwaitTest : ∀ x, Statement (.rgwaitTest x) := by rintro x f ⟨⟩; exact of_std x rfl
theorem rgadv : ∀ x, Statement (.rgadv x) := by rintro x f ⟨⟩; exact of_std x rfl
theorem gdec : ∀ x, Statement (.gdec x) := by rintro x f ⟨⟩; exact of_std x rfl
theorem gadd : ∀ x, Statement (.gadd x) := by rintro x f ⟨⟩; exact of_std x rfl
theorem gsig : ∀ x, Statement (.gsig x) := by rintro x f ⟨⟩; exact of_std x rfl
theorem mlease : ∀ x, Statement (.mlease x) := by rintro x f ⟨⟩; exact of_std x rfl
theorem mfree : ∀ x, Statement (.mfree x) := by rintro x f ⟨⟩; exact of_one x rfl
theorem mma : ∀ x, Statement (.mma x) := by rintro x f ⟨⟩; exact of_std x rfl
theorem mmaResume : ∀ x, Statement (.mmaResume x) := by rintro x f ⟨⟩; exact of_std x rfl
theorem mmas : ∀ x, Statement (.mmas x) := by rintro x f ⟨⟩; exact of_std x rfl
theorem mmo : ∀ x, Statement (.mmo x) := by rintro x f ⟨⟩; exact of_std x rfl
theorem mzero : ∀ x, Statement (.mzero x) := by rintro x f ⟨⟩; exact of_std x rfl
theorem mld : ∀ x, Statement (.mld x) := by rintro x f ⟨⟩; exact of_std x rfl
theorem mst : ∀ x, Statement (.mst x) := by rintro x f ⟨⟩; exact of_std x rfl
theorem mready : ∀ x, Statement (.mready x) := by rintro x f ⟨⟩; exact of_one x rfl
theorem mrow : ∀ x, Statement (.mrow x) := by rintro x f ⟨⟩; exact of_one x rfl
theorem tidset : ∀ x, Statement (.tidset x) := by rintro x f ⟨⟩; exact of_std x rfl
theorem tidinv : ∀ x, Statement (.tidinv x) := by rintro x f ⟨⟩; exact of_one x rfl
theorem tidq : ∀ x, Statement (.tidq x) := by rintro x f ⟨⟩; exact of_std x rfl
theorem tidqState : ∀ x, Statement (.tidqState x) := by rintro x f ⟨⟩; exact of_std x rfl
theorem coldecl : ∀ x, Statement (.coldecl x) := by rintro x f ⟨⟩; exact of_std x rfl
theorem colag : ∀ x, Statement (.colag x) := by rintro x f ⟨⟩; exact of_std x rfl
theorem colrs : ∀ x, Statement (.colrs x) := by rintro x f ⟨⟩; exact of_std x rfl
theorem colaa : ∀ x, Statement (.colaa x) := by rintro x f ⟨⟩; exact of_std x rfl
theorem colbar : ∀ x, Statement (.colbar x) := by rintro x f ⟨⟩; exact of_std x rfl
theorem cprio : ∀ x, Statement (.cprio x) := by rintro x f ⟨⟩; exact of_std x rfl
theorem rfe : ∀ x, Statement (.rfe x) := by rintro x f ⟨⟩; exact of_one x rfl
theorem ckill : ∀ x, Statement (.ckill x) := by rintro x f ⟨⟩; exact of_one x rfl
theorem crcl : ∀ x, Statement (.crcl x) := by rintro x f ⟨⟩; exact of_one x rfl
theorem tlbinvPage : ∀ x, Statement (.tlbinvPage x) := by rintro x f ⟨⟩; exact of_std x rfl
theorem tlbinvRange : ∀ x, Statement (.tlbinvRange x) := by rintro x f ⟨⟩; exact of_std x rfl
theorem tlbinvCid : ∀ x, Statement (.tlbinvCid x) := by rintro x f ⟨⟩; exact of_std x rfl
theorem tlbinvAll : ∀ x, Statement (.tlbinvAll x) := by rintro x f ⟨⟩; exact of_std x rfl
theorem pgprobe : ∀ x, Statement (.pgprobe x) := by rintro x f ⟨⟩; exact of_std x rfl
theorem ctxcmdOpen : ∀ x0 x1 x2 x3, Statement (.ctxcmdOpen x0 x1 x2 x3) := by intros; rintro f ⟨⟩
theorem ctxcmdKill : ∀ x0 x1 x2 x3, Statement (.ctxcmdKill x0 x1 x2 x3) := by intros; rintro f ⟨⟩
theorem ctxcmdKillretire : ∀ x0 x1 x2 x3, Statement (.ctxcmdKillretire x0 x1 x2 x3) := by intros; rintro f ⟨⟩
theorem ctxcmdReclaim : ∀ x0 x1 x2 x3, Statement (.ctxcmdReclaim x0 x1 x2 x3) := by intros; rintro f ⟨⟩
theorem ctxcmdReserved : ∀ x0 x1 x2 x3 x4, Statement (.ctxcmdReserved x0 x1 x2 x3 x4) := by intros; rintro f ⟨⟩
theorem ctxcmdComplete : ∀ x0, Statement (.ctxcmdComplete x0) := by intros; rintro f ⟨⟩
theorem reclaimQuiet : ∀ x0, Statement (.reclaimQuiet x0) := by intros; rintro f ⟨⟩
theorem incarnationUpdate : ∀ x0, Statement (.incarnationUpdate x0) := by intros; rintro f ⟨⟩
theorem incarnationAck : ∀ x0, Statement (.incarnationAck x0) := by intros; rintro f ⟨⟩
theorem targetRequest : ∀ x0, Statement (.targetRequest x0) := by intros; rintro f ⟨⟩
theorem responseArrival : ∀ x0, Statement (.responseArrival x0) := by intros; rintro f ⟨⟩
theorem storeDenialReport : ∀ x0, Statement (.storeDenialReport x0) := by intros; rintro f ⟨⟩
theorem l1Eviction : ∀ x0 x1, Statement (.l1Eviction x0 x1) := by intros; rintro f ⟨⟩
theorem snoopInvalidate : ∀ x0, Statement (.snoopInvalidate x0) := by intros; rintro f ⟨⟩
theorem sliceAgeTimeout : ∀ x0, Statement (.sliceAgeTimeout x0) := by intros; rintro f ⟨⟩
theorem nodeNotification : ∀ x0, Statement (.nodeNotification x0) := by intros; rintro f ⟨⟩
theorem instanceDequeue : ∀ x0, Statement (.instanceDequeue x0) := by intros; rintro f ⟨⟩
theorem bulkCopyComplete : ∀ x0, Statement (.bulkCopyComplete x0) := by intros; rintro f ⟨⟩
theorem instanceFinish : ∀ x0, Statement (.instanceFinish x0) := by intros; rintro f ⟨⟩
theorem bindSubmit : ∀ x0 x1 x2 x3, Statement (.bindSubmit x0 x1 x2 x3) := by intros; rintro f ⟨⟩
theorem teamEnd : ∀ x0, Statement (.teamEnd x0) := by intros; rintro f ⟨⟩
theorem starvationTimeout : ∀ x0 x1, Statement (.starvationTimeout x0 x1) := by intros; rintro f ⟨⟩
theorem pathAgeingExpiry : ∀ x0 x1 x2, Statement (.pathAgeingExpiry x0 x1 x2) := by intros; rintro f ⟨⟩
theorem satelliteForm : ∀ x0, Statement (.satelliteForm x0) := by intros; rintro f ⟨⟩
theorem spawnWaitTimeout : ∀ x0, Statement (.spawnWaitTimeout x0) := by intros; rintro f ⟨⟩
theorem barrierCopyCompletion : ∀ x0, Statement (.barrierCopyCompletion x0) := by intros; rintro f ⟨⟩
theorem pageWalkComplete : ∀ x0, Statement (.pageWalkComplete x0) := by intros; rintro f ⟨⟩
theorem faultNoticeWrite : ∀ x0, Statement (.faultNoticeWrite x0) := by intros; rintro f ⟨⟩
theorem copyPerformed : ∀ x0, Statement (.copyPerformed x0) := by intros; rintro f ⟨⟩
theorem copyFailureReport : ∀ x0, Statement (.copyFailureReport x0) := by intros; rintro f ⟨⟩
theorem stampWrite : ∀ x0, Statement (.stampWrite x0) := by intros; rintro f ⟨⟩
theorem cpwComplete : ∀ x0, Statement (.cpwComplete x0) := by intros; rintro f ⟨⟩
theorem leaseGrant : ∀ x0, Statement (.leaseGrant x0) := by intros; rintro f ⟨⟩
theorem matrixOpComplete : ∀ x0, Statement (.matrixOpComplete x0) := by intros; rintro f ⟨⟩
theorem matrixOpStop : ∀ x0, Statement (.matrixOpStop x0) := by intros; rintro f ⟨⟩
theorem collectiveComplete : ∀ x0, Statement (.collectiveComplete x0) := by intros; rintro f ⟨⟩
theorem surfaceOpApply : ∀ x0, Statement (.surfaceOpApply x0) := by intros; rintro f ⟨⟩
theorem tileSpill : ∀ x0 x1 x2, Statement (.tileSpill x0 x1 x2) := by intros; rintro f ⟨⟩
theorem tileReturn : ∀ x0 x1 x2, Statement (.tileReturn x0 x1 x2) := by intros; rintro f ⟨⟩
theorem sfevictComplete : ∀ x0, Statement (.sfevictComplete x0) := by intros; rintro f ⟨⟩
theorem pushArrival : ∀ x0, Statement (.pushArrival x0) := by intros; rintro f ⟨⟩
theorem rsbindArrival : ∀ x0, Statement (.rsbindArrival x0) := by intros; rintro f ⟨⟩
theorem sequencerDrain : ∀ x0, Statement (.sequencerDrain x0) := by intros; rintro f ⟨⟩
theorem primitiveRaster : ∀ x0, Statement (.primitiveRaster x0) := by intros; rintro f ⟨⟩
theorem pixelGroupIdle : ∀ x0 x1, Statement (.pixelGroupIdle x0 x1) := by intros; rintro f ⟨⟩
theorem pixelGroupLaunch : ∀ x0, Statement (.pixelGroupLaunch x0) := by intros; rintro f ⟨⟩
theorem textureResult : ∀ x0, Statement (.textureResult x0) := by intros; rintro f ⟨⟩
theorem traceResult : ∀ x0, Statement (.traceResult x0) := by intros; rintro f ⟨⟩
theorem monitorWake : ∀ x0 x1, Statement (.monitorWake x0 x1) := by intros; rintro f ⟨⟩
theorem regionCommit : ∀ x0 x1 x2, Statement (.regionCommit x0 x1 x2) := by intros; rintro f ⟨⟩
theorem watchdogExpiry : ∀ x0 x1, Statement (.watchdogExpiry x0 x1) := by intros; rintro f ⟨⟩
theorem preemptSave : ∀ x0 x1 x2, Statement (.preemptSave x0 x1 x2) := by intros; rintro f ⟨⟩
theorem saveComplete : ∀ x0, Statement (.saveComplete x0) := by intros; rintro f ⟨⟩
theorem serviceRetireBank : ∀ x0 x1, Statement (.serviceRetireBank x0 x1) := by intros; rintro f ⟨⟩
theorem serviceReturnBank : ∀ x0 x1, Statement (.serviceReturnBank x0 x1) := by intros; rintro f ⟨⟩
theorem serviceRetireLinkLane : ∀ x0 x1, Statement (.serviceRetireLinkLane x0 x1) := by intros; rintro f ⟨⟩
theorem serviceReturnLinkLane : ∀ x0 x1, Statement (.serviceReturnLinkLane x0 x1) := by intros; rintro f ⟨⟩
theorem serviceRetireVbusLane : ∀ x0 x1, Statement (.serviceRetireVbusLane x0 x1) := by intros; rintro f ⟨⟩
theorem serviceReturnVbusLane : ∀ x0 x1, Statement (.serviceReturnVbusLane x0 x1) := by intros; rintro f ⟨⟩
theorem serviceRetireCore : ∀ x0 x1, Statement (.serviceRetireCore x0 x1) := by intros; rintro f ⟨⟩
theorem serviceReturnCore : ∀ x0 x1, Statement (.serviceReturnCore x0 x1) := by intros; rintro f ⟨⟩
theorem serviceRetireCluster : ∀ x0 x1, Statement (.serviceRetireCluster x0 x1) := by intros; rintro f ⟨⟩
theorem serviceReturnCluster : ∀ x0 x1, Statement (.serviceReturnCluster x0 x1) := by intros; rintro f ⟨⟩
theorem serviceCommandDone : Statement .serviceCommandDone := by intros; rintro f ⟨⟩
theorem classControlWrite : ∀ x0 x1 x2 x3, Statement (.classControlWrite x0 x1 x2 x3) := by intros; rintro f ⟨⟩
theorem powerLimitWrite : ∀ x0 x1, Statement (.powerLimitWrite x0 x1) := by intros; rintro f ⟨⟩
theorem clockThrottle : ∀ x0 x1, Statement (.clockThrottle x0 x1) := by intros; rintro f ⟨⟩
theorem bankOverheat : ∀ x0, Statement (.bankOverheat x0) := by intros; rintro f ⟨⟩
theorem bankCooled : ∀ x0, Statement (.bankCooled x0) := by intros; rintro f ⟨⟩
theorem attestationRequest : ∀ x0, Statement (.attestationRequest x0) := by intros; rintro f ⟨⟩
theorem attestationDone : Statement .attestationDone := by intros; rintro f ⟨⟩
theorem registerWrite : ∀ x0 x1 x2 x3 x4, Statement (.registerWrite x0 x1 x2 x3 x4) := by intros; rintro f ⟨⟩
theorem graphPortRead : ∀ x0, Statement (.graphPortRead x0) := by intros; rintro f ⟨⟩
theorem graphPortAdd : ∀ x0 x1, Statement (.graphPortAdd x0 x1) := by intros; rintro f ⟨⟩
theorem graphPortDec : ∀ x0 x1, Statement (.graphPortDec x0 x1) := by intros; rintro f ⟨⟩
theorem hostDebugRead : ∀ x0 x1, Statement (.hostDebugRead x0 x1) := by intros; rintro f ⟨⟩
theorem hostDebugWrite : ∀ x0 x1 x2, Statement (.hostDebugWrite x0 x1 x2) := by intros; rintro f ⟨⟩
theorem hostUnsupportedRequest : ∀ x0 x1 x2 x3, Statement (.hostUnsupportedRequest x0 x1 x2 x3) := by intros; rintro f ⟨⟩
theorem remoteRequest : ∀ x0 x1 x2 x3 x4 x5 x6 x7, Statement (.remoteRequest x0 x1 x2 x3 x4 x5 x6 x7) := by intros; rintro f ⟨⟩
theorem linkTrained : ∀ x0 x1, Statement (.linkTrained x0 x1) := by intros; rintro f ⟨⟩
theorem linkRecovery : ∀ x0, Statement (.linkRecovery x0) := by intros; rintro f ⟨⟩
theorem linkRecoveryTimeout : ∀ x0, Statement (.linkRecoveryTimeout x0) := by intros; rintro f ⟨⟩
theorem linkPeerLost : ∀ x0, Statement (.linkPeerLost x0) := by intros; rintro f ⟨⟩
theorem mortarRepair : ∀ x0, Statement (.mortarRepair x0) := by intros; rintro f ⟨⟩
theorem mortarLoss : ∀ x0, Statement (.mortarLoss x0) := by intros; rintro f ⟨⟩
theorem vbusLaneRepair : ∀ x0, Statement (.vbusLaneRepair x0) := by intros; rintro f ⟨⟩
theorem vbusRetrain : ∀ x0, Statement (.vbusRetrain x0) := by intros; rintro f ⟨⟩
theorem hbmUncorrectable : ∀ x0, Statement (.hbmUncorrectable x0) := by intros; rintro f ⟨⟩
theorem boot : Statement .boot := by intros; rintro f ⟨⟩
theorem firmwareUpdate : ∀ x0, Statement (.firmwareUpdate x0) := by intros; rintro f ⟨⟩
theorem illegalEncoding : Statement .illegalEncoding := by intros; rintro f ⟨⟩
theorem instructionFetchFault : ∀ x0 x1, Statement (.instructionFetchFault x0 x1) := by intros; rintro f ⟨⟩
theorem cachesReportQuiet : ∀ x0 x1, Statement (.cachesReportQuiet x0 x1) := by intros; rintro f ⟨⟩
theorem verticalBusUnfreeze : ∀ x0, Statement (.verticalBusUnfreeze x0) := by intros; rintro f ⟨⟩
theorem mortarModuleReturn : ∀ x0, Statement (.mortarModuleReturn x0) := by intros; rintro f ⟨⟩

end Sys2Proof.Laws.Assigned
end

