-- ==== Sys2Proof/Tests/Slice0.lean ====
section
/-!
SUPPORT. Tests of one step each, with values that the spec works out or that follow from its rules by hand, and the
witnesses that the hypotheses of the statements can be met. The words of the decoding tests are the spec's worked encodings,
or are composed from its field tables by hand.
-/

set_option Elab.async false

namespace Sys2Proof.Tests

open Sys2Proof Sys2Proof.Machine Sys2Proof.Safety Sys2Proof.Claims

/-! ## Decoding -/

abbrev Decoding := Word × Word × Instr

/-- Do the words decode to the instruction? -/
def decodesTo (e : Decoding) : Bool := decodeWords e.1 e.2.1 == .instr e.2.2

/-! Operand records; what is not named is zero. -/

def std (a b : BitVec 8) (c : Src := .v 0) (e : Src := .v 0) (ty : NumType := .i32) (f : BitVec 4 := 0) (rnd : Rnd := .rne)
    (sat : Bool := false) (spec : Bool := false) (g : Option Guard := none) : Std :=
  { g := g, a := a, b := b, c := c, e := e, ty := ty, rnd := rnd, sat := sat, spec := spec, f := f }

def mem (a b : BitVec 8) (c : Src := .v 0) (e : Src := .v 0) (wid : Width := .b8) (ord : MemOrd := .plain)
    (scope : Scope := .grp) (hint : Hint := .normal) (spec : Bool := false) (g : Option Guard := none) : Mem :=
  { g := g, a := a, b := b, c := c, e := e, hint := hint, spec := spec, scope := scope, ord := ord, wid := wid }

def wd (a b : BitVec 8) (g : Option Guard := none) : One := { g := g, a := a, b := b }

def imm (a b : BitVec 8) (i : Word) (g : Option Guard := none) : Imm := { g := g, a := a, b := b, imm := i }

/-! ## A small machine: one team, one group, one path that stands at an instruction -/

/-- The first role that may issue the instruction (Table 7.1). -/
def roleFor (i : Instr) : Role :=
  match i.fields with
  | none => .vector
  | some f => (([Role.vector, .copy, .matrix] : List Role).find? fun r => roleMay r f.dom f.op.toNat).getD .vector

/-- The number of the only group: the matrix thread is group 32. -/
def numOf (i : Instr) : Nat := if roleFor i == .matrix then 32 else 0

/-- Page tables that map the first addresses, and access tables that let every core and engine use the lines of the
tables, of the code, of address 0x1000 and of the identifier region at 0x40000. -/
def ground : State :=
  { State.reset with
    mem := [(0x4000, 0x01), (0x4001, 0x80), (0x8000, 0x01), (0x8001, 0xC0), (0xC000, 0x01), (0xC002, 0x01), (0x10000, 0x3B), (0x10001, 0x40),
      (0x10002, 0x01)]
    ctx := [(0, { state := 1, ptroot := 0x4000 })]
    acl := [0, 4, 32, 33, 34, 40, 48, 49, 50, 113, 120].flatMap fun t => (List.range 8).map fun c => (t * 256 + c, { stageAcl with mclass := c }) }

/-- The path stands at the instruction, with the team and the group as edited. -/
def stand (i : Instr) (grp : Group → Group := id) (team : Team → Team := id) : State :=
  let t := team (stageTeam (roleFor i))
  issueAt { ground with teams := [(0, { t with groups := mmod (numOf i) grp t.groups })] } 0 (numOf i) 0 i.length

/-- The next state. -/
def run (i : Instr) (s : State) : State :=
  match exec i s with
  | .next t => t
  | _ => s

/-- The group after the instruction. -/
def ran (i : Instr) (grp : Group → Group := id) (team : Team → Team := id) : Group :=
  groupAt (run i (stand i grp team)) 0 (numOf i)

/-- Does the path issue the instruction's own operation? Its q-register 1 is true. -/
def issues (i : Instr) : Bool := (issueOf i (stand i fun g => g.setQ 1 (.ok true))).isSome

def registersAndLanesWords : List Decoding := [
  (0x40010200, 0x02004003, .mov (std 2 0 (c := .s 2) (ty := .n64))),
  (0x40020000, 0x00000007, .movi (imm 0 0 0x7)),
  (0x00030709, 0x00000000, .movs (wd 7 9)),
  (0x40040309, 0x05008001, .rdlane (std 3 9 (c := .imm 5) (ty := .n32))),
  (0x40050803, 0x06004003, .wrlane (std 8 3 (c := .s 6) (ty := .n64))),
  (0x40060809, 0x1020A181, .lxch (std 8 9 (c := .imm 16) (e := .imm 32) (ty := .n32) (f := 3))),
  (0x40070203, 0x00000480, .pfold (std 2 3 (f := 5))),
  (0x40080504, 0x00000001, .matchv (std 5 4 (ty := .n32))),
  (0x40090406, 0x00000102, .redux (std 4 6 (ty := .i64) (f := 2))),
  (0x400A0102, 0x03008500, .plop (std 1 2 (c := .imm 3) (f := 6))),
  (0x400B0100, 0x00008000, .pmask (std 1 0 (c := .imm 0))),
  (0x400C0507, 0x00000100, .pset (std 5 7 (f := 2))),
  (0x400D0009, 0x00000180, .chk (std 0 9 (f := 3))),
  (0x400E0208, 0x00000000, .ptest (std 2 8)),
  (0x400F0800, 0x00000080, .pscrub (std 8 0 (f := 1))),
  (0x002F0454, 0x00000000, .srd (wd 4 84))]

theorem test_decode_registers_and_lanes : ∀ e ∈ registersAndLanesWords, decodesTo e = true := by decide +kernel

theorem witness_issue_registers_and_lanes : ∀ e ∈ registersAndLanesWords, issues e.2.2 = true := by decide +kernel

def integerWords : List Decoding := [
  (0x73100405, 0xFD008000, .iadd (std 4 5 (c := .imm 253) (g := some ⟨true, 3⟩))),
  (0x40110405, 0x06004041, .isub (std 4 5 (c := .s 6) (ty := .n32) (sat := true))),
  (0x40120800, 0x04012001, .iaddc (std 8 0 (c := .v 4) (e := .imm 1) (ty := .n32))),
  (0x40130406, 0x08032003, .isubb (std 4 6 (c := .v 8) (e := .imm 3) (ty := .n64))),
  (0x40140405, 0x06000000, .imul (std 4 5 (c := .v 6))),
  (0x40150405, 0x06000001, .imulhi (std 4 5 (c := .v 6) (ty := .n32))),
  (0x40160405, 0x06076000, .imad (std 4 5 (c := .s 6) (e := .imm 7))),
  (0x40170405, 0x06080001, .imadw (std 4 5 (c := .v 6) (e := .v 8) (ty := .n32))),
  (0x40180406, 0x00000042, .iabs (std 4 6 (ty := .i64) (sat := true))),
  (0x40190405, 0x00000000, .ineg (std 4 5)),
  (0x401A0405, 0x06008000, .imin (std 4 5 (c := .imm 6))),
  (0x401B0405, 0x06000001, .imax (std 4 5 (c := .v 6) (ty := .n32))),
  (0x401C0100, 0x02008001, .shl (std 1 0 (c := .imm 2) (ty := .n32))),
  (0x401D0405, 0x06008081, .shr (std 4 5 (c := .imm 6) (ty := .n32) (f := 1))),
  (0x401E0405, 0x06000000, .sra (std 4 5 (c := .v 6))),
  (0x401F0405, 0x06008081, .rot (std 4 5 (c := .imm 6) (ty := .n32) (f := 1)))]

theorem test_decode_integer : ∀ e ∈ integerWords, decodesTo e = true := by decide +kernel

theorem witness_issue_integer : ∀ e ∈ integerWords, issues e.2.2 = true := by decide +kernel

def logicAndBitsWords : List Decoding := [
  (0x40200405, 0x06000001, .and (std 4 5 (c := .v 6) (ty := .n32))),
  (0x40210404, 0x05000001, .or (std 4 4 (c := .v 5) (ty := .n32))),
  (0x40220406, 0x08000003, .xor (std 4 6 (c := .v 8) (ty := .n64))),
  (0x40230405, 0x00000001, .not (std 4 5 (ty := .n32))),
  (0x40240405, 0x06CA2001, .blogic (std 4 5 (c := .v 6) (e := .imm 202) (ty := .n32))),
  (0x40250705, 0x00000001, .popc (std 7 5 (ty := .n32))),
  (0x40260406, 0x00000003, .clz (std 4 6 (ty := .n64))),
  (0x40270605, 0x00000001, .ctz (std 6 5 (ty := .n32))),
  (0x40280405, 0x00000001, .brev (std 4 5 (ty := .n32))),
  (0x40290405, 0x08078000, .bfe (std 4 5 (c := .imm 8) (e := .v 7))),
  (0x402A0405, 0x0807A001, .bfi (std 4 5 (c := .imm 8) (e := .imm 7) (ty := .n32))),
  (0x402B0405, 0x06071001, .bpick (std 4 5 (c := .v 6) (e := .s 7) (ty := .n32))),
  (0x402C0000, 0x00008001, .icmp (std 0 0 (c := .imm 0) (ty := .n32))),
  (0x402D0908, 0x0001A001, .isel (std 9 8 (c := .imm 0) (e := .imm 1) (ty := .n32))),
  (0x402E080C, 0x04022001, .lea (std 8 12 (c := .v 4) (e := .imm 2) (ty := .n32)))]

theorem test_decode_logic_and_bits : ∀ e ∈ logicAndBitsWords, decodesTo e = true := by decide +kernel

theorem witness_issue_logic_and_bits : ∀ e ∈ logicAndBitsWords, issues e.2.2 = true := by decide +kernel

def floatWords : List Decoding := [
  (0x40300405, 0x06000024, .fadd (std 4 5 (c := .v 6) (ty := .f32) (rnd := .rm))),
  (0x40310406, 0x08000045, .fsub (std 4 6 (c := .v 8) (ty := .f64) (sat := true))),
  (0x40320401, 0x04000004, .fmul (std 4 1 (c := .v 4) (ty := .f32))),
  (0x40332005, 0x40200004, .ffma (std 32 5 (c := .v 64) (e := .v 32) (ty := .f32))),
  (0x40340405, 0x06000004, .fmin (std 4 5 (c := .v 6) (ty := .f32))),
  (0x40350405, 0x06004004, .fmax (std 4 5 (c := .s 6) (ty := .f32))),
  (0x40360303, 0x00008404, .fcmp (std 3 3 (c := .imm 0) (ty := .f32) (f := 4))),
  (0x40370405, 0x00000094, .fround (std 4 5 (ty := .f32) (f := 1) (rnd := .rz))),
  (0x40380406, 0x00000005, .fclass (std 4 6 (ty := .f64))),
  (0x40390405, 0x06008004, .fldexp (std 4 5 (c := .imm 6) (ty := .f32))),
  (0x403A0405, 0x00012436, .cvt (std 4 5 (e := .imm 1) (ty := .f16) (f := 4) (rnd := .rp))),
  (0x403B0405, 0x06070004, .fdivfix (std 4 5 (c := .v 6) (e := .v 7) (ty := .f32))),
  (0x403C0405, 0x00000084, .fredux (std 4 5 (ty := .f32) (f := 1))),
  (0x403D0405, 0x06070007, .fdp2 (std 4 5 (c := .v 6) (e := .v 7) (ty := .bf16))),
  (0x403E0405, 0x0607004B, .idp4 (std 4 5 (c := .v 6) (e := .v 7) (ty := .i8) (sat := true))),
  (0x403F0405, 0x06302004, .lmul (std 4 5 (c := .v 6) (e := .imm 48) (ty := .f32))),
  (0x40400405, 0x00000004, .frcp (std 4 5 (ty := .f32))),
  (0x40410403, 0x00000004, .frsq (std 4 3 (ty := .f32))),
  (0x40420406, 0x00000025, .fsqrt (std 4 6 (ty := .f64) (rnd := .rm))),
  (0x40430405, 0x00000004, .fexp2 (std 4 5 (ty := .f32))),
  (0x40440405, 0x00000004, .flog2 (std 4 5 (ty := .f32))),
  (0x40450405, 0x00000004, .fsin (std 4 5 (ty := .f32))),
  (0x40460405, 0x00000004, .fcos (std 4 5 (ty := .f32))),
  (0x40480405, 0x06000496, .pkop (std 4 5 (c := .v 6) (ty := .f16) (f := 5) (rnd := .rz))),
  (0x40490405, 0x06000406, .pkmul (std 4 5 (c := .v 6) (ty := .f16) (f := 4))),
  (0x404A0405, 0x06070047, .pkfma (std 4 5 (c := .v 6) (e := .v 7) (ty := .bf16) (sat := true)))]

theorem test_decode_float : ∀ e ∈ floatWords, decodesTo e = true := by decide +kernel

theorem witness_issue_float : ∀ e ∈ floatWords, issues e.2.2 = true := by decide +kernel

def memoryWords : List Decoding := [
  (0x40500402, 0x02008152, .ld (mem 4 2 (c := .imm 2) (wid := .b32) (ord := .acq) (scope := .pkg))),
  (0x40510A06, 0x030041A3, .st (mem 10 6 (c := .s 3) (wid := .b64) (ord := .rel) (scope := .sys))),
  (0x40520502, 0x0100A132, .atom (mem 5 2 (c := .imm 1) (e := .imm 0) (wid := .b32) (ord := .ar) (scope := .die))),
  (0x40530702, 0x000AA002, .red (mem 7 2 (c := .imm 0) (e := .imm 10) (wid := .b32))),
  (0x40540002, 0x40008800, .pf (mem 0 2 (c := .imm 64) (hint := .keep))),
  (0x40550000, 0x00000140, .fence (mem 0 0 (scope := .pkg))),
  (0x40560402, 0x02008001, .ldl (std 4 2 (c := .imm 2) (ty := .n32))),
  (0x40560402, 0x00008103, .ldlAddr (std 4 2 (c := .imm 0) (ty := .n64) (f := 2))),
  (0x61572008, 0x00008081, .stl (std 32 8 (c := .imm 0) (ty := .n32) (f := 1) (g := some ⟨false, 1⟩))),
  (0x40580502, 0x03064001, .atml (std 5 2 (c := .s 3) (e := .v 6) (ty := .n32))),
  (0x40590408, 0x00000100, .cpl (std 4 8 (f := 2))),
  (0x605A0406, 0x08000008, .cpxExpand (std 4 6 (c := .v 8) (ty := .e4m3) (g := some ⟨false, 0⟩))),
  (0x405A0408, 0x0C000088, .cpxCompact (std 4 8 (c := .v 12) (ty := .e4m3) (f := 1))),
  (0x405B0400, 0x00000080, .cpz (std 4 0 (f := 1))),
  (0x405C0A04, 0x05008001, .tdrain (std 10 4 (c := .imm 5) (ty := .n32))),
  (0x405D040C, 0x05008001, .tfeed (std 4 12 (c := .imm 5) (ty := .n32)))]

theorem test_decode_memory : ∀ e ∈ memoryWords, decodesTo e = true := by decide +kernel

theorem witness_issue_memory : ∀ e ∈ memoryWords, issues e.2.2 = true := by decide +kernel

def surfacesAndFootingWords : List Decoding := [
  (0x40600804, 0x06004080, .sfblend (std 8 4 (c := .s 6) (f := 1))),
  (0x40610104, 0x07054080, .sfdepth (std 1 4 (c := .s 7) (e := .v 5) (f := 1))),
  (0x40620A04, 0x06004200, .sfld (std 10 4 (c := .s 6) (spec := true))),
  (0x40630A04, 0x06004080, .sfst (std 10 4 (c := .s 6) (f := 1))),
  (0x40640804, 0x06004200, .tex (std 8 4 (c := .s 6) (spec := true))),
  (0x40650804, 0x060C4000, .texg (std 8 4 (c := .s 6) (e := .v 12))),
  (0x40660200, 0x06006080, .texq (std 2 0 (c := .s 6) (e := .imm 0) (f := 1))),
  (0x40671008, 0x06FF6080, .trace (std 16 8 (c := .s 6) (e := .imm 255) (f := 1)))]

theorem test_decode_surfaces_and_footing : ∀ e ∈ surfacesAndFootingWords, decodesTo e = true := by decide +kernel

theorem witness_issue_surfaces_and_footing : ∀ e ∈ surfacesAndFootingWords, issues e.2.2 = true := by decide +kernel

def controlWords : List Decoding := [
  (0x40700100, 0x00000010, .bra (imm 1 0 0x10)),
  (0x62710000, 0x00000040, .brx (imm 0 0 0x40 (g := some ⟨false, 2⟩))),
  (0x00720008, 0x00000000, .bri (wd 0 8)),
  (0x40730A00, 0xFFFFFF00, .call (imm 10 0 0xFFFFFF00)),
  (0x0074000A, 0x00000000, .ret (wd 0 10)),
  (0x40751400, 0x00000028, .setmt (imm 20 0 0x28)),
  (0x40751614, 0x00000000, .setmtR (imm 22 20 0x0)),
  (0x00760000, 0x00000000, .exit (wd 0 0)),
  (0x00770000, 0x00000000, .nop (wd 0 0)),
  (0x00780000, 0x00000000, .yld (wd 0 0)),
  (0x00790000, 0x00000000, .brk (wd 0 0))]

theorem test_decode_control : ∀ e ∈ controlWords, decodesTo e = true := by decide +kernel

theorem witness_issue_control : ∀ e ∈ controlWords, issues e.2.2 = true := by decide +kernel

def uniformRegistersWords : List Decoding := [
  (0xA1010405, 0x00000000, .movU (wd 4 5 (g := some ⟨false, 1⟩))),
  (0xC0020200, 0x00000000, .moviU (imm 2 0 0x0)),
  (0xC0030200, 0x00000020, .movih (imm 2 0 0x20)),
  (0x80040344, 0x00000000, .ssr (wd 3 68)),
  (0x80055104, 0x00000000, .swr (wd 81 4)),
  (0xC00A0102, 0x03008880, .plopU (std 1 2 (c := .imm 3) (f := 9)))]

theorem test_decode_uniform_registers : ∀ e ∈ uniformRegistersWords, decodesTo e = true := by decide +kernel

theorem witness_issue_uniform_registers : ∀ e ∈ uniformRegistersWords, issues e.2.2 = true := by decide +kernel

def uniformIntegerWords : List Decoding := [
  (0xC0100404, 0x01008001, .iaddU (std 4 4 (c := .imm 1) (ty := .n32))),
  (0xC0110405, 0x06004002, .isubU (std 4 5 (c := .s 6) (ty := .i64))),
  (0xC0120405, 0x06026003, .iaddcU (std 4 5 (c := .s 6) (e := .imm 2) (ty := .n64))),
  (0xC0130405, 0x06026001, .isubbU (std 4 5 (c := .s 6) (e := .imm 2) (ty := .n32))),
  (0xC0140405, 0x09008000, .imulU (std 4 5 (c := .imm 9))),
  (0xC0150405, 0x06004003, .imulhiU (std 4 5 (c := .s 6) (ty := .n64))),
  (0xC0160405, 0x06075002, .imadU (std 4 5 (c := .s 6) (e := .s 7) (ty := .i64))),
  (0xC0170405, 0x06075000, .imadwU (std 4 5 (c := .s 6) (e := .s 7))),
  (0xC0180405, 0x00000002, .iabsU (std 4 5 (ty := .i64))),
  (0xC0190405, 0x00000040, .inegU (std 4 5 (sat := true))),
  (0xC01A0405, 0x06004003, .iminU (std 4 5 (c := .s 6) (ty := .n64))),
  (0xC01B0405, 0xFF008000, .imaxU (std 4 5 (c := .imm 255))),
  (0xC01C0303, 0x28008003, .shlU (std 3 3 (c := .imm 40) (ty := .n64))),
  (0xC01D0405, 0x03008003, .shrU (std 4 5 (c := .imm 3) (ty := .n64))),
  (0xC01E0405, 0x03008082, .sraU (std 4 5 (c := .imm 3) (ty := .i64) (f := 1))),
  (0xC01F0405, 0x06004003, .rotU (std 4 5 (c := .s 6) (ty := .n64)))]

theorem test_decode_uniform_integer : ∀ e ∈ uniformIntegerWords, decodesTo e = true := by decide +kernel

theorem witness_issue_uniform_integer : ∀ e ∈ uniformIntegerWords, issues e.2.2 = true := by decide +kernel

def uniformLogicWords : List Decoding := [
  (0xC0200B0A, 0x03008003, .andU (std 11 10 (c := .imm 3) (ty := .n64))),
  (0xC0210202, 0x03004003, .orU (std 2 2 (c := .s 3) (ty := .n64))),
  (0xC0220405, 0x06004003, .xorU (std 4 5 (c := .s 6) (ty := .n64))),
  (0xC0230405, 0x00000003, .notU (std 4 5 (ty := .n64))),
  (0xC0240405, 0x06F06002, .blogicU (std 4 5 (c := .s 6) (e := .imm 240) (ty := .i64))),
  (0xC0250405, 0x00000003, .popcU (std 4 5 (ty := .n64))),
  (0xC0260405, 0x00000001, .clzU (std 4 5 (ty := .n32))),
  (0xC0270405, 0x00000003, .ctzU (std 4 5 (ty := .n64))),
  (0xC0280405, 0x00000001, .brevU (std 4 5 (ty := .n32))),
  (0xC0290405, 0x06079002, .bfeU (std 4 5 (c := .imm 6) (e := .s 7) (ty := .i64))),
  (0xC02A0405, 0x0607A003, .bfiU (std 4 5 (c := .imm 6) (e := .imm 7) (ty := .n64))),
  (0xC02B0405, 0x06075001, .bpickU (std 4 5 (c := .s 6) (e := .s 7) (ty := .n32))),
  (0xC02C0104, 0x02008101, .icmpU (std 1 4 (c := .imm 2) (ty := .n32) (f := 2))),
  (0xC02D0405, 0x06026002, .iselU (std 4 5 (c := .s 6) (e := .imm 2) (ty := .i64))),
  (0xC02E0702, 0x0107A003, .leaU (std 7 2 (c := .imm 1) (e := .imm 7) (ty := .n64)))]

theorem test_decode_uniform_logic : ∀ e ∈ uniformLogicWords, decodesTo e = true := by decide +kernel

theorem witness_issue_uniform_logic : ∀ e ∈ uniformLogicWords, issues e.2.2 = true := by decide +kernel

def uniformMemoryWords : List Decoding := [
  (0xC0500608, 0x02008153, .sld (mem 6 8 (c := .imm 2) (wid := .b64) (ord := .acq) (scope := .pkg))),
  (0xC0510608, 0x00008163, .sst (mem 6 8 (c := .imm 0) (wid := .b64) (ord := .rel) (scope := .pkg))),
  (0xC0520408, 0x0009A173, .satom (mem 4 8 (c := .imm 0) (e := .imm 9) (wid := .b64) (ord := .ar) (scope := .pkg))),
  (0xC0550000, 0x00000050, .fenceU (mem 0 0 (ord := .acq) (scope := .team))),
  (0xC0560406, 0x00008480, .mon (std 4 6 (c := .imm 0) (f := 5))),
  (0xC0570500, 0x05008000, .monw (std 5 0 (c := .imm 5))),
  (0xC0580102, 0x03006000, .kmap (std 1 2 (c := .s 3) (e := .imm 0))),
  (0xC0590100, 0x00042000, .kunmap (std 1 0 (e := .imm 4))),
  (0xC05A0100, 0x00032000, .kwb (std 1 0 (e := .imm 3))),
  (0xC05A0100, 0x00000080, .kwbAll (std 1 0 (f := 1))),
  (0xC05B0100, 0x00042000, .kinv (std 1 0 (e := .imm 4))),
  (0xC05C0506, 0x00008480, .cpst (std 5 6 (c := .imm 0) (f := 5))),
  (0xC05D0204, 0x05065000, .cpw (std 2 4 (c := .s 5) (e := .s 6)))]

theorem test_decode_uniform_memory : ∀ e ∈ uniformMemoryWords, decodesTo e = true := by decide +kernel

theorem witness_issue_uniform_memory : ∀ e ∈ uniformMemoryWords, issues e.2.2 = true := by decide +kernel

def uniformSurfacesWords : List Decoding := [
  (0xC0600102, 0x00000000, .sfalloc (std 1 2)),
  (0xC0610100, 0x0500A000, .sffree (std 1 0 (c := .imm 5) (e := .imm 0))),
  (0xC0620100, 0x07004000, .sfpin (std 1 0 (c := .s 7))),
  (0xC0620100, 0x07004080, .sfpinUnpin (std 1 0 (c := .s 7) (f := 1))),
  (0xC0630300, 0x07004000, .sfevict (std 3 0 (c := .s 7))),
  (0xC0640400, 0x80008080, .sfmap (std 4 0 (c := .imm 128) (f := 1))),
  (0xC0680002, 0x03004000, .vqpush (std 0 2 (c := .s 3))),
  (0x80690000, 0x00000000, .vqfence (wd 0 0)),
  (0xC06A0004, 0x05004000, .rsbind (std 0 4 (c := .s 5)))]

theorem test_decode_uniform_surfaces : ∀ e ∈ uniformSurfacesWords, decodesTo e = true := by decide +kernel

theorem witness_issue_uniform_surfaces : ∀ e ∈ uniformSurfacesWords, issues e.2.2 = true := by decide +kernel

def uniformControlWords : List Decoding := [
  (0xE1700000, 0xFFFFFFE8, .ubra (imm 0 0 0xFFFFFFE8 (g := some ⟨false, 1⟩))),
  (0x80710004, 0x00000000, .ujmp (wd 0 4)),
  (0xC0720200, 0x00000080, .ucall (imm 2 0 0x80)),
  (0x80730002, 0x00000000, .uret (wd 0 2)),
  (0xC0740005, 0x0000001C, .loop (imm 0 5 0x1C)),
  (0x80760000, 0x00000000, .exitU (wd 0 0)),
  (0x80770000, 0x00000000, .nopU (wd 0 0)),
  (0x80780307, 0x00000000, .hwait (wd 3 7)),
  (0x80790000, 0x00000000, .brkU (wd 0 0)),
  (0x807A0409, 0x00000000, .trap (wd 4 9)),
  (0x807B0307, 0x00000000, .htest (wd 3 7)),
  (0x807C0307, 0x00000000, .hcancel (wd 3 7)),
  (0x807D0000, 0x00000000, .region (wd 0 0)),
  (0xC07E3C00, 0x00000040, .fcont (imm 60 0 0x40)),
  (0xC07E0000, 0x00000000, .fcontClr (imm 0 0 0x0)),
  (0x807F0501, 0x00000000, .fret (wd 5 1))]

theorem test_decode_uniform_control : ∀ e ∈ uniformControlWords, decodesTo e = true := by decide +kernel

theorem witness_issue_uniform_control : ∀ e ∈ uniformControlWords, issues e.2.2 = true := by decide +kernel

def barriersAndGraphWords : List Decoding := [
  (0xC0800004, 0x0300A000, .binit (std 0 4 (c := .imm 3) (e := .imm 0))),
  (0xC0810607, 0x0300A080, .barr (std 6 7 (c := .imm 3) (e := .imm 0) (f := 1))),
  (0xC0820106, 0x5802A000, .bwait (std 1 6 (c := .imm 88) (e := .imm 2))),
  (0xC0830100, 0x0000A000, .barw (std 1 0 (c := .imm 0) (e := .imm 0))),
  (0xC0840000, 0x09004000, .binv (std 0 0 (c := .s 9))),
  (0xC0850206, 0x0300A000, .btest (std 2 6 (c := .imm 3) (e := .imm 0))),
  (0xC0860000, 0x0000A000, .rgwait (std 0 0 (c := .imm 0) (e := .imm 0))),
  (0xC0860300, 0x02059180, .rgwaitTest (std 3 0 (c := .imm 2) (e := .s 5) (f := 3))),
  (0xC0870000, 0x0205A000, .rgadv (std 0 0 (c := .imm 2) (e := .imm 5))),
  (0xC0880406, 0x00000000, .gdec (std 4 6)),
  (0xC0890406, 0x03008000, .gadd (std 4 6 (c := .imm 3))),
  (0xC08A0406, 0x00000000, .gsig (std 4 6))]

theorem test_decode_barriers_and_graph : ∀ e ∈ barriersAndGraphWords, decodesTo e = true := by decide +kernel

theorem witness_issue_barriers_and_graph : ∀ e ∈ barriersAndGraphWords, issues e.2.2 = true := by decide +kernel

def matrixAndIdentifiersWords : List Decoding := [
  (0xC0900200, 0x04008000, .mlease (std 2 0 (c := .imm 4))),
  (0x80910000, 0x00000000, .mfree (wd 0 0)),
  (0xC0920408, 0x00008000, .mma (std 4 8 (c := .imm 0))),
  (0xC0920400, 0x00000800, .mmaResume (std 4 0 (f := 8))),
  (0xC0930308, 0x00149000, .mmas (std 3 8 (c := .imm 0) (e := .s 20))),
  (0xC0940408, 0x03008000, .mmo (std 4 8 (c := .imm 3))),
  (0xC0950300, 0x00008100, .mzero (std 3 0 (c := .imm 0) (f := 2))),
  (0xC096030A, 0x06008004, .mld (std 3 10 (c := .imm 6) (ty := .f32))),
  (0xC097030A, 0x06008444, .mst (std 3 10 (c := .imm 6) (ty := .f32) (f := 4) (sat := true))),
  (0x80980000, 0x00000000, .mready (wd 0 0)),
  (0x80990604, 0x00000000, .mrow (wd 6 4)),
  (0xC09C0102, 0x0500A000, .tidset (std 1 2 (c := .imm 5) (e := .imm 0))),
  (0x809D0107, 0x00000000, .tidinv (wd 1 7)),
  (0xC09E0400, 0x0500A180, .tidq (std 4 0 (c := .imm 5) (e := .imm 0) (f := 3))),
  (0xC09E0400, 0x0500A800, .tidqState (std 4 0 (c := .imm 5) (e := .imm 0) (f := 8)))]

theorem test_decode_matrix_and_identifiers : ∀ e ∈ matrixAndIdentifiersWords, decodesTo e = true := by decide +kernel

theorem witness_issue_matrix_and_identifiers : ∀ e ∈ matrixAndIdentifiersWords, issues e.2.2 = true := by decide +kernel

def collectivesAndSupervisorWords : List Decoding := [
  (0xC0A00102, 0x03008000, .coldecl (std 1 2 (c := .imm 3))),
  (0xC0A10408, 0x01008000, .colag (std 4 8 (c := .imm 1))),
  (0xC0A20408, 0x02008107, .colrs (std 4 8 (c := .imm 2) (ty := .bf16) (f := 2))),
  (0xC0A30408, 0x00008000, .colaa (std 4 8 (c := .imm 0))),
  (0xC0A40400, 0x05008000, .colbar (std 4 0 (c := .imm 5))),
  (0xC0A50100, 0x02008000, .cprio (std 1 0 (c := .imm 2))),
  (0x80B00102, 0x00000000, .rfe (wd 1 2)),
  (0x80B10003, 0x00000000, .ckill (wd 0 3)),
  (0x80B20003, 0x00000000, .crcl (wd 0 3)),
  (0xC0B30102, 0x03004000, .tlbinvPage (std 1 2 (c := .s 3))),
  (0xC0B30102, 0x03045080, .tlbinvRange (std 1 2 (c := .s 3) (e := .s 4) (f := 1))),
  (0xC0B30100, 0x03004100, .tlbinvCid (std 1 0 (c := .s 3) (f := 2))),
  (0xC0B30100, 0x00000180, .tlbinvAll (std 1 0 (f := 3))),
  (0xC0B40102, 0x03004000, .pgprobe (std 1 2 (c := .s 3)))]

theorem test_decode_collectives_and_supervisor : ∀ e ∈ collectivesAndSupervisorWords, decodesTo e = true := by decide +kernel

theorem witness_issue_collectives_and_supervisor : ∀ e ∈ collectivesAndSupervisorWords, issues e.2.2 = true := by decide +kernel

/-! ## Witnesses: the hypotheses of the statements can be met -/

/-- The path issues the instruction's own operation, and the rest of the hypotheses hold of it. -/
def met (i : Instr) (s : State) (p : Run → Bool) : Bool :=
  match issueOf i s with
  | some r => p r
  | none => false

/-- The path that stands at the instruction, and a check of it. -/
def atPath (i : Instr) (s : State) (p : Run → Fields → Row → Bool) : Bool :=
  match runOf s, i.fields with
  | some r, some f =>
    match rowOf f with
    | some row => p r f row
    | none => false
  | _, _ => false

/-- A guard on p3 or q3, and its complement. -/
def g3 : Option Guard := some ⟨false, 3⟩
def ng3 : Option Guard := some ⟨true, 3⟩

/-! IssueChecks: each check in turn. -/

theorem witness_check_wf : atPath (.iadd (std 4 5 (c := .v 6) (f := 1))) (stand (.iadd (std 4 5 (c := .v 6) (f := 1))))
    (fun _ _ _ => (Instr.iadd (std 4 5 (c := .v 6) (f := 1))).wf == false) = true := by decide +kernel
theorem witness_check_privileged : atPath (.crcl (wd 0 3)) (stand (.crcl (wd 0 3)) id fun t => { t with bind := { t.bind with cid := 5 } })
    (fun r f _ => privileged f.dom f.op.toNat && r.t.bind.cid != 0) = true := by decide +kernel
theorem witness_check_role : atPath (.tidinv (wd 0 3)) (stand (.crcl (wd 0 3)))
    (fun r f _ => !roleMay r.g.role f.dom f.op.toNat) = true := by decide +kernel
theorem witness_check_budget : atPath (.movs (wd 9 1)) (stand (.movs (wd 9 1)) id fun t => { t with hdr := { t.hdr with copyRegs := 8, vecRegs := 8 } })
    (fun r f row => (Instr.movs (wd 9 1)).wf && roleMay r.g.role f.dom f.op.toNat && r.t.beyond r.g.role ((row.shape f).named f)) = true := by
  decide +kernel
theorem witness_check_poisoned_guard : atPath (.nop (wd 0 0 g3)) (stand (.nop (wd 0 0 g3)) fun g => g.setP 3 7 (.bad 5))
    (fun r f _ => r.guarded f.dom f.guard == .poison 5) = true := by decide +kernel
theorem witness_check_failing_guard : atPath (.nopU (wd 0 0 g3)) (stand (.nopU (wd 0 0 g3)))
    (fun r f _ => r.guarded f.dom f.guard == .fails) = true := by decide +kernel
/-- s5 holds the handle of an operation that is under way. -/
def pending5 (g : Group) : Group := g.setPending 5 0x1000000000000001
def running1 (t : Team) : Team := { t with handles := [(0, { kind := 1, seq := 1 })] }
theorem witness_check_pending : atPath (.movs (wd 4 5)) (stand (.movs (wd 4 5)) pending5 running1)
    (fun r f row => (match r.guarded f.dom f.guard with | .active _ => true | _ => false) &&
      (r.pendingAny (waitsFor r.s (.movs (wd 4 5)) (row.shape f) f)).isSome) = true := by decide +kernel

/-! EncodingReadsBack. -/

theorem witness_encoding : ∀ e ∈ integerWords ++ memoryWords ++ controlWords ++ uniformControlWords,
    e.2.2.wf = true ∧ encode e.2.2 ≠ [] := by decide +kernel

/-! Steps. -/

/-- exit stands at the only group of the package. -/
def exiting : State := stage State.reset 32 0x00760000

theorem witness_idle_step : State.reset.inbox = [] ∧ (moves State.reset).isEmpty = true := by decide +kernel
theorem witness_step_moves : exiting.inbox = [] ∧ (moves exiting).isEmpty = false := by decide +kernel
theorem witness_first_input : (moves { State.reset with inbox := [.ctxcmdOpen 0 0 0 true] }).isEmpty = true := by decide +kernel
theorem witness_one_ready_group : exiting.ctl.fatal = false ∧ (events exiting).isEmpty = true ∧
    (match readyGroups exiting with
      | [r] => r.paths == [0] &&
          (match fetchWord (fetchAhead (chosen exiting r 0) 0 0) 0 0 with
            | (_, .ok w) => !wantsTail w && decodeWords w 0 == .instr (.exit (wd 0 0))
            | _ => false)
      | _ => false) = true := by decide +kernel
theorem witness_input_goes : inputWaits State.reset (.ctxcmdOpen 0 0 0 true) = false := by decide +kernel
theorem witness_fetch : checkGlobal exiting (fetcher exiting 0) 0 4 .fetch = .ok (.normal 0x14000) ∧
    inHbm 0x14000 = true ∧ lineAllows exiting (fetcher exiting 0).master (fetcher exiting 0).cid 0x14000 .read = true ∧
    isMarked exiting 0x14000 = false ∧ exiting.flaws = [] ∧ exiting.olds = [] ∧
    (List.range 4).all (fun i => coreByte exiting 0 (0x14000 + i) == physByte exiting (0x14000 + i)) = true := by decide +kernel

/-! Registers, predicates and poison. -/

theorem witness_swr : met (.swr (wd 82 4)) (stand (.swr (wd 82 4)) fun g => g.putS 4 3)
    (fun r => r.g.getS 4 == .ok 3) = true := by decide +kernel
theorem witness_swr_poisoned : met (.swr (wd 82 4)) (stand (.swr (wd 82 4)) fun g => g.setS 4 (.bad 9))
    (fun r => r.g.getS 4 == .bad 9) = true := by decide +kernel

def fredux1 : Std := std 4 5 (ty := .f32)
theorem witness_fredux_poisoned : met (.fredux fredux1) (stand (.fredux fredux1) fun g => g.setV 5 2 (.bad 9))
    (fun r => !r.act.isEmpty && firstTok (acrossAll r fredux1) == some 9) = true := by decide +kernel
theorem witness_fredux : met (.fredux fredux1) (stand (.fredux fredux1))
    (fun r => !r.act.isEmpty && (firstTok (acrossAll r fredux1)).isNone &&
      !(treeFold (freduxOp (fmtTy fredux1.ty) 0 r.g.ftz) 5
        ((acrossAll r fredux1).mapIdx fun j v => { val := v.val, live := r.act.contains j })).isEmpty) = true := by decide +kernel
theorem witness_fredux_inactive : met (.fredux { fredux1 with g := g3 }) (stand (.fredux { fredux1 with g := g3 }))
    (fun r => r.act.isEmpty) = true := by decide +kernel

def chk2 : Std := std 0 5 (f := 2)
theorem witness_chk : met (.chk chk2) (stand (.chk chk2)) (fun r => (r.act.findSome? (tokenIn r chk2)).isNone) = true := by
  decide +kernel
theorem witness_chk_poisoned : met (.chk chk2) (stand (.chk chk2) fun g => g.setP 5 31 (.bad 7))
    (fun r => r.act.findSome? (tokenIn r chk2) == some 7) = true := by decide +kernel

theorem witness_lmul_dot : met (.lmul (std 4 5 (c := .v 6) (ty := .f32) (f := 1))) (stand (.lmul (std 4 5 (c := .v 6) (ty := .f32) (f := 1))))
    (fun _ => true) = true := by decide +kernel
theorem witness_cvt_wide : met (.cvt (std 4 5 (e := .imm 0) (ty := .i32) (f := 4))) (stand (.cvt (std 4 5 (e := .imm 0) (ty := .i32) (f := 4)))) (fun _ => true) = true := by
  decide +kernel
theorem witness_match_all : met (.matchv (std 5 4 (ty := .n32) (f := 1))) (stand (.matchv (std 5 4 (ty := .n32) (f := 1)))) (fun _ => true) = true := by
  decide +kernel
theorem witness_pfold_predicate : met (.pfold (std 2 3 (f := 3))) (stand (.pfold (std 2 3 (f := 3)))) (fun _ => true) = true := by
  decide +kernel

/-- Infinity minus infinity is a NaN. -/
theorem witness_default_nan : (fmt32.decode (fsubOf fmt32 .rne false false 0x7F800000 0x7F800000).1).isNaN = true := by decide +kernel
theorem witness_round_tie : 2 * (3 % 2) = 2 := rfl

/-! Control transfers. -/

theorem witness_bra_diverges : met (.bra (imm 1 0 0x10 ng3)) (stand (.bra (imm 1 0 0x10 ng3)) fun g => { g.setP 3 0 (.ok true) with gstat := 2 })
    (fun r => !r.act.isEmpty && decide (r.act.length < r.lanes.length) && r.g.gstat.getLsbD 1) = true := by decide +kernel
theorem witness_bra_uniform : met (.bra (imm 1 0 0x10)) (stand (.bra (imm 1 0 0x10))) (fun r => !decide (r.act.length < r.lanes.length)) = true := by
  decide +kernel
theorem witness_bri : met (.bri (wd 0 8)) (stand (.bri (wd 0 8)) fun g => g.setV 8 3 (.ok 0x40))
    (fun r => (firstTok (r.act.map (pairTarget r 8))).isNone && r.act.all fun l => (pairTarget r 8 l).val % 4 == 0) = true := by decide +kernel
theorem witness_bri_poisoned : met (.bri (wd 0 8)) (stand (.bri (wd 0 8)) fun g => g.setV 9 3 (.bad 6))
    (fun r => firstTok (r.act.map (pairTarget r 8)) == some 6) = true := by decide +kernel
theorem witness_bri_misaligned : met (.bri (wd 0 8)) (stand (.bri (wd 0 8)) fun g => g.setV 8 3 (.ok 0x42))
    (fun r => (firstTok (r.act.map (pairTarget r 8))).isNone &&
      ((r.act.map fun l => (pairTarget r 8 l).val).find? fun a => a % 4 != 0) == some 0x42) = true := by decide +kernel
theorem witness_ujmp : met (.ujmp (wd 0 4)) (stand (.ujmp (wd 0 4)) fun g => g.putS 4 0x40) (fun r => r.g.getS 4 == .ok 0x40) = true := by
  decide +kernel
theorem witness_ujmp_misaligned : met (.ujmp (wd 0 4)) (stand (.ujmp (wd 0 4)) fun g => g.putS 4 0x41) (fun r => r.g.getS 4 == .ok 0x41) = true := by
  decide +kernel
theorem witness_ujmp_poisoned : met (.ujmp (wd 0 4)) (stand (.ujmp (wd 0 4)) fun g => g.setS 4 (.bad 3)) (fun r => r.g.getS 4 == .bad 3) = true := by
  decide +kernel
theorem witness_setmt_register : met (.setmtR (imm 22 20 0)) (stand (.setmtR (imm 22 20 0)) fun g => (g.setV 20 0 (.ok 0xFFFFFFFF)).setV 21 0 (.ok 0xFFFFFF))
    (fun r => (firstTok (r.act.map (pairTarget r 20))).isNone && (pairTarget r 20 0).val == 2 ^ 56 - 1 &&
      r.act.all fun l => (pairTarget r 20 l).val % 4 == 0 || (pairTarget r 20 l).val == 2 ^ 56 - 1) = true := by decide +kernel
theorem witness_exit_commits : met (.exit (wd 0 0)) (stand (.exit (wd 0 0)) id fun t => { t with contained := true })
    (fun r => commitsFirst r && !r.act.isEmpty) = true := by decide +kernel
theorem witness_exit : met (.exit (wd 0 0)) (stand (.exit (wd 0 0))) (fun r => !commitsFirst r) = true := by decide +kernel
theorem witness_loop_skipped : met (.loop (imm 0 5 0x1C)) (stand (.loop (imm 0 5 0x1C))) (fun r => r.g.getS 5 == .ok 0) = true := by
  decide +kernel
theorem witness_loop : met (.loop (imm 0 5 0x1C)) (stand (.loop (imm 0 5 0x1C)) fun g => g.putS 5 3)
    (fun r => r.g.getS 5 == .ok 3 && r.lanes.all (fun l => decide ((r.g.thread l).loops.length < 4)) && (r.g.thread 0).meet.isNone) = true := by
  decide +kernel
theorem witness_loop_fifth : met (.loop (imm 0 5 0x1C)) (stand (.loop (imm 0 5 0x1C)) fun g =>
      { g.putS 5 3 with threads := g.threads.map fun t => { t with loops := List.replicate 4 { start := 8, last := 12, rem := 2 } } })
    (fun r => r.g.getS 5 == .ok 3 && r.lanes.any fun l => decide (4 ≤ (r.g.thread l).loops.length)) = true := by decide +kernel
theorem witness_brx_full : met (.brx (imm 0 0 0x40)) (stand (.brx (imm 0 0 0x40)))
    (fun r => !r.act.isEmpty && r.t.hdr.records == 0) = true := by decide +kernel
theorem witness_brx : met (.brx (imm 0 0 0x40)) (stand (.brx (imm 0 0 0x40)) id fun t =>
      { t with hdr := { t.hdr with records := 64, satellites := 1, live := 4 } })
    (fun r => !r.act.isEmpty && decide (r.t.hdr.live ≤ r.t.vBudget r.g.role) && decide (r.t.hdr.live ≤ r.t.hdr.vecRegs) && !commitsFirst r &&
      decide (r.act.length ≤ r.t.hdr.records - r.t.spawn.length)) = true := by decide +kernel

/-! Traps and handles. -/

theorem witness_brk_inactive : met (.brk (wd 0 0 g3)) (stand (.brk (wd 0 0 g3))) (fun r => r.act.isEmpty) = true := by decide +kernel
theorem witness_brk : met (.brk (wd 0 0)) (stand (.brk (wd 0 0))) (fun r => !r.act.isEmpty) = true := by decide +kernel
theorem witness_trap_poisoned : met (.trap (wd 4 7)) (stand (.trap (wd 4 7)) fun g => g.setS 4 (.bad 2)) (fun r => r.g.getS 4 == .bad 2) = true := by
  decide +kernel
theorem witness_handle_poisoned : met (.htest (wd 3 7)) (stand (.htest (wd 3 7)) fun g => g.setS 7 (.bad 2))
    (fun r => r.g.getS 7 == .bad 2) = true := by decide +kernel
theorem witness_no_handle : met (.htest (wd 3 7)) (stand (.htest (wd 3 7))) (fun r => r.g.getS 7 == .ok 0 && noHandle 0) = true := by decide +kernel
/-- s7 holds a handle of kind 1 for entry 0, with sequence number 1. -/
def handle7 (g : Group) : Group := g.putS 7 0x1000000000000001
theorem witness_stale_handle : met (.htest (wd 3 7)) (stand (.htest (wd 3 7)) handle7)
    (fun r => r.g.getS 7 == .ok 0x1000000000000001 && !noHandle 0x1000000000000001 && (entryOf r 0x1000000000000001).isNone) = true := by
  decide +kernel
theorem witness_running_handle : ∀ i ∈ [Instr.hwait (wd 3 7), .htest (wd 3 7), .hcancel (wd 3 7)],
    met i (stand i handle7 running1) (fun r => !noHandle 0x1000000000000001 &&
      (match entryOf r 0x1000000000000001 with | some e => e.raise.isNone && e.status == 0x80 | none => false)) = true := by decide +kernel
theorem witness_ended_handle : ∀ i ∈ [Instr.hwait (wd 3 7), .htest (wd 3 7), .hcancel (wd 3 7)],
    met i (stand i handle7 fun t => { t with handles := [(0, { kind := 1, seq := 1, status := 1, code := 0x0B })] }) (fun r =>
      (match entryOf r 0x1000000000000001 with | some e => e.raise.isNone && e.status == 1 | none => false)) = true := by decide +kernel

/-! Memory: the staged page maps the first addresses, read, write and execute. -/

/-- One active lane, lane 0, through p3. -/
def lane0 (g : Group) : Group := g.setP 3 0 (.ok true)
/-- v2, v3 hold an address in every lane. -/
def at_ (va : Nat) (g : Group) : Group := (List.range 32).foldl (fun g l => (g.setV 2 l (.ok (BitVec.ofNat 32 va))).setV 3 l
  (.ok (BitVec.ofNat 32 (va / 2 ^ 32)))) g
/-- s2 holds an address. -/
def sAt (va : Nat) (g : Group) : Group := g.putS 2 va

def ld1 : Mem := mem 4 2 (c := .imm 0) (wid := .b32) (g := g3)
def sld1 : Mem := mem 4 2 (c := .imm 0) (wid := .b64) (ord := .acq) (scope := .pkg)
def passes (s : State) (who : Who) (va n : Nat) (k : Kind) : Bool :=
  match checkAccess s who va n k with
  | .ok _ => true
  | _ => false

/-- No snoop and no write-back is on its way. -/
def quietB (s : State) : Bool := s.snoops.isEmpty && s.requests.isEmpty
theorem quiet_line (s : State) (core pa : Nat) (h : quietB s = true) : quietLine s core pa := by
  simp only [quietB, Bool.and_eq_true, List.isEmpty_iff] at h
  simp [quietLine, h.1, h.2]

theorem witness_ld : met (.ld ld1) (stand (.ld ld1) fun g => lane0 (at_ 0x1000 g)) (fun r =>
    r.act == [0] && laneEa r ld1 0 == .ok 0x1000 && quietB r.s && !r.t.paired && !r.t.contained &&
    checkAccess r.s r.who 0x1000 4 .read == .ok (.normal 0x15000) && inHbm 0x15000 && inHbm 0x15004 &&
    lineAllows (noteTranslation r.s r.who 0x1000 (.ok (.normal 0x15000))) r.who.master r.who.cid 0x15000 .read &&
    (List.range 4).all (fun i => !isMarked r.s (0x15000 + i)) && (laneLoads r ld1 r.act r.s).isSome) = true := by decide +kernel
/-- Under .spec a lane whose page is not there gives a token, and the other loads. -/
def ldSpec : Mem := mem 4 2 (c := .imm 0) (wid := .b32) (spec := true)
theorem witness_ld_spec : met (.ld ldSpec) (stand (.ld ldSpec) fun g => (at_ 0x1000 g).setV 3 7 (.ok 0x100)) (fun r =>
    (r.act.all fun l => match checkAccess r.s r.who (laneEa r ldSpec l).val 4 .read with | .wait _ => false | _ => true) &&
    (laneLoads r ldSpec r.act r.s).isSome && (specCode (checkAccess r.s r.who (laneEa r ldSpec 7).val 4 .read)).isSome) = true := by
  decide +kernel
theorem witness_ld_fails : met (.ld { ld1 with g := none }) (stand (.ld { ld1 with g := none }) (at_ 0x1002)) (fun r =>
    firstBad r.s r.who (goodLanes (r.act.map fun l => (l, laneEa r { ld1 with g := none } l))) 4 .read == some (0x1002, .bad 4 none)) = true := by
  decide +kernel
theorem witness_sld : met (.sld sld1) (stand (.sld sld1) (sAt 0x1000)) (fun r =>
    uniEa r sld1 == .ok 0x1000 && passes r.s r.who 0x1000 8 .read &&
    (match (readVa (acquire r.s r.who .pkg) r.who 0x1000 8 .read).2 with | .bytes _ => true | _ => false)) = true := by decide +kernel
theorem witness_sld_spec : met (.sld { sld1 with spec := true }) (stand (.sld { sld1 with spec := true }) (sAt 0x1000)) (fun r =>
    passes r.s r.who 0x1000 8 .read && (specCode (checkAccess r.s r.who 0x1000 8 .read)).isNone) = true := by decide +kernel
theorem witness_sld_poisoned : met (.sld sld1) (stand (.sld sld1) fun g => g.setS 2 (.bad 5)) (fun r => uniEa r sld1 == .bad 5) = true := by
  decide +kernel
theorem witness_st : met (.st ld1) (stand (.st ld1) fun g => lane0 (at_ 0x1000 g)) (fun r =>
    r.act == [0] && laneEa r ld1 0 == .ok 0x1000 && r.g.readV 4 0 1 == .ok 0 && !r.t.paired && !r.t.contained &&
    ld1.hint != .nl1 && decide (r.t.core < Config.cores) && inHbm 0x15000 && inHbm 0x15004 && checkAccess r.s r.who 0x1000 4 .write == .ok (.normal 0x15000) &&
    lineAllows (noteTranslation r.s r.who 0x1000 (.ok (.normal 0x15000))) r.who.master r.who.cid 0x15000 .write) = true := by decide +kernel
theorem witness_st_releases : met (.st { ld1 with ord := .rel, scope := .pkg }) (stand (.st { ld1 with ord := .rel, scope := .pkg }) fun g => lane0 (at_ 0x1000 g))
    (fun r => (r.writeBack fun _ => true).2.isNone) = true := by decide +kernel
theorem witness_released_narrow (r : Run) (o : MemOrd) (c : Scope) (ho : releasingOrd o = true) (hc : wideScope c = false) :
    released r { r with s := release r.s r.who c } o c := by simp [released, ho, hc]
theorem witness_not_released (r : Run) (o : MemOrd) (c : Scope) (ho : releasingOrd o = false) : released r r o c := by simp [released, ho]
theorem witness_st_inactive : met (.st ld1) (stand (.st ld1) (at_ 0x1000)) (fun r => r.act.isEmpty) = true := by decide +kernel
theorem witness_st_poisoned : met (.st { ld1 with g := none }) (stand (.st { ld1 with g := none }) fun g => (at_ 0x1000 g).setV 4 9 (.bad 8))
    (fun r => (r.act.findSome? fun l => firstTok [laneEa r { ld1 with g := none } l, r.g.readV 4 l 1]) == some 8) = true := by decide +kernel
theorem witness_st_fails : met (.st { ld1 with g := none }) (stand (.st { ld1 with g := none }) (at_ 0x1001)) (fun r =>
    firstBad r.s r.who (r.act.map fun l => (l, (laneEa r { ld1 with g := none } l).val)) 4 .write == some (0x1001, .bad 4 none)) = true := by
  decide +kernel
theorem witness_st_buffered : met (.st ld1) (stand (.st ld1) (fun g => lane0 (at_ 0x1000 g)) fun t => { t with contained := true }) (fun r =>
    r.t.buffers && r.t.items.isEmpty && laneEa r ld1 0 == .ok 0x1000 && r.g.readV 4 0 1 == .ok 0 && checkAccess r.s r.who 0x1000 4 .write == .ok (.normal 0x15000)) = true := by decide +kernel
theorem witness_buffer_room (t : Team) (h : t.items = []) (lens : List Nat) : t.overflows lens = false := by simp [Team.overflows, h]
theorem witness_sst : met (.sst { sld1 with ord := .plain, scope := .grp }) (stand (.sst { sld1 with ord := .plain, scope := .grp }) (sAt 0x1000)) (fun r =>
    passes r.s r.who 0x1000 8 .write && r.g.readS 4 64 == .ok 0) = true := by decide +kernel
theorem witness_sst_poisoned : met (.sst { sld1 with ord := .plain, scope := .grp }) (stand (.sst { sld1 with ord := .plain, scope := .grp }) fun g => (sAt 0x1000 g).setS 4 (.bad 3))
    (fun r => firstTok [uniEa r { sld1 with ord := .plain, scope := .grp }, r.g.readS 4 64] == some 3) = true := by decide +kernel
theorem witness_misaligned : isLocal 0x1001 = false ∧ 0x1001 % 4 ≠ 0 := by decide
theorem witness_local_reserved : isLocal (0xF8 * 2 ^ 48) = true ∧ bits (0xF8 * 2 ^ 48) 51 50 ≠ 0 := by decide

def atom1 : Mem := mem 5 2 (c := .imm 0) (e := .imm 0) (wid := .b32)
def atom3 : Mem := { atom1 with g := g3 }
/-- The stash write-backs of an atomic meet no failure, and no lane a report. -/
def atomRuns (r : Run) (op : Nat) (as : List AtomArg) : Bool :=
  match r.atomBacks 4 as r.s with
  | (t, none) => (r.atomLanes op 4 false (fun g l old f => (g.writeV 5 l 1 (.ok old)).orFlags f) as t r.g none).2.2.isNone
  | _ => false
theorem witness_atom : met (.atom atom3) (stand (.atom atom3) fun g => lane0 (at_ 0x1000 g)) (fun r =>
    !r.act.isEmpty && (r.act.all fun l => passes r.s r.who (laneEa r atom3 l).val 4 .atomic) &&
    !r.t.paired && !r.t.contained && atomRuns r 0 (r.act.map fun l => { lane := l, va := (laneEa r atom3 l).val, val := (r.g.readV 5 l 1).val, cmp := 0 })) = true := by
  decide +kernel
theorem witness_atom_paired : ∀ i ∈ [Instr.atom atom1, .satom atom1],
    met i (stand i (fun g => sAt 0x1000 (at_ 0x1000 g)) fun t => { t with paired := true }) (fun r => !r.act.isEmpty && r.t.paired) = true := by
  decide +kernel
theorem witness_satom : met (.satom atom1) (stand (.satom atom1) (sAt 0x1000)) (fun r => passes r.s r.who 0x1000 4 .atomic &&
    firstTok [uniEa r atom1, r.g.readS 5 32] == none && atomRuns r 0 [{ lane := 0, va := 0x1000, val := 0, cmp := 0 }]) = true := by decide +kernel
/-- A compare with 1 of a word that holds 0 fails, and releases nothing. -/
def cas1 : Mem := mem 4 2 (c := .imm 0) (e := .imm 9) (wid := .b32) (ord := .rel) (scope := .pkg) (g := g3)
theorem witness_cas_fails : met (.atom cas1) (stand (.atom cas1) fun g => (lane0 (at_ 0x1000 g)).setV 5 0 (.ok 1)) (fun r =>
    r.g.readV 5 0 1 == .ok 1 && r.casFails 4 [{ lane := 0, va := 0x1000, val := 0, cmp := 1 }] r.s) = true := by decide +kernel
theorem witness_red : met (.red atom3) (stand (.red atom3) fun g => lane0 (at_ 0x1000 g)) (fun r => !r.act.isEmpty &&
    !r.t.paired && !r.t.contained && atomRuns r 0 (r.act.map fun l => { lane := l, va := (laneEa r atom3 l).val, val := 0, cmp := 0 }) &&
    (r.act.all fun l => passes r.s r.who (laneEa r atom3 l).val 4 .atomic)) = true := by decide +kernel
theorem witness_atomic_operation : (atomicOf 1 4 5 0xFFFFFFFF 0).1 = some 0xFFFFFFFF := by decide +kernel

/-! Scratch: 64 bytes of it. -/

def scratch64 (t : Team) : Team := { t with hdr := { t.hdr with scratchBytes := 64 } }
def ldl1 : Std := std 4 2 (c := .imm 0) (ty := .n32) (g := g3)
theorem witness_scratch : ∀ i ∈ [Instr.ldl ldl1, .stl ldl1], met i (stand i (fun g => lane0 (at_ (0xF * 2 ^ 52 + 8) g)) scratch64) (fun r =>
    r.act == [0] && scratchEa r ldl1 4 0 == .ok (0xF * 2 ^ 52 + 8) && (scratchGot r.s r.who (0xF * 2 ^ 52 + 8) 4).isSome &&
    (mfind 0 r.s.teams).isSome && (teamOf r.s 0).loc != .saved && !scratchFlawed r.s 0 8 4 && isLocal (0xF * 2 ^ 52 + 8) &&
    checkLocal r.s r.who.team r.who.cid r.who.icn (0xF * 2 ^ 52 + 8) 4 true == .ok (.scratch 0 8)) = true := by decide +kernel
theorem witness_scratch_address : met (.ldlAddr (std 4 2 (c := .imm 0) (ty := .n64) (f := 2)))
    (stand (.ldlAddr (std 4 2 (c := .imm 0) (ty := .n64) (f := 2))) (at_ (0xF * 2 ^ 52 + 8)) scratch64) (fun r =>
      checkLocal r.s r.who.team r.who.cid r.who.icn (0xF * 2 ^ 52 + 8) 1 false == .ok (.scratch 0 8)) = true := by decide +kernel
/-- A saved team whose save area every core may read. -/
def savedScratch : State :=
  let t := scratch64 (stageTeam .vector)
  let t := { t with loc := .saved, bind := { t.bind with save := 1 } }
  { ground with teams := [(0, t)], acl := (lineTargets (t.scratchPa 8)).flatMap fun n => [(n * 256, stageAcl)] }
theorem witness_scratch_saved : let who : Who := { core := 0, team := 0, cid := 0, icn := 0, master := { cls := 0, idx := 0 } }
    (mfind 0 savedScratch.teams).isSome = true ∧ (teamOf savedScratch 0).loc = .saved ∧
    isMarked savedScratch ((teamOf savedScratch 0).scratchPa 8) = false ∧ inHbm ((teamOf savedScratch 0).scratchPa 8) = true ∧
    lineAllows savedScratch who.master 0 ((teamOf savedScratch 0).scratchPa 8) .read = true := by decide +kernel
def atml1 : Std := std 4 2 (c := .imm 0) (e := .imm 3) (ty := .n32) (g := g3)
theorem witness_atml : met (.atml atml1) (stand (.atml atml1) (fun g => lane0 (at_ (0xF * 2 ^ 52 + 8) g)) scratch64) (fun r =>
    r.act == [0] && !r.t.paired && r.g.operand atml1.e 32 0 == .ok 3 && (mfind 0 r.s.teams).isSome &&
    checkLocal r.s r.who.team r.who.cid r.who.icn (0xF * 2 ^ 52 + 8) 4 true == .ok (.scratch 0 8) &&
    (scratchGot r.s r.who (0xF * 2 ^ 52 + 8) 4).isSome && (teamOf r.s 0).loc != .saved && !scratchFlawed r.s 0 8 4 &&
    (atomicOf (atmlOp 0 (signedTy .n32)) 4 0 3 0).1 == some 3) = true := by decide +kernel
theorem witness_atml_paired : met (.atml atml1) (stand (.atml atml1) (fun g => lane0 (at_ (0xF * 2 ^ 52 + 8) g)) fun t => { scratch64 t with paired := true })
    (fun r => !r.act.isEmpty && r.t.paired) = true := by decide +kernel

/-! Fences and monitors. -/

def fence1 : Mem := mem 0 0 (scope := .pkg)
theorem witness_fence : ∀ i ∈ [Instr.fence fence1, .fenceU fence1], met i (stand i) (fun r =>
    ((collectReports r.s r.tid r.gnum) |> r.groupIn).deferredFirst.isNone && !r.t.paired && !r.t.contained && !r.act.isEmpty &&
    ({ r with s := collectReports r.s r.tid r.gnum }.writeBack fun _ => true).2.isNone) = true := by decide +kernel
theorem witness_fence_inactive : met (.fence { fence1 with g := g3 }) (stand (.fence { fence1 with g := g3 })) (fun r => r.act.isEmpty) = true := by
  decide +kernel
def pf1 : Mem := mem 0 2 (c := .imm 0)
theorem witness_pf : met (.pf pf1) (stand (.pf pf1) (at_ 0x1000)) (fun r => r.t.windows.isEmpty && r.s.requests.isEmpty) = true := by decide +kernel
def mon1 : Std := std 4 2 (c := .imm 0) (ty := .n64) (f := 5)
theorem witness_mon : met (.mon { mon1 with ty := .i32 }) (stand (.mon { mon1 with ty := .i32 }) (sAt 0x1000)) (fun r =>
    Scope.ofCode 5 == some .pkg && r.uea 2 (.imm 0) 8 == .ok 0x1000 && passes r.s r.who 0x1000 8 .read) = true := by decide +kernel
def monw1 : Std := std 4 0 (c := .imm 1)
theorem witness_monw : met (.monw monw1) (stand (.monw monw1) fun g => { g with mon := some (0x1000, .pkg) }) (fun r =>
    r.g.mon == some (0x1000, .pkg) && r.g.operand (.imm 1) 64 0 == .ok 1 && passes r.s r.who 0x1000 8 .read &&
    (match (readVa (acquire r.s r.who .pkg) r.who 0x1000 8 .read).2 with | .bytes bs => ofBytes bs == 0 | _ => false)) = true := by decide +kernel
theorem witness_monw_holds : met (.monw { monw1 with c := .imm 0 }) (stand (.monw { monw1 with c := .imm 0 }) fun g => { g with mon := some (0x1000, .pkg) })
    (fun r => r.g.operand (.imm 0) 64 0 == .ok 0) = true := by decide +kernel
theorem witness_monw_unarmed : met (.monw monw1) (stand (.monw monw1)) (fun r => r.g.mon.isNone) = true := by decide +kernel

/-! Barriers and rings: four barriers, barrier 2 set up for two arrivals; one ring of four stages, stage 1 full. -/

def bars (t : Team) : Team :=
  { t with hdr := { t.hdr with barriers := 4, rings := 1 }
           barriers := [(2, { valid := true, count := 2, pending := 2 })], rings := [(0, { depth := 4, full := 2 })] }
def bar (n : BitVec 8) (f : BitVec 4 := 0) : Std := std 0 5 (c := .imm n) (e := .imm 0) (f := f)
theorem witness_binit : met (.binit (bar 2)) (stand (.binit (bar 2)) (fun g => g.putS 5 8) bars) (fun r =>
    r.barrierNum (bar 2) == .ok 2 && decide (2 < r.t.hdr.barriers) && !r.g.satellite && r.g.pixel.isNone &&
    r.g.readS 5 64 == .ok 8 && (r.t.waiters 2).isEmpty) = true := by decide +kernel
theorem witness_binit_count : met (.binit (bar 2)) (stand (.binit (bar 2)) (fun g => g.putS 5 4096) bars) (fun r =>
    r.g.readS 5 64 == .ok 4096) = true := by decide +kernel
def bar0 (n : BitVec 8) : Std := std 0 0 (c := .imm n) (e := .imm 0)
theorem witness_arrival : ∀ i ∈ [Instr.barr (bar0 2), .barw (bar0 2)], met i (stand i id bars) (fun r =>
    r.barrierNum (bar0 2) == .ok 2 && (r.t.barrier 2).valid && (r.t.barrier 2).pending != 0) = true := by decide +kernel
theorem witness_arrival_tx : met (.barr (bar 2 1)) (stand (.barr (bar 2 1)) (fun g => g.putS 5 64) bars) (fun r =>
    r.g.readS 5 64 == .ok 64) = true := by decide +kernel
theorem witness_arrival_fault : ∀ i ∈ [Instr.barr (bar0 1), .barw (bar0 1)], met i (stand i id bars) (fun r =>
    r.barrierNum (bar0 1) == .ok 1 && !(r.t.barrier 1).valid && r.g.readS 0 64 == .ok 0) = true := by decide +kernel
theorem witness_wait : ∀ i ∈ [Instr.bwait (bar 2), .btest (bar 2)], met i (stand i id bars) (fun r =>
    r.g.readS 5 64 == .ok 0 && (r.t.barrier 2).valid && (r.t.barrier 2).epoch == 0 && (r.t.barrier 2).phase == 0) = true := by decide +kernel
theorem witness_wait_over : met (.bwait (bar 2)) (stand (.bwait (bar 2)) (fun g => g.putS 5 7) bars) (fun r =>
    r.g.readS 5 64 == .ok 7 && (r.t.barrier 2).phase != 7) = true := by decide +kernel
theorem witness_barrier_number : ∀ i ∈ [Instr.binv (bar0 9), .bwait (bar 9)], met i (stand i id bars) (fun r =>
    r.barrierNum (bar0 9) == .ok 9 && decide (r.t.hdr.barriers ≤ 9)) = true := by decide +kernel
theorem witness_binv : met (.binv (bar0 2)) (stand (.binv (bar0 2)) id bars) (fun r => (r.t.barrier 2).valid) = true := by decide +kernel
theorem witness_binv_invalid : met (.binv (bar0 1)) (stand (.binv (bar0 1)) id bars) (fun r => !(r.t.barrier 1).valid) = true := by decide +kernel
theorem witness_btest_poisoned : met (.btest (bar 2)) (stand (.btest (bar 2)) (fun g => g.setS 5 (.bad 4)) bars) (fun r =>
    r.g.readS 5 64 == .bad 4) = true := by decide +kernel
theorem witness_release : let t := (bars (stageTeam .vector)); let g := startGroup t 0 .vector 0 fun _ => true
    { t with groups := [(0, g.setWait 0 (.barrier 2 0 0 5))] }.waiters 2 = [(0, 0, 5)] ∧ (g.setWait 0 (.barrier 2 0 0 5)).pathLanes 0 ≠ [] := by
  decide +kernel
def ring (stage : BitVec 8) (f : BitVec 4) : Std := std 0 0 (c := .imm 0) (e := .imm stage) (f := f)
theorem witness_ring : ∀ i ∈ [Instr.rgwait (ring 1 0), .rgwaitTest (ring 1 2), .rgadv (ring 1 1)], met i (stand i id bars) (fun r =>
    decide (0 < r.t.hdr.rings) && (match mfind 0 r.t.rings with | some q => q.depth == 4 && bitB q.full 1 | none => false)) = true := by
  decide +kernel
theorem witness_ring_waits : ∀ i ∈ [Instr.rgwait (ring 1 1), .rgadv (ring 1 0)], met i (stand i id bars) (fun r =>
    r.g.operand (.imm 1) 64 0 == .ok 1) = true := by decide +kernel
theorem witness_ring_release : let t := bars (stageTeam .vector); let g := (startGroup t 0 .vector 0 fun _ => true).setWait 0 (.ring 0 1 true)
    { t with groups := [(0, g)] }.ringWaiters 0 1 true = [(0, 0)] ∧ g.pathLanes 0 ≠ [] := by decide +kernel
theorem witness_ring_beyond : met (.rgwait (ring 4 0)) (stand (.rgwait (ring 4 0)) id bars) (fun r =>
    decide ((mget {} 0 r.t.rings).depth ≤ 4)) = true := by decide +kernel

/-! Stash windows: window 0 of 128 bytes over address 0x1000, write-back. -/

def window0 (t : Team) : Team :=
  { t with hdr := { t.hdr with stashBytes := 512 }, windows := [(0, { base := 0x1000, len := 128, soff := 0, mode := 2 })] }
def kmap1 (n : BitVec 8) : Std := std 4 5 (c := .s 6) (e := .imm n)
def mapped (b d : Nat) (g : Group) : Group := (g.putS 5 b).putS 6 d
theorem witness_kmap : met (.kmap (kmap1 1)) (stand (.kmap (kmap1 1)) (mapped 0x2000 (128 + 256 * 2 ^ 32)) window0) (fun r =>
    r.g.readS 5 64 == .ok 0x2000 && r.g.operand (.s 6) 64 0 == .ok (128 + 256 * 2 ^ 32) && (mfind 1 r.t.windows).isNone &&
    winLen (128 + 256 * 2 ^ 32) == 128 && winOff (128 + 256 * 2 ^ 32) == 256 && decide (winOff (128 + 256 * 2 ^ 32) + 128 ≤ r.t.hdr.stashBytes)) = true := by
  decide +kernel
theorem witness_kmap_used : met (.kmap (kmap1 0)) (stand (.kmap (kmap1 0)) (mapped 0x2000 128) window0) (fun r => (mfind 0 r.t.windows).isSome) = true := by
  decide +kernel
theorem witness_kmap_overlap : met (.kmap (kmap1 1)) (stand (.kmap (kmap1 1)) (mapped 0x1000 (128 + 256 * 2 ^ 32)) window0) (fun r =>
    (mfind 1 r.t.windows).isNone && r.t.windows.any fun w => decide (w.2.base < 0x1000 + 128)) = true := by decide +kernel
theorem witness_kmap_bad : met (.kmap (std 4 5 (c := .s 6) (e := .s 7))) (stand (.kmap (std 4 5 (c := .s 6) (e := .s 7))) fun g => g.putS 7 16)
    (fun r => r.g.operand (.s 7) 64 0 == .ok 16) = true := by
  decide +kernel
def win (n : BitVec 8) : Std := std 1 0 (e := .imm n)
theorem witness_windows : ∀ i ∈ [Instr.kunmap (win 0), .kwb (win 0), .kinv (win 0), .kwbAll (std 1 0 (f := 1))], met i (stand i id window0) (fun r =>
    (match mfind 0 r.t.windows with | some w => !copiesInto r.s r.tid w | none => false) && (r.writeBack fun _ => true).2.isNone &&
    !r.t.paired && !r.t.contained && (r.writeBack fun k => k == 0).2.isNone) = true := by decide +kernel
theorem witness_barrier_count_zero : met (.binit (bar 2)) (stand (.binit (bar 2)) id bars) (fun r =>
    r.barrierNum (bar 2) == .ok 2 && r.g.readS 5 64 == .ok 0) = true := by decide +kernel
theorem witness_windows_not_live : ∀ i ∈ [Instr.kunmap (win 3), .kwb (win 3), .kinv (win 3)], met i (stand i id window0) (fun r =>
    (mfind 3 r.t.windows).isNone) = true := by decide +kernel
theorem witness_windows_number : ∀ i ∈ [Instr.kunmap (std 1 0 (e := .s 7)), .kwb (std 1 0 (e := .s 7)), .kinv (std 1 0 (e := .s 7))],
    met i (stand i (fun g => g.putS 7 16) window0) (fun r => r.g.operand (.s 7) 64 0 == .ok 16) = true := by decide +kernel
theorem witness_windows_poisoned : ∀ i ∈ [Instr.kunmap (std 1 0 (e := .s 7)), .kwb (std 1 0 (e := .s 7)), .kinv (std 1 0 (e := .s 7))],
    met i (stand i (fun g => g.setS 7 (.bad 1)) window0) (fun r => r.g.operand (.s 7) 64 0 == .bad 1) = true := by decide +kernel

/-! Copies: v2:v3 is the destination, v6:v7 the source, v8:v9 the metadata of every lane. -/

def pairAt (n va : Nat) (g : Group) : Group := (List.range 32).foldl (fun g l => (g.setV n l (.ok (BitVec.ofNat 32 va))).setV (n + 1) l
  (.ok (BitVec.ofNat 32 (va / 2 ^ 32)))) g
def copyGroup (g : Group) : Group := pairAt 2 0x1000 (pairAt 6 0x1100 (pairAt 8 0x1200 g))
def copyTests : List (CopyForm × Std) :=
  copyForms.zip [std 2 6 (ty := .i32) (g := g3), std 2 0 (ty := .i32) (g := g3), std 2 6 (c := .v 8) (ty := .e4m3) (g := g3),
    std 2 6 (c := .v 8) (ty := .e4m3) (f := 1) (g := g3)]
/-- A destination, source or metadata address passes the checks of the copy engine. -/
def copyPassesB (s : State) (tid va n : Nat) (k : Kind) : Bool :=
  match checkAccess s (whoEngine s tid 2) va n k with
  | .ok (.device _) => false
  | .ok _ => true
  | _ => false
def roomFor (r : Run) (s : State) : Bool :=
  let mine := s.copies.filter fun c => c.2.busy && (teamOf s c.2.team).core == r.t.core && (teamOf s c.2.team).onCore
  decide (mine.length < 64) && decide ((mine.filter fun c => c.2.team == r.tid && c.2.group == r.gnum).length < 16)
theorem witness_copies : copyTests.length = 4 ∧ ∀ e ∈ copyTests,
    met (e.1.instr e.2) (stand (e.1.instr e.2) fun g => lane0 (copyGroup g)) (fun r => r.act == [0] && roomFor r r.s && !r.t.paired && !r.t.contained &&
      (copyAddrs e.1 r e.2 0).all fun a => a.1 != .bad 0 && copyPassesB r.s r.tid a.1.val a.2.1 a.2.2) = true := by decide +kernel
theorem witness_copies_inactive : ∀ e ∈ copyTests, met (e.1.instr e.2) (stand (e.1.instr e.2) copyGroup) (fun r => r.act.isEmpty) = true := by
  decide +kernel
/-- Sixteen operations of the group are in the queue of its core. -/
def fullQueue (s : State) : State :=
  { s with copies := (List.range 16).map fun i => (i, { team := 0, group := 0, cid := 0, icn := 0, core := 0, kind := .stamp }) }
theorem witness_copies_wait : ∀ e ∈ copyTests, met (e.1.instr e.2) (fullQueue (stand (e.1.instr e.2) fun g => lane0 (copyGroup g)))
    (fun r => !r.act.isEmpty && !roomFor r r.s) = true := by decide +kernel
theorem witness_copies_with_barrier : met (.cpl (std 2 6 (c := .imm 2) (e := .imm 0) (ty := .i32) (f := 4)))
    (stand (.cpl (std 2 6 (c := .imm 2) (e := .imm 0) (ty := .i32) (f := 4))) copyGroup bars) (fun r =>
      r.barrierNum (std 2 6 (c := .imm 2) (e := .imm 0) (ty := .i32) (f := 4)) == .ok 2 && decide (2 < r.t.hdr.barriers)) = true := by decide +kernel
def cpst1 : Std := std 5 2 (c := .imm 0) (f := 5)
theorem witness_cpst : met (.cpst cpst1) (stand (.cpst cpst1) (sAt 0x1000)) (fun r => roomFor r r.s && r.g.readS 5 64 == .ok 0 &&
    r.uea cpst1.b cpst1.c 8 == .ok 0x1000 && copyPassesB r.s r.tid 0x1000 8 .write && r.g.copyCode == 0 &&
    Scope.ofCode 5 == some .pkg && !r.t.paired && !r.t.contained && (r.writeBack fun _ => true).2.isNone) = true := by decide +kernel
def cpw1 : Std := std 2 4 (c := .s 5) (e := .s 6)
theorem witness_cpw : ∀ n ∈ [0, 16, 2 ^ 40 - 16], met (.cpw cpw1) (stand (.cpw cpw1) fun g => ((g.putS 4 0x1000).putS 5 0x1100).putS 6 n) (fun r =>
    roomFor r r.s && r.g.readS 4 64 == .ok 0x1000 && r.g.operand (.s 5) 64 0 == .ok 0x1100 && r.g.operand (.s 6) 64 0 == .ok n &&
    (mfind 0 r.t.handles).isNone && !r.t.paired && !r.t.contained) = true := by decide +kernel
theorem witness_cpw_misaligned : ∀ n ∈ [8, 2 ^ 40], met (.cpw cpw1) (stand (.cpw cpw1) fun g => ((g.putS 4 0x1000).putS 5 0x1100).putS 6 n) (fun r =>
    roomFor r r.s && r.g.operand (.s 6) 64 0 == .ok n) = true := by decide +kernel
theorem witness_handle_reused : ({ stageTeam .vector with
    handles := (List.range 64).map fun i => (i, { kind := 3, seq := i, status := if i == 5 then 0 else 0x80 }) } : Team).freeHandle = some 5 := by
  decide +kernel

/-! The launch graph: a COUNTER node with count 3 at address 0x1000. -/

def graphs : List (Instr × Nat) := [(.gdec (std 4 5), 3), (.gadd (std 4 5 (c := .imm 2)), 3), (.gsig (std 4 5), 3)]
def node (kind n : Nat) (s : State) : State := setPhysNat (setPhysNat s 0x15000 1 kind) 0x15004 4 n
theorem witness_graph : ∀ e ∈ graphs, met e.1 (node 1 3 (stand e.1 fun g => g.putS 5 0x1000)) (fun r =>
    r.g.readS 5 64 == .ok 0x1000 && r.g.operand (.imm 2) 32 0 == .ok 2 &&
    checkAccess r.s r.who 0x1000 8 .atomic == .ok (.normal 0x15000) && (r.writeBack fun _ => true).2.isNone && inHbm 0x15000 &&
    lineAllows (acquire (noteTranslation (release r.s r.who .pkg) r.who 0x1000 (.ok (.normal 0x15000))) r.who .pkg) r.who.master r.who.cid 0x15000 .atomic &&
    !r.t.paired && !r.t.contained && !isMarked r.s 0x15000) = true := by decide +kernel
theorem witness_graph_buffer_free : notifyStalls ground 0x15000 = false := by
  have h : ground.notifs = [] := rfl
  simp [notifyStalls, h]
theorem witness_graph_buffer_full : notifyStalls
    { ground with notifs := (List.range (Config.notifRoom + 1)).map fun i => (i, { die := 0, cid := 0, icn := 0, va := 0, pa := 0x15000 }) }
    0x15000 = true := by
  simp only [notifyStalls, List.filter_map, Function.comp_def, beq_self_eq_true, List.length_map, decide_eq_true_eq]
  exact Nat.le_of_eq (by rw [List.filter_eq_self.mpr fun _ _ => rfl, List.length_range])
theorem witness_graph_misaligned : ∀ e ∈ graphs, met e.1 (stand e.1 fun g => g.putS 5 0x1040) (fun r => r.g.readS 5 64 == .ok 0x1040) = true := by
  decide +kernel
theorem witness_graph_paired : ∀ e ∈ graphs, met e.1 (stand e.1 (fun g => g.putS 5 0x1000) fun t => { t with paired := true }) (fun r =>
    r.g.readS 5 64 == .ok 0x1000 && r.t.paired) = true := by decide +kernel
theorem witness_graph_poisoned : ∀ e ∈ graphs, met e.1 (stand e.1 fun g => g.setS 5 (.bad 3)) (fun r => r.g.readS 5 64 == .bad 3) = true := by
  decide +kernel
/-- The count at 0, 1, 2 and 2^32 - 1, and the reserved kinds next to the others. -/
theorem witness_graph_counts : (List.range 128).all (fun k => !inCtxTable ground (0x15000 + k)) = true ∧
    ∀ n ∈ [0, 1, 2, 2 ^ 32 - 1], countAt (node 5 n ground) 0x15000 = n ∧ physNat (node 5 n ground) 0x15000 1 = 5 := by decide +kernel
theorem witness_graph_reserved : physNat (node 0 3 ground) 0x15000 1 = 0 ∧ physNat (node 6 3 ground) 0x15000 1 = 6 := by decide +kernel

/-! Faults. -/

theorem witness_region : met (.region (wd 0 0)) (stand (.region (wd 0 0))) (fun r => !commitsFirst r) = true := by decide +kernel
theorem witness_region_commits : met (.region (wd 0 0)) (stand (.region (wd 0 0)) id fun t => { t with contained := true }) commitsFirst = true := by
  decide +kernel
theorem witness_fcont : ∀ i ∈ [Instr.fcont (imm 8 0 0x40), .fcontClr (imm 0 0 0)], met i (stand i) (fun _ => true) = true := by decide +kernel
def fault7 : FaultRec := { cid := 0, icn := 0, core := 0, code := 3, addr := 0x1000, pc := 8, len := 4, mask := 0xFFFFFFFF, group := 0, cont := true }
def redirected (f : FaultRec) (g : Group) : Group := { g with redirected := some f }
def resolves (x : One) (f : FaultRec) (p : FaultRec → Bool) : Bool :=
  met (.fret x) (stand (.fret x) (redirected f)) fun r => maskOf r.lanes == 0xFFFFFFFF && r.g.redirected == some f && p f
theorem witness_fret : resolves (wd 4 0) fault7 (fun f => f.cont && !f.unrec) = true ∧ resolves (wd 4 1) fault7 (fun f => !(f.queued && !f.released)) = true := by
  decide +kernel
theorem witness_fret_refused : resolves (wd 4 0) { fault7 with cont := false } (fun f => !f.cont) = true ∧
    resolves (wd 4 0) { fault7 with mask := 1 } (fun f => f.mask != 0xFFFFFFFF) = true ∧
    resolves (wd 4 0) { fault7 with unrec := true } (fun f => f.unrec) = true ∧
    resolves (wd 4 1) { fault7 with firstFetch := true } (fun f => f.firstFetch) = true ∧
    resolves (wd 4 0) { fault7 with queued := true } (fun f => f.queued && !f.released) = true := by decide +kernel
theorem witness_fret_without_fault : met (.fret (wd 4 0)) (stand (.fret (wd 4 0))) (fun r => r.g.redirected.isNone) = true := by decide +kernel

/-- The team's group holds a fault at 8 and the team stands as given. -/
def faulted (f : FaultRec) (l : Loc) : State :=
  let t := stageTeam .vector
  { ground with teams := [(0, { t with loc := l, groups := mmod 0 (fun g => { g with swapped := some f }) t.groups })] }
def held7 : FaultRec := { fault7 with cont := false, held := true }
theorem witness_rfe : met (.rfe (wd 4 5)) (stand (.rfe (wd 4 5)) fun g => g.putS 5 0) (fun r =>
    r.g.getS 5 == .ok 0 && (r.writeBack fun _ => true).2.isNone) = true := by decide +kernel
theorem witness_rfe_unbuffered : met (.rfe (wd 4 5)) (stand (.rfe (wd 4 5)) fun g => g.putS 5 0) (fun r => !r.t.paired && !r.t.contained) = true := by
  decide +kernel
theorem witness_rfe_reserved : bits (2 ^ 45) 63 45 ≠ 0 ∧ 32 < bits (33 * 2 ^ 32) 37 32 := by decide
theorem witness_rfe_gone : kept State.reset 0 = [] := by decide +kernel
theorem witness_kept : ((kept (faulted held7 .saved) 0).map fun e => (e.1, e.2.loc)) = [(0, .saved)] := by decide +kernel
theorem witness_rfe_nothing_held : ∀ l ∈ [Loc.resident, .saving, .saved],
    ((faulted held7 l).teams.map fun e => (e.2.loc, (e.2.group 1).swapped, (e.2.group 1).redirected)) = [(l, none, none)] := by decide +kernel
theorem witness_rfe_refused : ((faulted { held7 with unrec := true } .saved).teams.map fun e => ((e.2.group 0).swapped.map fun f =>
    (f.action, f.cont, f.unrec))) = [some (none, false, true)] := by decide +kernel
theorem witness_rfe_records : ((faulted held7 .saved).teams.map fun e => ((mfind 0 e.2.groups).isSome, (e.2.group 0).swapped)) =
    [(true, some held7)] := by decide +kernel

theorem witness_fault_held : (match runOf (stand (.ld ld1)) with
    | some r => (mfind r.g.role.num r.t.conts).isNone && r.t.loc == .resident && r.g.swapped.isNone
    | none => false) = true := by decide +kernel
theorem witness_fault_second : ((runOf (stand (.ld ld1) fun g => { g with swapped := some held7 })).map fun r => r.g.swapped) = some (some held7) := by
  decide +kernel
theorem witness_fault_redirected : (match runOf (stand (.ld ld1) id fun t => { t with conts := [(1, { pc := 0x80, base := 8 })] }) with
    | some r => mfind r.g.role.num r.t.conts == some { pc := 0x80, base := 8 } && r.g.redirected.isNone && r.g.swapped.isNone
    | none => false) = true := by decide +kernel
theorem witness_poison_kills : (match runOf (setCtx (stand (.ld ld1) id fun t => { t with bind := { t.bind with cid := 5 } }) 5
      { ctxOf State.reset 5 with state := 1 }) with
    | some r => (addRecord r.s { r.record { code := 5 } false with terminal := true }).1.ctx == r.s.ctx &&
      !r.t.paired && !r.t.contained && r.t.bind.cid == 5 && !bitB (ctxOf r.s 5).flags 2 && (ctxOf r.s 5).state == 1
    | none => false) = true := by decide +kernel
theorem witness_kill_drops : (mfind 0 (stand (.nop (wd 0 0)) id fun t => { t with bind := { t.bind with cid := 5 } }).teams).map (·.bind.cid) = some 5 := by
  decide +kernel

/-! Special values: NaNs and negative numbers of f32 and f64. -/

theorem witness_special_nan : fmt32.decode 0x7FC00000 = .nan false ∧ fmt32.decode 0x7F800001 = .nan true ∧
    fmt64.decode 0x7FF8000000000000 = .nan false ∧ fmt64.decode 0x7FF0000000000001 = .nan true := by decide +kernel
theorem witness_special_negative : ∀ z, fmt32.read z 0xBF800000 = .fin true (2 ^ 23) (-23) ∧
    fmt64.read z 0xBFF0000000000000 = .fin true (2 ^ 52) (-52) := by decide +kernel

/-! Matrix: identifiers 1 to 5 of the region at 0x40000 are valid; s8 on hold the operand block, and the matrix thread has a
lease of four operations. -/

/-- A record of Table 14.1: type code, kind, two extents. -/
def tensor (ty kind d0 d1 : Nat) : Nat :=
  let rank := if kind = 3 then 1 else 2
  let row := if kind = 2 then d0 / 2 else d0
  0x1000 + 2 ^ 64 * (ty + 2 ^ 8 * rank + 2 ^ 16 * (4 * kind)) +
    2 ^ 128 * (d0 + 2 ^ 32 * d1 + 2 ^ 64 + 2 ^ 96) + 2 ^ 256 * (if kind = 3 then 0 else row)
def tensors : List (Nat × Nat) :=
  [(1, tensor 8 0 64 128), (2, tensor 8 0 64 64), (3, tensor 7 3 1 1), (4, tensor 8 2 64 128),
    (5, tensor 8 0 64 128 + 2 ^ 64 * 2 ^ 22 + 2 ^ 448 * 0x2000)]
/-- The cells of a number's bytes. -/
def cells (pa n x : Nat) : List Host.Cell := (toBytes n x).zipIdx.filterMap fun b => if b.1 == 0 then none else some (pa + b.2, b.1)
def withTensors (s : State) : State :=
  { s with
    ctl := { s.ctl with tidbase := 0x40000 }
    mem := s.mem ++ (tensors.flatMap fun e => cells (0x40000 + 64 * e.1) 64 e.2) ++ tensors.flatMap fun e => cells (0x50000 + 2 * e.1) 2 0x8000 }
theorem witness_tensors_well_formed : tensors.all (fun e => (firstBadOffset e.2).isNone) = true := by decide +kernel

/-- What a fill answers. -/
def filled (x : Except Nat (Option Nat)) (v : Option Nat) : Bool := match x with | .ok y => y == v | .error _ => false
def readAs (x : Except Nat Nat) (v : Nat) : Bool := match x with | .ok y => y == v | .error _ => false
def block (vs : List Nat) (g : Group) : Group := vs.zipIdx.foldl (fun g v => g.putS (8 + v.2) v.1) g
def leased (t : Team) : Team := { t with lease := some 4 }
/-- The matrix thread stands at the instruction with the operand block, and s20, s21 hold an address of metadata. -/
def mxStand (i : Instr) (vs : List Nat) : State :=
  withTensors (stand i (fun g => ((block vs g).putS 20 (0xF0 * 2 ^ 48)).putS 21 16) leased)
/-- The path issues with its block, on an engine with room. -/
def mxMet (i : Instr) (vs : List Nat) (p : Run → Bool) : Bool :=
  met i (mxStand i vs) fun r => r.t.lease.isSome && decide ((acceptedOn r.s r.t.core).length < 8) && (mfind 0 r.t.handles).isNone &&
    (vs.zipIdx.all fun v => r.g.readS (8 + v.2) 64 == .ok v.1) && p r
/-- The identifiers are looked up in turn; each is valid, with the record that the tests gave it. -/
def lookAll (r : Run) (m : Master) : List Nat → State → Option State
  | [], s => some s
  | n :: l, s =>
    match ({ r with s := s } : Run).tid_ m n with
    | (u, .ok (some w)) => if (tensors.find? fun e => e.1 == n).map Prod.snd == some w then lookAll r m l u else none
    | _ => none
def looked (r : Run) (ns : List Nat) (p : State → Bool) : Bool := (lookAll r (whoEngine r.s r.tid 1).master ns r.s).any p
/-- The lookup of an identifier by the matrix load pipes answers so. -/
def looksUp (r : Run) (m : Master) (n : Nat) (p : Except Nat (Option Nat) → Bool) : Bool := p (r.tid_ m n).2
def opPasses (r : Run) (op : MxOp) (u : State) : Bool :=
  mxMatches op && mxViewFails u (whoEngine r.s r.tid 1) op == 0 && !(mxPadFails op && !op.spec)
def opWith (r : Run) (x : Std) (kind : MxKind) (a b o : Nat) (vs : List Nat) : MxOp :=
  let rec_ := fun (n : Nat) => ((tensors.find? fun e => e.1 == n).map Prod.snd).getD 0
  { kind := kind, team := r.tid, entry := 0, seq := nextSeq r, pc := r.pc, cid := r.t.bind.cid, icn := r.t.bind.icn
    tile := srcNum x.c, cols := 64 * (x.f.toNat % 4 + 1), spec := x.spec, outliers := bitB x.f.toNat 2 || kind == .mmo, sat := x.sat
    ty := x.ty, recA := rec_ a, recB := rec_ b, recO := rec_ o, ao := originOf vs 1, bo := originOf vs 3, k := vs.getD 5 0 }
def mx6 (f : BitVec 4 := 0) (e : Src := .v 0) : Std := std 4 8 (c := .imm 0) (e := e) (f := f)
def vsAB : List Nat := [1 + 2 ^ 16 * 2, 0, 0, 0, 0, 64]
def vsABO : List Nat := [1 + 2 ^ 16 * 2 + 2 ^ 32 * 3, 0, 0, 0, 0, 64]
theorem witness_mzero : mxMet (.mzero (std 3 0 (c := .imm 0) (f := 2))) [] (fun _ => true) = true := by decide +kernel
theorem witness_mma : mxMet (.mma mx6) vsAB (fun r => looked r [1, 2] (opPasses r (opWith r mx6 .mma 1 2 0 vsAB))) = true := by
  decide +kernel
theorem witness_mma_outliers : mxMet (.mma (mx6 4)) vsABO (fun r => looked r [1, 2, 3]
    (opPasses r (opWith r (mx6 4) .mma 1 2 3 vsABO))) = true := by decide +kernel
def vsSB : List Nat := [4 + 2 ^ 16 * 2, 0, 0, 0, 0, 64]
theorem witness_mmas : mxMet (.mmas (mx6 0 (.s 20))) vsSB (fun r =>
    r.g.readS 20 64 == .ok (0xF0 * 2 ^ 48) && r.g.readS 21 64 == .ok 16 && isLocal (0xF0 * 2 ^ 48) &&
    looked r [4, 2] (opPasses r { opWith r (mx6 0 (.s 20)) .mmas 4 2 0 vsSB with meta_ := (0xF0 * 2 ^ 48, 16) })) = true := by decide +kernel
def vsBO : List Nat := [2 ^ 16 * 2 + 2 ^ 32 * 3, 0, 0, 0, 0, 64]
theorem witness_mmo : mxMet (.mmo mx6) vsBO (fun r => looked r [2, 3] (opPasses r (opWith r mx6 .mmo 0 2 3 vsBO))) = true := by
  decide +kernel
def mld1 : Std := std 3 8 (c := .imm 6) (ty := .f32)
def mst1 (f : BitVec 4) : Std := std 3 8 (c := .imm 6) (ty := .f32) (f := f)
theorem witness_mld : mxMet (.mld mld1) [1, 0, 0] (fun r => decide (tKind (tensor 8 0 64 128) < 2) &&
    looked r [1] (fun u => mxViewFails u (whoEngine r.s r.tid 1) (opWith r mld1 .mld 1 0 0 [1, 0, 0]) == 0) && !mxPadFails (opWith r mld1 .mld 1 0 0 [1, 0, 0])) = true := by
  decide +kernel
theorem witness_mst : ∀ e ∈ ([(1, 0), (5, 4)] : List (Nat × BitVec 4)), mxMet (.mst (mst1 e.2)) [e.1, 0, 0] (fun r =>
    (tensors.all fun k => k.1 != e.1 || (tScaled k.2 == bitB e.2.toNat 2 && decide (tKind k.2 < 2))) &&
    looked r [e.1] (fun u => mxViewFails u (whoEngine r.s r.tid 1) (opWith r (mst1 e.2) .mst e.1 0 0 [e.1, 0, 0]) == 0) &&
    !mxPadFails (opWith r (mst1 e.2) .mst e.1 0 0 [e.1, 0, 0])) = true := by decide +kernel
theorem witness_mx_reserved : mxMet (.mma mx6) [2 ^ 10, 0, 0, 0, 0, 64] (fun _ => true) = true ∧
    mxMet (.mma mx6) [1 + 2 ^ 16 * 2, 0, 0, 0, 0, 2 ^ 32] (fun _ => true) = true := by decide +kernel
theorem witness_mx_words : ¬wordOk (2 ^ 10) false true ∧ ¬wordOk (2 ^ 32) false true ∧ wordOk (2 ^ 32) true true := by
  unfold wordOk; decide +kernel
theorem witness_mx_invalid : ∀ x ∈ [mld1, { mld1 with spec := true }], mxMet (.mld x) [7, 0, 0] (fun r =>
    looksUp r (whoEngine r.s r.tid 1).master 7 fun y => filled y none) = true := by decide +kernel
theorem witness_mx_denied : met (.mld mld1) { mxStand (.mld mld1) [7, 0, 0] with acl := [] } (fun r =>
    looksUp r (whoEngine r.s r.tid 1).master 7 fun y => match y with | .error 3 => true | _ => false) = true := by decide +kernel
theorem witness_mst_mismatch : mxMet (.mst (mst1 0)) [4, 0, 0] (fun r => looked r [4] (fun _ => true) && decide (2 ≤ tKind (tensor 8 2 64 128))) = true ∧
    mxMet (.mst (mst1 4)) [1, 0, 0] (fun r => looked r [1] (fun _ => true) && !tScaled (tensor 8 0 64 128)) = true := by decide +kernel
theorem witness_mma_poisoned : met (.mma mx6) (stand (.mma mx6) fun g => (g.putS 8 1).setS 9 (.bad 6)) (fun r =>
    r.g.readS 8 64 == .ok 1 && r.g.readS 9 64 == .bad 6) = true := by decide +kernel

def mlease1 (n : BitVec 8) : Std := std 2 0 (c := .imm n)
theorem witness_mlease : ∀ n ∈ ([1, 64] : List (BitVec 8)), met (.mlease (mlease1 n)) (stand (.mlease (mlease1 n))) (fun r =>
    r.g.operand (.imm n) 64 0 == .ok n.toNat && r.t.lease.isNone && (coreOf r.s r.t.core).holder.isNone && (coreOf r.s r.t.core).asking.isEmpty) = true := by
  decide +kernel
theorem witness_mlease_waits : met (.mlease (mlease1 4)) (modCore (stand (.mlease (mlease1 4))) 0 fun c => { c with holder := some 9 }) (fun r =>
    r.t.lease.isNone && (coreOf r.s r.t.core).holder.isSome) = true := by decide +kernel
theorem witness_mlease_fault : (∀ n ∈ [0, 65], met (.mlease (std 2 0 (c := .s 6))) (stand (.mlease (std 2 0 (c := .s 6))) fun g => g.putS 6 n) (fun r =>
    r.g.operand (.s 6) 64 0 == .ok n) = true) ∧
    met (.mlease (mlease1 4)) (stand (.mlease (mlease1 4)) id leased) (fun r => r.t.lease.isSome) = true := by decide +kernel
theorem witness_mfree : met (.mfree (wd 0 0)) (stand (.mfree (wd 0 0))) (fun r => r.t.lease.isNone) = true ∧
    met (.mfree (wd 0 0)) (stand (.mfree (wd 0 0)) id leased) (fun r => r.t.lease.isSome) = true := by decide +kernel
theorem witness_acceptance : ∀ n ∈ [1, 64], ((modTeam (stand (.mfree (wd 0 0))) 0 fun t => { t with lease := some n }).teams.map fun e =>
    (e.1, e.2.lease)) = [(0, some n)] := by decide +kernel

/-- Operation 7 of the engine has faulted; s4 holds its handle. -/
def mxFaulted (s : State) : State :=
  { s with mxops := [(7, { kind := .mzero, team := 0, entry := 0, seq := 1, pc := 8, cid := 0, icn := 0, tile := 0, cols := 64, faulted := some 3 })] }
def mxResume : Std := std 4 0 (f := 8)
theorem witness_mma_resume : met (.mmaResume mxResume) (mxFaulted (stand (.mmaResume mxResume) (fun g => g.putS 4 0x1000000000000001) fun t =>
    { leased t with handles := [(0, { kind := 1, seq := 1, status := 2 })] })) (fun r => r.t.lease.isSome && decide ((acceptedOn r.s r.t.core).length < 8) &&
    r.g.readS 4 64 == .ok 0x1000000000000001 && (mfind 0 r.t.handles).isSome &&
    (r.s.mxops.find? fun o => o.2.team == r.tid && o.2.entry == 0 && o.2.seq == 1 && o.2.faulted.isSome).isSome) = true := by decide +kernel
theorem witness_mma_resume_fault : met (.mmaResume mxResume) (stand (.mmaResume mxResume)) (fun r => r.g.readS 4 64 == .ok 0 && 0 / 2 ^ 60 != 1) = true := by
  decide +kernel
/-- One byte that the core's first-level cache holds, and one that it has sent. -/
def holding (s : State) : State :=
  { s with
    l1 := [(0x1000, { byte := 5, dirty := true, cid := 0, icn := 0 })]
    requests := [(3, { target := 0, core := 0, pa := 0x1100, bytes := [(2, 6)], cid := 0, icn := 0, isRead := false })] }
theorem witness_mready : met (.mready (wd 0 0)) (holding (stand (.mready (wd 0 0)))) (fun r =>
    (cachedAt r.s r.t.core 0x1000).length == 1 && (cachedAt r.s r.t.core 0x1102).isEmpty && sentAt r.s r.t.core 0x1102 == [6] &&
    (cachedAt r.s r.t.core 0x1200).isEmpty && (sentAt r.s r.t.core 0x1200).isEmpty) = true := by decide +kernel
theorem witness_mrow : met (.mrow (wd 6 7)) (stand (.mrow (wd 6 7)) handle7 running1) (fun r =>
    r.g.getS 7 == .ok 0x1000000000000001 && (mfind 0 r.t.handles).any fun e => e.seq == 1) = true := by decide +kernel
theorem witness_mrow_fault : met (.mrow (wd 6 7)) (stand (.mrow (wd 6 7))) (fun r => r.g.getS 7 == .ok 0) = true ∧
    met (.mrow (wd 6 7)) (stand (.mrow (wd 6 7)) fun g => g.setS 7 (.bad 4)) (fun r => r.g.getS 7 == .bad 4) = true := by decide +kernel

/-! Tiles and identifiers. -/

def mxTeam (t : Team) : Team := { t with hdr := { t.hdr with matrix := true } }
def tileOps : List Instr := [.tdrain (std 10 4 (c := .s 6) (ty := .n32)), .tfeed (std 4 12 (c := .s 6) (ty := .n32))]
theorem witness_tiles : ∀ row ∈ [0, 127, 128], ∀ i ∈ tileOps, met i (stand i (fun g => g.putS 6 row) mxTeam) (fun r =>
    !r.act.isEmpty && r.t.hdr.matrix && r.g.operand (.s 6) 64 0 == .ok row && r.t.races.isEmpty) = true := by decide +kernel
/-- An operation that nobody has waited for writes the tile. -/
theorem witness_tiles_raced : ∀ i ∈ tileOps, met i (stand i id fun t => { mxTeam t with races := [{ entry := 0, seq := 1, tile := 4, count := 1 }] }) (fun r =>
    !r.act.isEmpty && r.t.hdr.matrix && r.t.races.all fun y => !r.t.waited r.gnum y) = true := by decide +kernel
theorem witness_tiles_without_matrix : ∀ i ∈ tileOps, met i (stand i) (fun r => !r.act.isEmpty && !r.t.hdr.matrix) = true := by decide +kernel
def tdrainOff : Std := std 10 4 (c := .imm 5) (ty := .n32) (g := g3)
theorem witness_tdrain_inactive : met (.tdrain tdrainOff) (stand (.tdrain tdrainOff)) (fun r => r.act.isEmpty) = true := by decide +kernel

def tidset1 : Std := std 1 2 (c := .imm 5) (e := .imm 0)
/-- The matrix thread stands at tidset with a record at address 0x1000. -/
def tidStand (rec_ : Nat) : State := let s := stand (.tidset tidset1) fun g => g.putS 2 0x1000
  withTensors { s with mem := s.mem ++ cells 0x15000 64 rec_ }
def recordAt (r : Run) (p : Nat → Bool) : Bool :=
  match r.readOwn (acquire r.s r.who .pkg) 0x1000 8 with
  | (t, .ok ws) => p (ofBytes (ws.flatMap fun w => toBytes 8 w.toNat)) && tidMayWrite t (coreOfPath r) r.t.bind.cid 5
  | _ => false
theorem witness_tidset : met (.tidset tidset1) (tidStand (tensor 8 0 64 128)) (fun r => r.g.readS 2 64 == .ok 0x1000 &&
    r.barrierNum tidset1 == .ok 5 && recordAt r fun w => (firstBadOffset w).isNone) = true := by decide +kernel
/-- A rank of 0 is reported with its offset. -/
theorem witness_tidset_malformed : met (.tidset tidset1) (tidStand 0) (fun r => recordAt r fun w => firstBadOffset w == some 9) = true := by
  decide +kernel
theorem witness_tidset_numbers : met (.tidset (std 1 2 (c := .s 6))) (stand (.tidset (std 1 2 (c := .s 6))) fun g =>
      (g.putS 2 0x1000).putS 6 1024) (fun r => r.barrierNum (std 1 2 (c := .s 6)) == .ok 1024) = true ∧
    met (.tidset tidset1) (stand (.tidset tidset1) fun g => g.putS 2 0x1020) (fun r => r.g.readS 2 64 == .ok 0x1020) = true := by decide +kernel
theorem witness_tidset_paired : met (.tidset (std 1 2 (c := .s 6))) (stand (.tidset (std 1 2 (c := .s 6))) (fun g => (g.putS 2 0x1000).putS 6 1024)
    fun t => { t with paired := true }) (fun r => r.t.paired && !r.lanes.isEmpty && r.barrierNum (std 1 2 (c := .s 6)) == .ok 1024) = true := by
  decide +kernel
theorem witness_tidinv : ∀ n ∈ [1, 9, 1024], met (.tidinv (wd 1 7)) (withTensors (stand (.tidinv (wd 1 7)) fun g => g.putS 7 n)) (fun r =>
    r.g.readS 7 64 == .ok n && (n == 1024 || (looksUp r (coreOfPath r) n (fun y => filled y
      (if n == 1 then some (tensor 8 0 64 128) else none)) && !r.t.paired && !r.t.contained && (n == 9 || tidMayWrite r.s (coreOfPath r) r.t.bind.cid n)))) = true := by decide +kernel
def tidqs (n : BitVec 8) : List Instr := [.tidq (std 4 0 (c := .imm n) (e := .imm 0) (f := 3)), .tidqState (std 4 0 (c := .imm n) (e := .imm 0) (f := 8))]
theorem witness_tidq : ∀ n ∈ ([1, 9] : List (BitVec 8)), ∀ i ∈ tidqs n, met i (withTensors (stand i)) (fun r =>
    r.barrierNum (std 4 0 (c := .imm n) (e := .imm 0)) == .ok n.toNat && looksUp r (coreOfPath r) n.toNat fun y => filled y
      (if n == 1 then some (tensor 8 0 64 128) else none)) = true := by decide +kernel
theorem witness_tidq_denied : met (.tidq (std 4 0 (c := .imm 1) (e := .imm 0) (f := 3)))
    { withTensors (stand (.tidq (std 4 0 (c := .imm 1) (e := .imm 0) (f := 3)))) with acl := [] } (fun r =>
      looksUp r (coreOfPath r) 1 fun y => match y with | .error 3 => true | _ => false) = true := by decide +kernel
theorem witness_identifier_past : met (.tidqState (std 4 0 (c := .s 6) (f := 8))) (stand (.tidqState (std 4 0 (c := .s 6) (f := 8)))
    fun g => g.putS 6 1024) (fun r => r.barrierNum (std 4 0 (c := .s 6)) == .ok 1024) = true := by decide +kernel
def badS2 : List Instr := [.tidset tidset1, .tidinv (wd 1 2), .tidq (std 4 0 (c := .s 2)), .tidqState (std 4 0 (c := .s 2) (f := 8))]
theorem witness_identifiers_poisoned : ∀ i ∈ badS2, met i (stand i fun g => g.setS 2 (.bad 7)) (fun r => r.g.readS 2 64 == .bad 7 &&
    r.barrierNum (std 4 0 (c := .s 2)) == .bad 7) = true := by decide +kernel
theorem witness_validity : let s := withTensors ground; let m : Master := { cls := 0, idx := 0 }
    readAs (tidRead s m (tidStatePa s 0 1) 2) 0x8000 ∧ (ctxOf s 0).icn = 0 ∧ readAs (tidRead s m (tidRecPa s 0 1) 64) (tensor 8 0 64 128) ∧
    readAs (tidRead s m (tidStatePa s 0 9) 2) 0 ∧ tidMayWrite s m 0 1 = true ∧ inCtxTable s (tidStatePa s 0 1) = false ∧
    inCtxTable s (tidStatePa s 0 1 + 1) = false ∧ mfind (idKey 0 0 1) s.ids = none ∧
    filled (tidFill s m 0 1) (some (tensor 8 0 64 128)) = true ∧
    mfind (idKey 0 0 1) (tidLook s 0 m 0 1).1.ids = some (tensor 8 0 64 128) := by decide +kernel

/-! Collectives: slot 3 of the team is bound to tag 9 as rank 1 of 2. -/

def bound3 (t : Team) : Team := { t with slots := [(3, { tag := 9, size := 2, rank := 1 })] }
def decl1 : Std := std 1 2 (c := .imm 3)
def decl (d : Nat) (team : Team → Team) (p : Run → Bool) : Bool :=
  met (.coldecl decl1) (stand (.coldecl decl1) (fun g => g.putS 2 d) team) fun r => r.g.readS 2 64 == .ok d && p r
/-- Tag 9, two members, rank 0; the largest size with its largest rank; a size past it, and a rank past its size. -/
theorem witness_coldecl : ∀ d ∈ [9 + 2 * 2 ^ 32, 9 + 64 * 2 ^ 32 + 63 * 2 ^ 40], decl d id (fun r => (mfind 3 r.t.slots).isNone &&
    (colGroupOf r.s r.t.bind.cid 9).isNone && decide ((r.s.colGroups.filter fun e => e.2.die == r.t.core / 128).length < 256)) = true := by
  decide +kernel
theorem witness_coldecl_words : declOk (9 + 64 * 2 ^ 32 + 63 * 2 ^ 40) ∧ ¬declOk (9 + 65 * 2 ^ 32) ∧ ¬declOk (9 + 2 * 2 ^ 32 + 2 * 2 ^ 40) := by
  unfold declOk; decide +kernel
theorem witness_coldecl_again : decl (9 + 2 * 2 ^ 32) bound3 (fun r => (mfind 3 r.t.slots).all fun sl => r.slotBusy 3 sl == 0) = true ∧
    decl 0 bound3 (fun r => !r.t.paired && !r.t.contained) = true ∧ decl (2 ^ 48) id (fun _ => true) = true := by decide +kernel
/-- An operation of the team's rank is outstanding in its group. -/
def busy3 (s : State) : State :=
  { s with
    colGroups := [(4, { cid := 0, tag := 9, size := 2, die := 0, members := [(1, (0, 3))] })]
    colls := [(6, { cg := 4, q := 0, parts := [(1, { team := 0, group := 0, handles := [], op := .barrier, ty := .i32, f := 0, src := 0, dst := 0, m := 0 })] })] }
theorem witness_coldecl_busy : met (.coldecl decl1) (busy3 (stand (.coldecl decl1) (fun g => g.putS 2 (9 + 2 * 2 ^ 32)) bound3)) (fun r =>
    (mfind 3 r.t.slots).any fun sl => r.slotBusy 3 sl == 1) = true := by decide +kernel
theorem witness_coldecl_poisoned : met (.coldecl decl1) (stand (.coldecl decl1) fun g => g.setS 2 (.bad 4)) (fun r => r.g.readS 2 64 == .bad 4) = true := by
  decide +kernel
def collTests : List (Instr × ColKind) :=
  [(.colag (std 4 8 (c := .imm 3)), .gather), (.colrs (std 4 8 (c := .imm 3) (ty := .bf16) (f := 2)), .reduce),
    (.colaa (std 4 8 (c := .imm 3)), .all), (.colbar (std 4 0 (c := .imm 3)), .barrier)]
def collOperands (g : Group) : Group := ((g.putS 8 0x1000).putS 9 0x1400).putS 10 256
theorem witness_coll : ∀ e ∈ collTests, met e.1 (stand e.1 collOperands bound3) (fun r =>
    (mfind 3 r.t.slots == some { tag := 9, size := 2, rank := 1 }) && r.g.readS 8 64 == .ok 0x1000 && r.g.readS 9 64 == .ok 0x1400 &&
    r.g.readS 10 64 == .ok 256 && !r.t.meetsWindow 0x1000 (collBytes e.2 2 256).1 && !r.t.meetsWindow 0x1400 (collBytes e.2 2 256).2 &&
    (badPage r.s r.who 0x1000 (collBytes e.2 2 256).1 .read).isNone && (badPage r.s r.who 0x1400 (collBytes e.2 2 256).2 .write).isNone &&
    (mfind 0 r.t.handles).isNone && !r.t.paired && !r.t.contained && (r.writeBack fun _ => true).2.isNone && r.slotBusy 3 { tag := 9, size := 2, rank := 1 } == 0) = true := by
  decide +kernel
theorem witness_coll_unbound : ∀ e ∈ collTests, met e.1 (stand e.1 collOperands) (fun r => (mfind 3 r.t.slots).isNone) = true := by decide +kernel
/-- Class 0 to 7 where the context may use it, and class 8. -/
def allowed (s : State) : State := setCtx s 0 { ctxOf s 0 with classes := 0x85 }
theorem witness_cprio : ∀ k ∈ ([0, 1, 7] : List (BitVec 8)), met (.cprio (std 1 0 (c := .imm k))) (allowed (stand (.cprio (std 1 0 (c := .imm k))))) (fun r =>
    r.g.operand (.imm k) 64 0 == .ok k.toNat && bitB (ctxOf r.s r.t.bind.cid).classes k.toNat == (k != 1)) = true := by decide +kernel
theorem witness_cprio_past : met (.cprio (std 1 0 (c := .s 6))) (stand (.cprio (std 1 0 (c := .s 6))) fun g => g.putS 6 8) (fun r =>
    r.g.operand (.s 6) 64 0 == .ok 8) = true ∧
    met (.cprio (std 1 0 (c := .s 6))) (stand (.cprio (std 1 0 (c := .s 6))) fun g => g.setS 6 (.bad 2)) (fun r => r.g.operand (.s 6) 64 0 == .bad 2) = true := by
  decide +kernel

/-! Surfaces: the table at 0x80000; surface 4 is a depth surface and surface 5 one of format 0, of 64 by 64 pixels. -/

def surface (format state flags : Nat) : Nat :=
  0x100000 + 2 ^ 64 * (64 + 2 ^ 16 * 64 + 2 ^ 32 + 2 ^ 48 + 2 ^ 56 * format) + 2 ^ 128 * (2 ^ 16) + 2 ^ 192 * 0x200000 + 2 ^ 320 * (state + 2 ^ 8 * flags)
def withSurfaces (s : State) (flags : Nat := 0) : State :=
  { s with
    ctl := { s.ctl with sfbase := 0x80000 }
    mem := s.mem ++ cells 0x80100 64 (surface 9 1 flags) ++ cells 0x80140 64 (surface 0 1 flags) }
/-- v4 holds a coordinate and s6 a selector. -/
def surfOps : List (Instr × SurfKind × Nat × Nat) :=
  [(.sfblend (std 8 4 (c := .s 6) (f := 1)), .blend, 4, 5), (.sfdepth (std 1 4 (c := .s 6) (e := .v 5) (f := 1)), .depth, 1, 4),
    (.sfld (std 10 4 (c := .s 6)), .load, 1, 5), (.sfst (std 10 4 (c := .s 6)), .store, 1, 5)]
def stdOf : Instr → Std
  | .sfblend x => x
  | .sfdepth x => x
  | .sfld x => x
  | .sfst x => x
  | _ => std 0 0
def guarded (i : Instr) : Instr :=
  match i with
  | .sfblend x => .sfblend { x with g := g3 }
  | .sfdepth x => .sfdepth { x with g := g3 }
  | .sfld x => .sfld { x with g := g3 }
  | .sfst x => .sfst { x with g := g3 }
  | .tex x => .tex { x with g := g3 }
  | .texg x => .texg { x with g := g3 }
  | .texq x => .texq { x with g := g3 }
  | .trace x => .trace { x with g := g3 }
  | i => i
theorem witness_surface_ops : ∀ e ∈ surfOps, met (guarded e.1) (withSurfaces (stand (guarded e.1) fun g => lane0 (g.putS 6 e.2.2.2))) (fun r =>
    r.act == [0] && r.inWindow && !r.t.paired && !r.t.contained && r.act.all fun l => (firstTok (surfSrcs r e.2.1 (stdOf e.1) e.2.2.1 l)).isNone &&
      (r.surfCheck e.2.1 (stdOf e.1) e.2.2.1 l).2 == 0) = true := by decide +kernel
theorem witness_surface_inactive : ∀ e ∈ surfOps, met (guarded e.1) (stand (guarded e.1)) (fun r => r.act.isEmpty) = true := by decide +kernel
def inst5 (d : Draw) : Inst := { die := 0, cid := 0, icn := 0, eprio := 0, va := 0, pa := 0, node := 0, draw := some d }
/-- The group shades batch 64 of a tile whose batch 0 is unfinished. -/
def outside (s : State) : State :=
  { s with insts := [(5, inst5 { batches := [(7, { next := 65, unfinished := [0, 64] })] })] }
def pixel64 (g : Group) : Group := { g with pixel := some { ticket := 5, tile := 7, batch := 64 } }
theorem witness_surface_waits : ∀ e ∈ surfOps, met e.1 (outside (stand e.1 pixel64)) (fun r => !r.act.isEmpty && !r.inWindow) = true := by
  decide +kernel
/-- The last pixel of the surface and the first beyond it, a surface that is not live, and a format that does not fit. -/
theorem witness_surface_checks : let s := withSurfaces ground
    sfReadCode s { cls := 0, idx := 0 } 0 5 = 0 ∧ sfLive s 0 5 = true ∧ 63 < sfField s 0 5 8 2 ∧ sfField s 0 5 8 2 ≤ 64 ∧ sfLive s 0 0 = false ∧ sfReadCode s { cls := 0, idx := 0 } 0 0 = 0 ∧
    kindFits .load 0 (sfField s 0 5 0xF 1) = true ∧ kindFits .depth 0 (sfField s 0 5 0xF 1) = false := by decide +kernel

def sfTests (n : BitVec 8) : List Instr := [.sffree (std 1 0 (c := .imm n) (e := .imm 0)), .sfpin (std 1 0 (c := .imm n) (e := .imm 0)),
  .sfpinUnpin (std 1 0 (c := .imm n) (e := .imm 0) (f := 1)), .sfevict (std 3 0 (c := .imm n) (e := .imm 0))]
def sfRegs : List Instr := [.sffree (std 1 0 (c := .s 7)), .sfpin (std 1 0 (c := .s 7)), .sfpinUnpin (std 1 0 (c := .s 7) (f := 1)), .sfevict (std 3 0 (c := .s 7))]
theorem witness_sf_past : ∀ i ∈ sfRegs, met i (stand i fun g => g.putS 7 1024) (fun r => r.barrierNum (std 1 0 (c := .s 7)) == .ok 1024) = true ∧
    met i (stand i fun g => g.setS 7 (.bad 4)) (fun r => r.barrierNum (std 1 0 (c := .s 7)) == .bad 4) = true := by decide +kernel
theorem witness_sf_not_live : ∀ i ∈ sfTests 0, met i (withSurfaces (stand i)) (fun r => sfReadCode r.s (coreOfPath r) r.t.bind.cid 0 == 0 &&
    !sfLive r.s r.t.bind.cid 0) = true := by decide +kernel
def liveB (r : Run) (n : Nat) : Bool := sfReadCode r.s (coreOfPath r) r.t.bind.cid n == 0 && sfLive r.s r.t.bind.cid n
def mayWrite (r : Run) (n off : Nat) (b : Byte) : Bool := (hwWrite r.s { cls := 0, idx := r.t.core } (sfEntry r.s r.t.bind.cid n + off) [b]).2
theorem witness_sf_live : ∀ i ∈ sfTests 5, met i (withSurfaces (stand i)) (fun r => r.barrierNum (std 1 0 (c := .imm 5) (e := .imm 0)) == .ok 5 && liveB r 5 &&
    !sfPinned r.s r.t.bind.cid 5 && !surfaceBusy r.s r.t.bind.cid 5 && mayWrite r 5 0x28 0 && mayWrite r 5 0x29 1 && mayWrite r 5 0x29 0 &&
    (mfind 0 r.t.handles).isNone) = true := by decide +kernel
theorem witness_sf_pinned : ∀ i ∈ sfTests 5, met i (withSurfaces (stand i) 1) (fun r => liveB r 5 && sfPinned r.s r.t.bind.cid 5) = true := by decide +kernel
theorem witness_sf_busy : met (.sffree (std 1 0 (c := .imm 5) (e := .imm 0))) (let s := withSurfaces (stand (.sffree (std 1 0 (c := .imm 5) (e := .imm 0))))
    { s with sfops := [(9, { team := 0, group := 1, path := 0, cid := 0, icn := 0, kind := .store, f := 0, a := 0, regs := 1, spec := false, words := [], order := none, lanes := [{ lane := 0, x := 0, y := 0, smp := 0, sid := 5 }] })] })
    (fun r => liveB r 5 && surfaceBusy r.s r.t.bind.cid 5 && mayWrite r 5 0x28 2) = true := by decide +kernel
theorem witness_pins_fit : pinsFit (withSurfaces ground) 0 5 = true := by decide +kernel
theorem witness_pins_full : pinsFit { (withSurfaces ground 1) with
    mem := (withSurfaces ground 1).mem ++ cells 0x80180 64 (surface 0 1 1 + 2 ^ 64 * (16383 - 64 + 2 ^ 16 * (16384 - 64) + 2 ^ 32 * 15)) } 0 6 = false := by decide +kernel
def sfalloc1 (d : Nat) : State :=
  let s := stand (.sfalloc (std 1 2)) fun g => g.putS 2 0x1000
  let s := { s with mem := s.mem ++ cells 0x15000 64 d }
  { s with ctl := { s.ctl with sfbase := 0x80000 } }
def descriptorAt (r : Run) (p : State → Nat → Bool) : Bool :=
  match r.readOwn (acquire r.s r.who .pkg) 0x1000 8 with
  | (t, .ok ws) => p t (ofBytes (ws.flatMap fun w => toBytes 8 w.toNat))
  | _ => false
theorem witness_sfalloc : met (.sfalloc (std 1 2)) (sfalloc1 (surface 0 0 0)) (fun r => r.g.readS 2 64 == .ok 0x1000 && descriptorAt r fun t d =>
    (badFields d).isEmpty && sfReadCode t (coreOfPath r) r.t.bind.cid 0 == 0 && sfField t r.t.bind.cid 0 0x28 1 == 0 && !noSpace t d &&
    (hwWrite t { cls := 0, idx := r.t.core } (sfEntry t r.t.bind.cid 0) (toBytes 64 (d + descSize d * 2 ^ 256 + 2 ^ 320))).2) = true := by decide +kernel
theorem witness_sfalloc_malformed : met (.sfalloc (std 1 2)) (sfalloc1 0) (fun r => descriptorAt r fun _ d => (badFields d).head? == some 8) = true := by
  decide +kernel
def sfmapTests : List Instr := [.sfmap (std 4 0 (c := .imm 128)), .sfmap (std 4 0 (c := .imm 128) (f := 1)), .sfmap (std 4 0 (c := .imm 255) (f := 2))]
theorem witness_sfmap : ∀ i ∈ sfmapTests, met i (stand i) (fun _ => true) = true := by decide +kernel

/-! The vertical queue and the samplers: a draw of ticket 5 is under way. -/

def drawing (s : State) : State :=
  { s with insts := [(5, inst5 {})] }
def drawn (t : Team) : Team := { t with bind := { t.bind with ticket := 5 } }
def pushes_ : List Instr := [.vqpush (std 0 2 (c := .s 3)), .rsbind (std 0 2 (c := .s 3))]
def pushRegs (g : Group) : Group := (g.putS 2 0x1000).putS 3 1023
def queueRoom (r : Run) : Bool :=
  let mine := ((r.s.texops.filter fun e => e.2.core == r.t.core).map fun e => (e.2.team, e.2.group)) ++
    ((r.s.pushes.filter fun e => e.2.core == r.t.core).map fun e => (e.2.team, e.2.group)) ++
    (r.s.teams.filter fun t => t.2.core == r.t.core).flatMap fun t => (t.2.items.filter Item.isPush).map fun i => (t.1, i.group)
  decide (mine.length < 32) && decide ((mine.filter fun e => e == (r.tid, r.gnum)).length < 8)
/-- NEXT is 0: ordinal 1023 is sent, and 1024 waits. -/
theorem witness_pushes : ∀ i ∈ pushes_, ∀ k ∈ [1023, 1024], met i (drawing (stand i (fun g => (pushRegs g).putS 3 k) drawn)) (fun r =>
    !(r.g.waitOf r.path).isPush && queueRoom r && r.g.readS 2 64 == .ok 0x1000 &&
    r.g.operand (.s 3) 64 0 == .ok k && ((mfind 5 r.s.insts).bind Inst.draw).map (fun d => d.next) == some 0 && !bitB r.t.bind.tx 31 && !r.t.paired && !r.t.contained && ((mfind r.t.bind.ticket r.s.insts).any fun n => n.draw.isSome) &&
    (match r.readOwn r.s 0x1000 8 with | (_, .ok _) => true | _ => false)) = true := by decide +kernel
/-- Eight operations of the group are in the queue of its core. -/
def queueFull (s : State) : State :=
  { s with pushes := (List.range 8).map fun i => (i, { team := 0, group := 0, core := 0, ticket := 5, ordinal := i, data := 0, bind := false }) }
/-- Its push has left the queue. -/
theorem witness_pushes_done : ∀ i ∈ pushes_, met i (stand i fun g => g.setWait 0 (.pushed 4)) (fun r => (r.g.waitOf r.path).isPush) = true := by
  decide +kernel
theorem witness_pushes_wait : ∀ i ∈ pushes_, met i (queueFull (stand i)) (fun r => !queueRoom r && !(r.g.waitOf r.path).isPush) = true := by decide +kernel
theorem witness_pushes_fault : ∀ i ∈ pushes_, met i (stand i pushRegs) (fun r => queueRoom r && !(r.g.waitOf r.path).isPush && (mfind r.t.bind.ticket r.s.insts).isNone) = true := by
  decide +kernel
theorem witness_vqfence : met (.vqfence (wd 0 0)) (stand (.vqfence (wd 0 0))) (fun r => !groupFooting r.s r.tid r.gnum &&
    (groupAt (collectReports r.s r.tid r.gnum) r.tid r.gnum).reportCode != 5) = true := by decide +kernel
theorem witness_vqfence_waits : met (.vqfence (wd 0 0)) (queueFull (stand (.vqfence (wd 0 0)))) (fun r => groupFooting r.s r.tid r.gnum) = true := by
  decide +kernel
def texTests : List Instr := [.tex (std 8 4 (c := .s 6)), .texg (std 8 4 (c := .s 6) (e := .v 12)), .texq (std 2 0 (c := .s 6) (e := .imm 0) (f := 1))]
/-- A descriptor of 64 by 64 texels with one layer and one level. -/
def descriptor : Nat := 0x2000 + 2 ^ 64 * (2 ^ 16 * 64 + 2 ^ 32 * 64 + 2 ^ 48) + 2 ^ 128
def texMet (i : Instr) (d : Nat) (p : Run → Nat → Bool) : Bool :=
  met (guarded i) (let s := stand (guarded i) fun g => lane0 (g.putS 6 0x1000)
    { s with mem := s.mem ++ cells 0x15000 32 d }) fun r => r.act == [0] && queueRoom r && r.g.operand (.s 6) 64 0 == .ok 0x1000 &&
    (match readDesc r.s r.who 0x1000 (List.range 8) with
      | (t, .ok bs) => p { r with s := t } (ofBytes (r.overlay r.act 0x1000 bs))
      | _ => false)
theorem witness_tex : ∀ i ∈ texTests, texMet i descriptor (fun _ d => !texMalformed d) = true ∧ texMet i 0 (fun _ d => texMalformed d) = true := by decide +kernel
/-- A descriptor of KIND 2 that names identifier 1 where it is valid, where it is not, and where its line is denied. -/
def byIdentifier : Nat := 1 + 2 ^ 72 * 2 + 2 ^ 128
theorem witness_tex_identifier : ∀ i ∈ texTests, texMet i byIdentifier (fun r d => !texMalformed d && texKindOf d == 2 &&
    looksUp { r with s := withTensors r.s } (whoEngine r.s r.tid 3).master (fieldAt d 0 8) (fun y => filled y (some (tensor 8 0 64 128))) &&
    looksUp r (whoEngine r.s r.tid 3).master (fieldAt d 0 8) (fun y => filled y none) &&
    looksUp { r with s := { r.s with acl := [] } } (whoEngine r.s r.tid 3).master (fieldAt d 0 8) fun y => match y with | .error 3 => true | _ => false) = true := by
  decide +kernel
theorem witness_tex_address : ∀ i ∈ texTests, met i (stand i fun g => g.putS 6 0x1010) (fun r => !r.act.isEmpty && queueRoom r &&
    r.g.operand (.s 6) 64 0 == .ok 0x1010) = true ∧
    met i (stand i fun g => g.setS 6 (.bad 9)) (fun r => !r.act.isEmpty && queueRoom r && r.g.operand (.s 6) 64 0 == .bad 9) = true := by decide +kernel
def trace1 : Std := std 16 8 (c := .s 6) (e := .imm 255) (f := 1)
theorem witness_trace : met (.trace trace1) (stand (.trace trace1) fun g => g.putS 6 0x1000) (fun r => !r.act.isEmpty && queueRoom r) = true := by decide +kernel
theorem witness_footing_inactive : ∀ i ∈ texTests ++ [.trace trace1], met (guarded i) (stand (guarded i)) (fun r => r.act.isEmpty) = true := by decide +kernel

/-! Contexts: CID 5, with s3 naming it. -/

def withCtx (state : Nat) (s : State) : State := setCtx s 5 { ctxOf s 5 with state := state, icn := 1 }
def ctxMet (i : Instr) (v : Nat) (f : State → State) (p : State → Bool) : Bool :=
  met i (f (stand i fun g => g.putS 3 v)) fun r => r.g.getS 3 == .ok (BitVec.ofNat 64 v) && !r.t.paired && !r.t.contained &&
    (r.writeBack fun _ => true).2.isNone && p (release r.s r.who .sys)
def killOrReclaim : List Instr := [.ckill (wd 0 3), .crcl (wd 0 3)]
/-- Bits that both reserve, and the first of each that it does not. -/
theorem witness_ctx_reserved : ∀ i ∈ killOrReclaim, ctxMet i (2 ^ 10 + 5) id (fun _ => true) = true ∧ ctxMet i (2 ^ 17 + 5) id (fun _ => true) = true ∧
    ctxMet i 0 id (fun _ => true) = true := by decide +kernel
theorem witness_ctx_free : ∀ i ∈ killOrReclaim, ctxMet i 5 id (fun s => (ctxOf s 5).state == 0 && !inTransition s 5) = true := by decide +kernel
theorem witness_ctx_waits : ∀ i ∈ killOrReclaim, ctxMet i 5 (fun s => addOp s 5 { kind := 1 }) (fun s => inTransition s 5) = true := by decide +kernel
/-- ckill answers at once in states 2 and 3, crcl in state 1; ckill starts in state 1, crcl in 2 and 3. -/
theorem witness_ctx_states : ∀ i ∈ killOrReclaim, ∀ k ∈ [1, 2, 3], ctxMet i 5 (withCtx k) (fun s => (ctxOf s 5).state == k && !inTransition s 5) = true := by
  decide +kernel
theorem witness_ckill_retires : ctxMet (.ckill (wd 0 3)) (2 ^ 16 + 5) (withCtx 1) (fun s => (ctxOf s 5).state == 1) = true := by decide +kernel
theorem witness_ctx_poisoned : ∀ i ∈ killOrReclaim, met i (stand i fun g => g.setS 3 (.bad 8)) (fun r => r.g.getS 3 == .bad 8) = true := by decide +kernel

/-! Translations: s2 an address, s3 a CID, s4 a length. -/

def tlbTests : List (Instr × Bool) := [(.tlbinvPage (std 1 2 (c := .s 3)), true), (.tlbinvRange (std 1 2 (c := .s 3) (e := .s 4) (f := 1)), true),
  (.tlbinvCid (std 1 0 (c := .s 3) (f := 2)), false), (.tlbinvAll (std 1 0 (f := 3)), false)]
def tlbRegs (va cid n : Nat) (g : Group) : Group := ((g.putS 2 va).putS 3 cid).putS 4 n
def tlbMet (i : Instr) (va cid n : Nat) : Bool :=
  met i (stand i (tlbRegs va cid n)) fun r => !r.t.paired && !r.t.contained && (r.writeBack fun _ => true).2.isNone &&
    r.g.operand (.s 3) 64 0 == .ok cid && r.g.operand (.s 4) 64 0 == .ok n && r.g.getS 2 == .ok (BitVec.ofNat 64 va)
theorem witness_tlbinv : ∀ e ∈ tlbTests, ∀ v ∈ [(0x1000, 0, 0x100), (0x1000, 1023, 1), (0x1000, 5, 2 ^ 56 - 0x1000)], v.2.1 < 1024 ∧
    tlbMet e.1 v.1 v.2.1 v.2.2 = true := by decide +kernel
theorem witness_tlbinv_extents : isLocal 0x1000 = false ∧ (ground.copies.any fun c => c.2.uses [{ cid := some 0, lo := 0, hi := 2 ^ 56 }]) = false := by
  decide +kernel
/-- A CID past 1023, a local address, no length, and a range past the last address. -/
theorem witness_tlbinv_refused : (∀ e ∈ tlbTests, ∀ v ∈ [(0x1000, 1024, 1), (0xF0 * 2 ^ 48, 5, 1), (0x1000, 5, 0), (0x1000, 5, 2 ^ 56 - 0xFFF)],
    tlbMet e.1 v.1 v.2.1 v.2.2 = true) ∧ isLocal (0xF0 * 2 ^ 48) = true ∧ isLocal (0xF0 * 2 ^ 48 - 1) = false := by decide +kernel
def pgprobe1 : Std := std 1 2 (c := .s 3)
def probed (va cid : Nat) (p : Run → Bool) : Bool := met (.pgprobe pgprobe1) (stand (.pgprobe pgprobe1) (tlbRegs va cid 0)) fun r =>
  r.g.getS 2 == .ok (BitVec.ofNat 64 va) && r.g.operand (.s 3) 64 0 == .ok cid && p r
theorem witness_pgprobe : probed 0x1000 0 (fun r => match walk (acquire r.s r.who .pkg) { cls := 0, idx := 0 } 0 0x1000 with | .page _ 0 => true | _ => false) = true ∧
    probed 0x4000 0 (fun r => match walk (acquire r.s r.who .pkg) { cls := 0, idx := 0 } 0 0x4000 with | .fail _ _ 0 => true | _ => false) = true ∧
    probed 0x1000 1024 (fun _ => true) = true ∧ probed 0x1000 7 (fun r => (ctxOf r.s 7).state == 0) = true ∧
    probed (0xF0 * 2 ^ 48) 0 (fun r => (ctxOf r.s 0).state == 1 && isLocal (0xF0 * 2 ^ 48)) = true := by decide +kernel

/-! CTXCMD and the messages of contexts. -/

def idle (s : State) : Bool := !bitB s.ctl.bootstat 1 && !s.ctl.fatal && !s.ctl.ctxcmd.go
theorem witness_commands : idle ground = true ∧ (ctxOf ground 5).state = 0 ∧ inTransition ground 5 = false ∧
    (∀ k ∈ [1, 2, 3], idle (withCtx k ground) = true ∧ (ctxOf (withCtx k ground) 5).state = k ∧ inTransition (withCtx k ground) 5 = false) ∧
    1024 % 1024 = 0 ∧ (8 + 1) / 8 ≠ 0 ∧ 5 ≤ 5 % 8 ∧ (0 % 8 = 0) := by decide +kernel
/-- The host may open in host-assisted mode, and give the other commands for a context whose kills it serves. -/
theorem witness_host_commands : bitB 1 0 = true ∧ bitB (ctxOf (setCtx ground 5 { ctxOf ground 5 with flags := 4 }) 5).flags 2 = true := by decide +kernel
theorem witness_command_ignored : let s := { ground with ctl := { ground.ctl with ctxcmd := { ground.ctl.ctxcmd with go := true } } }
    bitB s.ctl.bootstat 1 = false ∧ s.ctl.fatal = false ∧ s.ctl.ctxcmd.go = true ∧ bitB ground.ctl.hmode 0 = false := by decide +kernel
def told (applied : Bool) : State := { withCtx 2 ground with updates := [(3, { target := 7, cid := 5, icn := 2, live := true, applied := applied })] }
theorem witness_updates : ∀ a ∈ [false, true], (told a).updates.map (fun e => (e.1, e.2.applied, e.2.cid)) = [(3, a, 5)] ∧
    (told a).ctl.ctxcmd.waiting = false ∧ (merase 3 (told a).updates).any (fun e => e.2.cid == 5) = false ∧ inTransition (told a) 5 = false := by decide +kernel
theorem witness_ack_more : (merase 3 (mput 4 { target := 8, cid := 5, icn := 2, live := true } (told true).updates)).any (fun e => e.2.cid == 5) = true := by
  decide +kernel
theorem witness_ack_opens : inTransition (addOp (told true) 5 { kind := 1 }) 5 = true ∧ ((opsOf (addOp (told true) 5 { kind := 2 }) 5).any fun o => o.kind == 2) = true ∧
    inTransition (addOp (told true) 5 { kind := 2 }) 5 = false := by decide +kernel
theorem witness_quiet : let s := { ground with lit := [(7 * 1024 + 5, { quiet := false, live := true, icn := 2 })] }
    (litOf s 7 5).quiet = false ∧ (s.requests.any fun r => r.2.cid == 5 && r.2.icn != (litOf s 7 5).icn) = false ∧
    (s.responses.any fun r => r.2.cid == 5 && r.2.icn != (litOf s 7 5).icn) = false := by decide +kernel
/-- A target lets go of a dirty line of an old incarnation in core 0's cache (target 256); a write of one stands at a slice. -/
def oldBytes : State :=
  { ground with
    lit := [(256 * 1024 + 5, { quiet := false, live := true, icn := 2 }), (sliceOf 0x15000 * 1024 + 5, { quiet := false, live := true, icn := 2 })]
    l1 := [(l1Key 0 0x15000, { byte := 7, dirty := true, cid := 5, icn := 1 }), (l1Key 0 0x15001, { byte := 8, dirty := true, cid := 5, icn := 2 })]
    past := [(0x15000, { cid := 5, icn := 1, vals := [9] })] }
theorem witness_quiet_drops : (litOf oldBytes 256 5).quiet = false ∧ holdsOld (dropOld oldBytes 256 5 2) 256 5 2 = false ∧
    (dropOld oldBytes 256 5 2).l1 = [(l1Key 0 0x15001, { byte := 8, dirty := true, cid := 5, icn := 2 })] ∧
    inCtxTable oldBytes 0x15000 = false ∧ (oldBytes.past.filter fun e => e.1 == 0x15000).length = 1 ∧
    staleAt oldBytes (sliceOf 0x15000) 5 0x15000 { cid := 5, icn := 1, vals := [9] } := by
  unfold staleAt; decide +kernel
theorem witness_quiet_waits : let s := { oldBytes with requests := [(9, { target := 256, core := 0, cid := 5, icn := 1, pa := 0x15000, bytes := [(3, 7)], isRead := false })] }
    holdsOld (dropOld s 256 5 2) 256 5 2 = true := by decide +kernel
theorem witness_kill_steps : (mfind 0 (stand (.nop (wd 0 0)) id fun t => { t with bind := { t.bind with cid := 5 } }).teams).isSome = true := by decide +kernel
theorem witness_reclaim : ∀ k ∈ [2, 3], let s := addOp (withCtx k ground) 5 { kind := 3 }
    (opsOf s 5).any (fun o => o.kind == 3) = true ∧ (opsOf s 5).any (fun o => o.kind != 3) = false ∧ (s.updates.any fun u => u.2.cid == 5) = false ∧
    s.ctl.ctxcmd.waiting = false ∧ (ctxOf s 5).state = k := by decide +kernel
theorem all_targets_quiet (g : Nat) : (litOf ground g 5).quiet = true := rfl
theorem witness_command_ends : ({ ground with ctl := { ground.ctl with ctxcmd := { ground.ctl.ctxcmd with go := true, ended := some 3 } } } : State).ctl.ctxcmd.ended = some 3 := rfl

/-! Requests and responses: the line of address 0x15000, with slice 4. -/

def asking (r : Request) (s : State) : State := { s with requests := [(9, r)] }
def request0 : Request := { target := 4, core := 0, cid := 0, icn := 0, pa := 0x15000, bytes := [(3, 7)], isRead := false }
theorem witness_requests : ∀ r ∈ [request0, { request0 with bytes := [], isRead := true }], let s := asking r ground
    nextRequest s 4 = some 9 ∧ dropped s 4 0 0 = false ∧ lineAllows s (coreMaster 0) 0 0x15000 .write = true ∧
    lineAllows s (coreMaster 0) 0 0x15000 .read = true ∧ isMarked s 0x15000 = false := by decide +kernel
theorem witness_request_denied : lineAllows { asking request0 ground with acl := [] } (coreMaster 0) 0 0x15000 .write = false := by decide +kernel
theorem witness_request_stale : nextRequest (asking { request0 with cid := 5 } ground) 4 = some 9 ∧ dropped ground 4 5 0 = true := by decide +kernel
/-- The requester is on the other die, and a mortar module no longer holds the incarnation. -/
def farAway : State :=
  { withCtx 2 ground with lit := (sliceOf 0x15000 * 1024 + 5, { quiet := true, live := true, icn := 1 }) ::
      [(456 * 1024 + 5, { quiet := true, live := true, icn := 1 })] }
theorem witness_mortar_drops : wayDrops farAway (coreMaster 200) 0x15000 5 1 = true ∧ dropped farAway (sliceOf 0x15000) 5 1 = false ∧
    (wayTargets farAway (coreMaster 200) 0x15000).isEmpty = false ∧ (wayTargets farAway (coreMaster 0) 0x15000).isEmpty = true ∧
    dropped farAway 456 5 1 = false := by decide +kernel
def response0 : Response := { core := 0, cid := 0, icn := 0, pa := 0x15000, bytes := physBytes ground 0x15000 128 }
theorem witness_responses : mfind 9 ({ ground with responses := [(9, response0)] } : State).responses = some response0 ∧ dropped ground 256 0 0 = false ∧
    dropped ground 256 5 0 = true ∧ mfind (l1Key 0 0x15000) ground.l1 = none := by decide +kernel
def cached (d : Bool) : State := { ground with l1 := [(l1Key 0 0x15000, { byte := 7, dirty := d, cid := 0, icn := 0 }), (l1Key 0 0x15001, { byte := 8, dirty := false, cid := 0, icn := 0 })] }
theorem witness_evictions : ∀ d ∈ [false, true], (lineCells (cached d) 0 (0x15000 / 128)).map (fun e => (e.2.dirty, e.2.cid, e.2.icn, e.2.by_)) =
    [(d, 0, 0, none), (false, 0, 0, none)] := by decide +kernel
theorem witness_messages : let s := { stand (.nop (wd 0 0)) with reports := [(9, { team := 0, group := 0, code := 3 })] }
    mfind 9 s.reports = some { team := 0, group := 0, code := 3 } ∧ ((mfind 0 s.teams).bind fun t => mfind 0 t.groups).isSome = true := by decide +kernel
theorem witness_aged : (waitingAt (asking request0 ground) 4).find? (fun x => !x.2.aged) = some (9, request0) := by decide +kernel

/-! Walks, notices and notifications. -/

theorem witness_walks : (match walk ground (coreMaster 0) 0 0x1000 with | .page pte l => pteR pte && pteType pte == 0 && inHbm (leafPa pte l 0x1000) | _ => false) = true ∧
    (match walk ground (coreMaster 0) 0 0x4000 with | .fail .. => true | _ => false) = true := by decide +kernel
def notice0 : Notice := { core := 0, entry := 0, teamend := false, wb := false, mal := false, lvl := 0, kind := 1, code := 1, icn := 0, cid := 0, va := 0x4000 }
/-- TAIL 4095 and 4096 with HEAD 0. -/
theorem witness_notices : noticeRoom { ground with mem := cells (noticeQueue ground 0 0) 8 4095 } notice0 = true ∧
    noticeRoom { ground with mem := cells (noticeQueue ground 0 0) 8 4096 } notice0 = false := by decide +kernel
def notif0 (s : State) : State := { s with notifs := [(9, { die := 0, cid := 0, icn := 0, va := 0x1000, pa := 0x15000 })] }
theorem witness_notifications : isCurrent ground 0 0 = true ∧ isCurrent ground 5 0 = false ∧
    notifReady (notif0 ground) 9 { die := 0, cid := 0, icn := 0, va := 0x1000, pa := 0x15000 } = true := by decide +kernel
def entry0 (node : Nat) : QueueEnt := { die := 0, cid := 0, icn := 0, va := 0x1000, pa := 0x15000, eprio := 3, node := node }
/-- 512 entries of the level are queued. -/
theorem witness_notifications_wait : notifReady { ground with queue := (List.range 512).map fun i => (i, { entry0 0 with eprio := 0 }) }
    9 { die := 0, cid := 0, icn := 0, va := 0x1000, pa := 0x15000 } = false := by decide +kernel
def enqueued (node : Nat) : State := { ground with queue := [(9, entry0 node)] }
/-- A bulk copy of 256 bytes from 0x1000 onto itself (KIND 2). -/
def bulkNode : Nat := 2 + 2 ^ 256 * 0x1000 + 2 ^ 320 * 0x1000 + 2 ^ 384 * 256
theorem witness_instances : nextEntry (enqueued bulkNode) 0 = some (9, entry0 bulkNode) ∧ nodeKind bulkNode = 2 ∧
    nodeCode (enqueued bulkNode) (entry0 bulkNode) (nodeReads (enqueued bulkNode) (entry0 bulkNode)) = 0 := by decide +kernel
theorem witness_instance_fails : nextEntry (enqueued 0) 0 = some (9, entry0 0) ∧
    nodeCode (enqueued 0) (entry0 0) (nodeReads (enqueued 0) (entry0 0)) ≠ 0 := by decide +kernel
/-- A bulk copy of 16 bytes from 0x1000 onto itself. -/
def bulkInst (gaps : Option (List (Nat × Nat))) : Inst :=
  { die := 0, cid := 0, icn := 0, eprio := 3, va := 0x1000, pa := 0x15000, node := 2 + 2 ^ 256 * 0x1000 + 2 ^ 320 * 0x1000 + 2 ^ 384 * 16, gaps := gaps }
theorem witness_bulk_lines : nodeKind (bulkInst none).node = 2 ∧ (bulkInst none).left = [(0, 1)] ∧ countIn (bulkInst none).left ≠ 0 ∧
    (bulkInst (some [])).left = [] ∧ (bulkInst none).nextLine 0 = 0 := by decide +kernel
/-- One page maps the first 64 GiB onto themselves; one mortar module is left, which admits every copy engine, as the targets
of the lines do. -/
def mortarOpen : State :=
  { ground with
    mem := [(0x4000, 0x01), (0x4001, 0x80), (0x8000, 0x3B)], mortarOut := List.range 11
    acl := [0, 4, 32, 40, 48, 91].map fun t => (t * 256, { stageAcl with mclass := 2 }) }
/-- Whichever core's engine performs the copy, its places are there and its bytes move. -/
theorem witness_bulk_copies : bulkWaits mortarOpen (bulkInst none) 0 = false ∧ (let a := (bulkInst none).copyAt 0
      match unitPlaces mortarOpen (bulkInst none) a.2.1 a.2.2 .read, unitPlaces mortarOpen (bulkInst none) a.1 a.2.2 .write with
      | .ok fs, .ok ds => (moveBulk (bulkInst none).who mortarOpen fs ds).2 == 0
      | _, _ => false) = true := by
  unfold bulkWaits unitPlaces copyPlace Inst.who Inst.engine
  have h : Config.freeNat (bulkInst none).pa (2 ^ 61) % Config.cores < 256 := Nat.mod_lt _ (by decide)
  revert h
  generalize Config.freeNat (bulkInst none).pa (2 ^ 61) % Config.cores = k
  revert k
  decide +kernel
/-- The source of this one is in a page that is not mapped. -/
def badInst : Inst := { bulkInst none with node := 2 + 2 ^ 256 * 2 ^ 36 + 2 ^ 320 * 0x1000 + 2 ^ 384 * 16 }
theorem witness_bulk_fails : bulkWaits mortarOpen badInst 0 = false ∧ (match unitPlaces mortarOpen badInst (badInst.copyAt 0).2.1 (badInst.copyAt 0).2.2 .read with
    | .error _ => true
    | _ => false) = true := by
  unfold bulkWaits unitPlaces copyPlace Inst.who Inst.engine
  have h : Config.freeNat badInst.pa (2 ^ 61) % Config.cores < 256 := Nat.mod_lt _ (by decide)
  revert h
  generalize Config.freeNat badInst.pa (2 ^ 61) % Config.cores = k
  revert k
  decide +kernel
theorem witness_instance_done : instDone ground 5 { bulkInst none with node := 1 } = true := by decide +kernel
theorem witness_decrements : let s := { ground with decs := [(5, { die := 0, cid := 0, icn := 0, left := [(0, 0x1000)] })] }
    mfind 5 s.insts = none ∧ (mfind 5 s.decs).isSome = true := by decide +kernel
/-- Two notifications of one node: the later waits for the earlier. -/
theorem witness_notified_twice : let s := notif0 ground
    ({ s with notifs := s.notifs ++ [(10, { die := 0, cid := 0, icn := 0, va := 0x1000, pa := 0x15000 })] } : State).notifs.map (fun e => (e.1, e.2.pa)) =
      [(9, 0x15000), (10, 0x15000)] := by decide +kernel

/-! Dispatch: a grid of one team (KIND 1) with ticket 5 runs; every target admits every core. -/

def openTables (s : State) : State := { s with acl := granuleTargets.map fun t => (t * 256, stageAcl) }
def gridNode : Nat := 1 + 2 ^ 320 * (1 + 2 ^ 32 + 2 ^ 48)
def gridInst : Inst := { die := 0, cid := 0, icn := 0, eprio := 3, va := 0x1000, pa := 0x15000, node := gridNode, hdr := { vecGroups := 1, vecRegs := 8 } }
def bindSlot (b : Bind) : State := { openTables ground with insts := [(5, gridInst)], slots := [(16, b)] }
/-- Slot 16 is the first of core 1. -/
theorem witness_bind : let b : Bind := { ticket := 5, mslot := 0xFF, save := 0x100 }
    (mget {} 16 (bindSlot b).slots).result ≠ 1 ∧ bindCode (bindSlot b) { b with cmd := 1 } (128 * 0 + 16 / 16) = 0 := by decide +kernel
theorem witness_bind_fails : bindCode (bindSlot {}) { cmd := 2 } 1 = 0x81 ∧ bindCode (bindSlot {}) { cmd := 1, ticket := 6 } 1 = 0x82 ∧
    (mget {} 16 (bindSlot { result := 1 }).slots).result = 1 := by decide +kernel
/-- Every thread of the team's group has exited. -/
def exitedTeam (t : Team) : Team :=
  { t with groups := t.groups.map fun g => (g.1, { g.2 with threads := g.2.threads.map fun h => { h with exited := true } }) }
theorem witness_team_ends : let s := stand (.nop (wd 0 0)) id exitedTeam
    ((mfind 0 s.teams).any fun t => t.finished s 0 && (t.dirtyLines fun _ => true).isEmpty) = true ∧
    ((mfind 0 (stand (.nop (wd 0 0))).teams).any fun t => !t.finished (stand (.nop (wd 0 0))) 0) = true := by decide +kernel
theorem witness_marks : ((mfind 0 (stand (.nop (wd 0 0)) fun g => { g with paths := [(0, { age := 1024 })] }).teams).any fun t =>
    (t.group 0).paths.any fun p => p.2.wait == .none && decide (1024 ≤ p.2.age)) = true := by decide +kernel
/-- Two records of one target in spawn memory, and no other group runs. -/
def spawned (t : Team) : Team := { exitedTeam t with hdr := { t.hdr with satellites := 1, records := 64, live := 2 }, spawn := [{ target := 0x40, vals := [] }, { target := 0x40, vals := [] }] }
theorem witness_churn : let s := stand (.nop (wd 0 0)) id spawned
    ((mfind 0 s.teams).any fun t => teamRuns s 0 t && t.churnTarget == some 0x40) = true := by decide +kernel

/-! The copy engine: a copy of 16 bytes by lane 4, a stamp, and a bulk copy. -/

def lane4 : LaneCopy := { lane := 4, dst := (0x1010, .normal 0x15010), src := some (0x1000, .normal 0x15000) }
def copy0 : CopyOp := { team := 0, group := 0, core := 0, cid := 0, icn := 0, kind := .cpl, size := 16, lanes := [lane4], bar := some (2, 0) }
def copying (c : CopyOp) : State := { stand (.nop (wd 0 0)) id bars with copies := [(9, c)] }
theorem witness_copy_lane : (readyLanes (copying copy0) 9 copy0).map LaneCopy.lane = [4] ∧
    readyLanes (copying { copy0 with lanes := [] }) 9 { copy0 with lanes := [] } = [] ∧ (teamOf (copying copy0) 0).paired = false := by decide +kernel
theorem witness_copy_reports : (mfind 9 (copying { copy0 with owed := [true, false], fails := [{ code := 3, lost := true }] }).copies).map (fun c => (c.owed, c.fails)) =
    some ([true, false], [{ code := 3, lost := true }]) ∧
    ((mfind 0 (copying copy0).teams).bind fun t => mfind 0 t.groups).isSome = true := by decide +kernel
def stamp0 : CopyOp := { copy0 with kind := .stamp, lanes := [{ lane := 0, dst := (0x1000, .normal 0x15000) }], bar := none, va := 0x1000, val := 7, scope := .pkg }
/-- The stash is written back, the writes before the stamp are performed, and the stamp is written without a code. -/
def stamps (s : State) (c : CopyOp) : Bool :=
  match stampFlush s c with
  | (t, none) => !(teamOf t c.team).paired && (writeStamp (release t (c.who s) c.scope) (c.who s) c).2 == 0
  | _ => false
theorem witness_stamp : stampReady (copying stamp0) 9 stamp0 = true ∧ stampReady { copying stamp0 with copies := [(8, copy0), (9, stamp0)] } 9 stamp0 = false ∧
    stamp0.withheld = false ∧ stamp0.ended = none ∧ stamps { copying stamp0 with copies := [] } stamp0 = true ∧
    stamps { copying stamp0 with copies := [] } { stamp0 with scope := .grp } = true := by decide +kernel
/-- A released entry has failed the write-back of this one. -/
theorem witness_stamp_ended : let c := { stamp0 with ended := some (3, 1) }
    stampReady (copying c) 9 c = true ∧ (teamOf (copying c) 0).paired = false ∧
    ((mfind 0 (copying c).teams).bind fun t => mfind 0 t.groups).isSome = true := by decide +kernel
def cpw0 (gaps : List (Nat × Nat)) (b : Option Nat) : CopyOp :=
  { copy0 with kind := .cpw, lanes := [], bar := none, dst := 0x1000, src := 0x1100, len := 128, gaps := gaps, handles := [(0, 0, 1)], blocked := b }
def cpwing (c : CopyOp) : State := { stand (.nop (wd 0 0)) id (fun t => { t with handles := [(0, { kind := 3, seq := 1 })] }) with copies := [(9, c)] }
theorem witness_cpw_moves : cpwReady (cpwing (cpw0 [(0, 1)] none)) 9 (cpw0 [(0, 1)] none) = true ∧ cpwReady (cpwing (cpw0 [] none)) 9 (cpw0 [] none) = false := by
  decide +kernel
theorem witness_cpw_ends : cpwEnd (cpwing (cpw0 [] none)) (cpw0 [] none) = some (0, 0) ∧ cpwEnd (cpwing (cpw0 [(0, 1)] none)) (cpw0 [(0, 1)] none) = none ∧
    ((mfind 0 (cpwing (cpw0 [] none)).teams).bind fun t => mfind 0 t.handles).map (fun e => e.seq) = some 1 := by decide +kernel

/-! The matrix engine of core 0, with operation 9 at its head. -/

def asks (h : Option Nat) : State :=
  modCore (stand (.mfree (wd 0 0))) 0 fun c => { c with holder := h, asking := [(0, 7)] }
theorem witness_lease_grant : (coreOf (asks none) 0).holder = none ∧ nextLease (asks none) 0 = some (0, 7) ∧ (teamOf (asks none) 0).core = 0 ∧
    (coreOf (asks (some 3)) 0).holder.isSome = true := by decide +kernel
def mxOp0 : MxOp := { kind := .mld, team := 0, entry := 0, seq := 1, pc := 8, cid := 0, icn := 0, tile := 6, cols := 64, ty := .f32, recA := tensor 4 0 64 128, ao := [0, 0, 0, 0], bo := [0, 0, 0, 0] }
/-- The engine holds the operation, whose thread is resident. -/
def engine (op : MxOp) (cancel : Bool := false) : State :=
  { stand (.mfree (wd 0 0)) id (fun t => { t with handles := [(0, { kind := 1, seq := 1, cancel := cancel })] }) with mxops := [(9, op)] }
def heads (op : MxOp) (s : State) : Bool :=
  !((acceptedOn s 0).any fun e => mxCancelled s e.2) && mxHead s 0 == some (9, op) && mxRuns s op && op.failed.isNone
/-- A window outside its tensor loads padding; a product of no terms is done at once. -/
def mxPadding : MxOp := { mxOp0 with ao := [64, 0, 0, 0] }
def mxEmpty : MxOp := { mxOp0 with kind := .mma, recA := tensor 8 0 64 128, recB := tensor 8 0 64 64, k := 0 }
theorem witness_mx_running : heads mxPadding (engine mxPadding) = true ∧ (match (mxStep (engine mxPadding) mxPadding).2 with | .running _ => true | _ => false) = true := by decide +kernel
theorem witness_mx_done : heads mxEmpty (engine mxEmpty) = true ∧ (match (mxStep (engine mxEmpty) mxEmpty).2 with | .done _ => true | _ => false) = true ∧
    ((mfind 0 (mxStep (engine mxEmpty) mxEmpty).1.teams).bind fun t => mfind 0 t.handles).map (fun e => e.seq) = some 1 := by decide +kernel
/-- The page of the tensor at 0x4000 is remote, and the only port to its device is in Recovery. -/
def remotePage (s : State) : State :=
  { s with mem := s.mem ++ cells 0x10008 8 (0xFB + 2 ^ 52), ports := [(3, { st := 2 })], ctl := { s.ctl with devno := 2, route := [(1, 8)] } }
def mxRemote : MxOp := { mxOp0 with recA := tensor 4 0 64 128 + 0x3000 }
theorem witness_mx_waits : heads mxRemote (remotePage (engine mxRemote)) = true ∧
    (match (mxStep (remotePage (engine mxRemote)) mxRemote).2 with | .stop _ .wait => true | _ => false) = true := by decide +kernel
theorem witness_mx_fails : heads mxOp0 { engine mxOp0 with marked := [0x15000 / 128] } = true ∧
    (match (mxStep { engine mxOp0 with marked := [0x15000 / 128] } mxOp0).2 with | .stop _ (.failed _ none) => true | _ => false) = true := by decide +kernel
theorem witness_mx_cancelled : ((acceptedOn (engine mxOp0 true) 0).find? fun y => mxCancelled (engine mxOp0 true) y.2 && (teamOf (engine mxOp0 true) y.2.team).loc == .resident) =
    some (9, mxOp0) := by decide +kernel

/-! Collectives, surfaces and evictions. -/

def part (h : HandleEnt → HandleEnt) (m : Nat) (size : Nat) : State :=
  { stand (.nop (wd 0 0)) id (fun t => { t with handles := [(0, h { kind := 2, seq := 1 })] }) with
    colGroups := [(4, { cid := 0, tag := 9, size := size, die := 0, members := [(0, (0, 3))] })]
    colls := [(6, { cg := 4, q := 0, parts := [(0, { team := 0, group := 0, handles := [(0, 0, 1)], op := .gather, ty := .i32, f := 0, src := 0x1000, dst := 0x1400, m := m })] })] }
def collOf (s : State) : Coll := mget { cg := 0, q := 0 } 6 s.colls
theorem witness_collectives : collReady (part id 16 2) (collOf (part id 16 2)) = false ∧
    (let s := part (fun e => { e with cancel := true }) 16 2; collReady s (collOf s) = true ∧ (collOf s).parts.length < collSize s (collOf s)) := by decide +kernel
/-- Both ranks of a barrier have issued. -/
def barriers2 : State :=
  let s := part id 0 2
  { s with colls := s.colls.map fun e => (e.1, { e.2 with parts := [0, 1].flatMap fun r => e.2.parts.map fun p => (r, { p.2 with op := .barrier, src := 0, dst := 0 }) }) }
/-- Two ranks of which one gathers what the other's destination holds, and two that lie apart: no byte has moved, or all. -/
def gather2 (dst : Nat) (left : Option (List ColUnit)) : State :=
  let s := part id 16 2
  { s with colls := s.colls.map fun e => (e.1, { e.2 with left := left, parts := [0, 1].flatMap fun r => e.2.parts.map fun p =>
      (r, { p.2 with src := 0x1000 + 16 * r, dst := dst + 64 * r }) }) }
theorem witness_collectives_overlap : let s := gather2 0x1000 none
    colOverlaps 2 ((collOf s).parts.map Prod.snd) = true ∧ collReady s (collOf s) = true := by decide +kernel
theorem witness_collectives_move : let s := gather2 0x1020 none
    colOverlaps 2 ((collOf s).parts.map Prod.snd) = false ∧ collReady s (collOf s) = true ∧ collCancelled s (collOf s) = false ∧
    (unitsOf 2 ((collOf s).parts.map Prod.snd)).length = 4 ∧ (unitsOf 2 ((collOf (gather2 0x1020 (some []))).parts.map Prod.snd)).length = 4 := by
  decide +kernel
/-- Rank 1's first unit holds rank 0's source once moved (R328). -/
theorem test_unit_moves : let s := { gather2 0x1020 none with mem := ground.mem ++ cells 0x15000 16 0xABCDEF }
    let t := moveUnit s ((collOf s).parts.map Prod.snd) { rank := 1, unit := 0 } 0xFFFF
    t.2.1 = 0 ∧ physNat t.1 0x15060 4 = 0xABCDEF := by decide +kernel
theorem witness_collectives_done : collReady barriers2 (collOf barriers2) = true ∧ collSize barriers2 (collOf barriers2) ≤ (collOf barriers2).parts.length ∧
    partsAgree ((collOf barriers2).parts.map Prod.snd) = true ∧ collCancelled barriers2 (collOf barriers2) = false ∧
    (colMove barriers2 2 ((collOf barriers2).parts.map Prod.snd) false).2.1 = 0 ∧
    ((mfind 0 barriers2.teams).bind fun t => mfind 0 t.handles).map (fun e => e.seq) = some 1 := by decide +kernel
/-- Two ranks that disagree about m. -/
theorem witness_collectives_disagree : let c := collOf (part id 16 2)
    let d := { c with parts := c.parts ++ (collOf (part id 32 2)).parts.map fun p => (1, p.2) }
    collReady (part id 16 2) d = true ∧ collSize (part id 16 2) d ≤ d.parts.length ∧ partsAgree (d.parts.map Prod.snd) = false := by decide +kernel
def store0 : SurfOp := { team := 0, group := 0, path := 0, cid := 0, icn := 0, kind := .store, lanes := [{ lane := 0, x := 3, y := 2, smp := 0, sid := 5, data := 7 }] }
def tile5 (t : TileSt) (s : State) : State := { s with tiles := [(tileKey 0 5 0, t)] }
def surfing (o : SurfOp) : State := { withSurfaces (stand (.nop (wd 0 0))) with sfops := [(9, o)] }
theorem witness_surface_applies : surfReady (tile5 { resident := true } (surfing store0)) 9 store0 = true ∧ surfReady (surfing store0) 9 store0 = false ∧
    store0.touches (surfing store0) = some (5, 0) ∧
    (applyTile (tile5 { resident := true } (surfing store0)) store0 (store0.nextTile (tile5 { resident := true } (surfing store0)))).2.rest = [] ∧
    (applyTile (tile5 { resident := true } (surfing store0)) store0 (store0.nextTile (tile5 { resident := true } (surfing store0)))).2.kind = .store := by decide +kernel
/-- The brick units admit the operations of every core. -/
def bricksOpen (s : State) : State := { s with acl := s.acl ++ (List.range 2048).map fun k => ((2048 + k) * 256, stageAcl) }
theorem witness_surface_denied : (store0.denied (tile5 { resident := true } (surfing store0)) 5 0).isSome = true ∧
    (store0.denied (bricksOpen (tile5 { resident := true } (surfing store0))) 5 0).isNone = true := by decide +kernel
/-- A second lane in another tile is still to come; a lane without an effect touches nothing. -/
def store1 : SurfOp := { store0 with lanes := [{ lane := 0, x := 3, y := 2, smp := 0, sid := 5, data := 7 }, { lane := 1, x := 3, y := 2, smp := 0, sid := 4, data := 7 }] }
theorem witness_surface_goes_on : let s := tile5 { resident := true } (surfing store1)
    surfReady s 9 store1 = true ∧ (applyTile s store1 (store1.nextTile s)).2.rest ≠ [] ∧
    ({ store0 with lanes := [] } : SurfOp).touches s = none ∧ surfReady s 9 { store0 with lanes := [] } = true := by decide +kernel
theorem witness_tiles_move : (0, 5, 0) ∈ wantedTiles (surfing store0) ∧ touchTile (surfing store0) 0 5 0 = .bring ∧ (tileOf (surfing store0) 0 5 0).spilled = none ∧
    (0, 5, 1) ∉ wantedTiles (surfing store0) ∧ spillWanted (surfing store0) 0 5 0 = false := by decide +kernel
def evict0 (left : List Nat) : Evict := { team := 0, entry := 0, seq := 1, cid := 0, sid := 5, left := left }
def evicting (w : Bool) (left : List Nat) : State :=
  { tile5 { resident := true, written := w } (withSurfaces (stand (.nop (wd 0 0)) id fun t => { t with handles := [(0, { kind := 4, seq := 1 })] })) with evicts := [(9, evict0 left)] }
def cancelling : State := modTeam (evicting true [0]) 0 fun t => { t with handles := [(0, { kind := 4, seq := 1, cancel := true })] }
theorem witness_evictions_end : evictNext (evicting true [0]) (evict0 [0]) = some 0 ∧ evictCancelled (evicting true [0]) (evict0 [0]) = false ∧
    evictNext (evicting true []) (evict0 []) = none ∧
    evictNext cancelling (evict0 [0]) = some 0 ∧ evictCancelled cancelling (evict0 [0]) = true := by decide +kernel
/-- Tile 0 of surface 4, never written, takes all of the bank that tile 0 of surface 5 needs. -/
def fullBank : State :=
  let s := stand (.nop (wd 0 0))
  { s with
    ctl := { s.ctl with sfbase := 0x80000 }
    mem := s.mem ++ cells 0x80100 64 (surface 6 1 0 + 2 ^ 64 * (3 * 2 ^ 48)) ++ cells 0x80140 64 (surface 0 1 0)
    sfops := [(9, store0)], tiles := [(tileKey 0 4 0, { resident := true })] }
theorem witness_spills : spillWanted fullBank 0 4 0 = true ∧ (tileOf fullBank 0 4 0).written = false := by decide +kernel

/-! Draws: ticket 5 with its sequencer at ordinal 10. -/

def push0 (n : Nat) (b : Bool) : Push := { team := 0, group := 0, core := 0, ticket := 5, ordinal := n, data := 0, bind := b }
def draw10 : Draw := { next := 10, held := [(12, 0)], heldBinds := [(12, 0)] }
def pushing (p : Push) : State := { ground with pushes := [(9, p)], insts := [(5, inst5 draw10)] }
theorem witness_pushes_arrive : ∀ n ∈ [9, 10, 12, 13, 1033, 1034], ∀ b ∈ [false, true], mfind 9 (pushing (push0 n b)).pushes = some (push0 n b) ∧
    busFrozen (pushing (push0 n b)) 0 = false ∧ (mfind 5 (pushing (push0 n b)).insts).bind Inst.draw = some draw10 ∧ mfind 10 draw10.held = none ∧
    mfind 11 draw10.held = none := by decide +kernel
theorem witness_drain : drainReady ground 5 = false ∧ drainReady { ground with insts := [(5, inst5 draw10)] } 5 = true := by decide +kernel
theorem witness_raster : let it : RasterItem := { ticket := 5, core := 0, ordinal := 0, prim := 0, state := 0 }
    rasterReady { ground with raster := [(9, it)] } 9 it = true ∧ rasterReady { ground with raster := [(8, it), (9, it)] } 9 it = false := by decide +kernel
theorem witness_open_group : let d : Draw := { open_ := [(7, { core := 0, sshade := false, samples := 1 })] }
    drawOf { ground with insts := [(5, inst5 d)] } 5 = some d ∧ (mfind 7 d.open_).isSome = true := by decide +kernel
def closed0 : ClosedGroup := { ticket := 5, core := 0, tile := 7, batch := 0, sshade := false, samples := 1, quads := [] }
theorem witness_pixel_launch : launchSlot ground 9 closed0 = none ∧
    launchSlot (stand (.nop (wd 0 0)) id fun t => { t with groups := [], bind := { t.bind with ticket := 5, tx := 2 ^ 31 } }) 9 closed0 = some (0, 0) := by decide +kernel
def texop0 (k : TexKind) : TexOp := { team := 0, group := 0, path := 0, core := 0, kind := k, a := 16, spec := false, lanes := [(0, .bad 7), (31, .bad 8)] }
theorem witness_footing_results : ∀ k ∈ [TexKind.tex, .texq, .trace], let s := { stand (.nop (wd 0 0)) with texops := [(9, texop0 k)] }
    busFrozen s 0 = false ∧ (texop0 k).lanes = [0, 31].map (fun (l : Nat) => (l, PV.bad (if l = 0 then 7 else 8))) ∧ [0, 31].Nodup ∧
    (runOf { s with texops := merase 9 s.texops, at_ := some { team := 0, group := 0, path := 0, len := 8 } }).isSome = true := by decide +kernel
theorem witness_bus_frozen : busFrozen (modDie ground 0 fun d => { d with vbusFrozen := true }) 0 = true := by decide +kernel

/-! Monitors, commits, the watchdog and saves. -/

theorem witness_monitor_wakes : ∀ seen ∈ [0, 1], let s := stand (.nop (wd 0 0)) fun g => { g with mon := some (0x1000, .pkg), paths := [(0, { wait := .monitor seen })] }
    (match readVa s (whoCore s 0) 0x1000 8 .read with | (_, .bytes bs) => ofBytes bs == 0 | _ => false) = true ∧
    ((mfind 0 s.teams).bind fun t => mfind 0 t.groups).any (fun g => (mfind 0 g.paths).any fun p => p.wait == .monitor seen) = true := by decide +kernel
def commits (g : Group) : Group := { g with paths := [(0, { wait := .twin 0 })] }
theorem witness_commit : (commitSet (stand (.nop (wd 0 0)) commits fun t => { t with contained := true }) 0 0 0).isSome = true ∧
    (teamOf (stand (.nop (wd 0 0)) commits fun t => { t with contained := true }) 0).items = [] := by decide +kernel
theorem witness_items_may_go (s : State) (team group : Nat) (lanes : List Nat) (h : (teamOf s team).items = []) : itemsMayGo s team group lanes := by
  simp [itemsMayGo, h]
/-- Both copies wait for a commit at the same place; where `sig` differs, their signatures do. -/
def twins (sig : Nat) : State :=
  let s := stand (.nop (wd 0 0)) commits fun t => { t with paired := true }
  let t := teamOf s 0
  let other := fun (h : Thread) => { h with sig := BitVec.ofNat 64 sig, repc := some 0 }
  let restart := fun (f : Thread → Thread) => { t with groups := t.groups.map fun g => (g.1, { g.2 with threads := g.2.threads.map f }) }
  { s with teams := [(0, restart fun h => { h with sig := 1, repc := some 0 }), (copyOne, { restart other with copy1 := true })] }
theorem witness_twins : ∀ n ∈ [1, 2], let s := twins n
    (commitSet s 0 0 0).isSome = true ∧ (teamOf s 0).items = [] ∧ (teamOf s 0).paired = true ∧ ((teamOf s 0).group 0).partly = false ∧ ((teamOf s 0).group 0).mismatch = (0, 0) ∧
    ((teamOf s 0).group 0).restartable = true ∧ ((teamOf s copyOne).group 0).restartable = true ∧
    ((commitSet s 0 0 0).all fun ls => ls.all fun l => (((teamOf s 0).group 0).thread l).sig == (((teamOf s copyOne).group 0).thread l).sig) = (n == 1) := by decide +kernel
theorem witness_watchdog : let s := stand (.nop (wd 0 0)) fun g => g.setWait 0 .copies
    watchdogRuns s 0 0 = true ∧ watchdogPath s ((teamOf s 0).group 0) = some 0 ∧ (teamOf s 0).paired = false ∧
    watchdogRuns (modDie s 0 fun d => { d with wdog := 0 }) 0 0 = false := by decide +kernel
theorem witness_preempt : let s := stand (.nop (wd 0 0))
    bitB (dieOf s 0).preempt 31 = false ∧ teamInSlot s (0 * 2048 + 0 % 2048) = some 0 ∧ (teamOf s 0).loc = .resident ∧
    teamInSlot s (0 * 2048 + 2047 % 2048) = none ∧ bitB (dieOf (modDie s 0 fun d => { d with preempt := 2 ^ 31 }) 0).preempt 31 = true := by decide +kernel
theorem witness_saves : let s := stand (.nop (wd 0 0)) id fun t => { t with loc := .saving }
    (teamOf s 0).loc = .saving ∧ drained s 0 = true ∧ drained { s with copies := [(9, copy0)] } 0 = false := by decide +kernel

/-! The control window, the host and the links. -/

def busy (s : State) : State := { s with ctl := { s.ctl with service := 2 ^ 31 } }
theorem witness_service : bitB ground.ctl.bootstat 1 = false ∧ ground.ctl.fatal = false ∧ serviceBusy ground = false ∧ serviceBusy (busy ground) = true ∧
    serviceOver (busy ground) = true ∧ bitB ground.ctl.hmode 1 = false ∧ 2 * banksPerStack - 1 < 2 * banksPerStack := by decide +kernel
/-- A port trains while a lane of it is served. -/
theorem witness_service_goes_on : let s := { ground with ctl := { ground.ctl with service := 2 ^ 31 + 2 ^ 26 + 12 }, ports := [(3, { st := 2 })] }
    serviceBusy s = true ∧ serviceOver s = false := by decide +kernel
theorem witness_lanes : let s := { ground with ports := [(17, { st := 1, out := [3] })] }
    (portOf s (71 / 4)).out.contains (71 % 4) = true ∧ (portOf s (70 / 4)).out.contains (70 % 4) = false ∧ 71 / 4 < 18 ∧ (portOf s 17).st = 1 ∧
    (portOf s 17).width ≠ 0 := by decide +kernel
theorem witness_vbus_lanes (lane : Nat) : (dieOf ground (dieOfCore (Config.laneCore lane % Config.cores))).vbusOut.contains lane = false := rfl
theorem witness_classes : classesOk ((dieOf ground 0).classes.set 7 (classFields (8 * 2 ^ 8 + 8))) = true ∧
    classesOk ((dieOf ground 0).classes.set 7 (classFields (8 * 2 ^ 8 + 9))) = false := by decide +kernel
theorem witness_banks : (dieOf ground ((2 * banksPerStack - 1) / banksPerStack)).deadBanks.contains ((2 * banksPerStack - 1) % banksPerStack) = false ∧
    (let s := modDie ground 1 fun d => { d with hotBanks := [7], deadBanks := [7] }; (dieOf s ((banksPerStack + 7) / banksPerStack)).hotBanks.contains 7 = true) := by decide +kernel
theorem witness_attestation : ground.ctl.attest = none ∧ ({ ground with ctl := { ground.ctl with attest := some 3 } } : State).ctl.attest = some 3 := by decide +kernel
theorem witness_registers : (0x3000000 : Nat) ≤ 0x3000000 ∧ 4 % 8 ≠ 0 ∧ 63 < 64 := by decide
/-- GNODE 3 names the node at 0x1000, which the bridge may use. -/
def nodePort : State := { node 1 3 ground with gnodes := [(3, 0x1000)] }
theorem witness_graph_port : portNode (touched nodePort) 3 = some (0x1000, 0x15000) ∧ portNode (touched nodePort) 2 = none := by decide +kernel
/-- The same port, and the notification buffer of its node's slice is full. -/
def fullPort : State :=
  { nodePort with notifs := (List.range (Config.notifRoom + 1)).map fun i => (i, { die := 0, cid := 0, icn := 0, va := 0, pa := 0x15000 }) }
theorem witness_graph_port_waits : portNode (touched fullPort) 3 = some (0x1000, 0x15000) ∧ notifyStalls (touched fullPort) 0x15000 = true ∧
    notifyStalls (touched nodePort) 0x15000 = false := by
  have h : (touched nodePort).notifs = [] := by decide +kernel
  refine ⟨by decide +kernel, ?_, by simp [notifyStalls, h]⟩
  simp only [notifyStalls, touched, fullPort, List.filter_map, Function.comp_def, beq_self_eq_true, List.length_map, decide_eq_true_eq]
  exact Nat.le_of_eq (by rw [List.filter_eq_self.mpr fun _ _ => rfl, List.length_range])
/-- The debug window opens at address 0: offset 0x1000 is normal memory, one at 0x4000 is not mapped. -/
theorem witness_debug : (match debugCheck (touched ground) 0x1000 8 .read with
    | .place p => (match readPlace (touched ground) (whoHost (touched ground)) p 8 with | (_, .bytes _) => true | _ => false)
    | _ => false) = true ∧ debugCheck ground 0x1000 8 .write = .place (.normal 0x15000) ∧
    (writePlace ground (whoHost ground) (.normal 0x15000) (toBytes 8 5) .nl1).2 = 0 ∧ (match debugCheck ground 0x4000 8 .write with | .reject _ => true | _ => false) = true ∧
    (match debugCheck (touched ground) 0x4000 8 .read with | .place _ => false | _ => true) = true := by decide +kernel
/-- HWIN names an incarnation that is over. -/
theorem witness_debug_stale : debugCheck { ground with ctl := { ground.ctl with hwin := 1 }, tlb := [] } 0x1000 8 .write = .stale := by decide +kernel
/-- The only port to the device of a remote page is in Recovery. -/
theorem witness_debug_waits : debugCheck (touched (remotePage ground)) 0x4000 8 .read = .waits ∧
    debugCheck (remotePage ground) 0x4000 8 .write = .waits := by decide +kernel
theorem witness_host_reads : (2 ^ 26 - 8) % 8 = 0 ∧ (2 ^ 26 - 8) + 8 ≤ 2 ^ 26 ∧ ground.ctl.fatal = false ∧ (4 : Nat) ≠ 0 ∧ (4 : Nat) ≠ 2 := by decide +kernel
/-- Port 17 is Active; device 9 may use CID 5 as context 0. -/
def linked : State := { ground with ports := [(17, { st := 1 })], ctl := { ground.ctl with imports := [(0, 2 ^ 63 + 9 * 2 ^ 16 + 5)] }, acl := ground.acl.map fun e => (e.1, { e.2 with mclass := 8 }) }
theorem witness_peers : (portOf linked 17).st = 1 ∧ linked.ctl.fatal = false ∧ 0x15000 % 8 = 0 ∧ importOf linked 9 5 = some 0 ∧ importOf linked 9 6 = none ∧
    dropped linked (96 + 17) 0 0 = false ∧ dropped linked (sliceOf 0x15000) 0 0 = false ∧ dropped linked (96 + 17) 0 0 = false ∧
    (match readNormal linked (whoPeer 17 0 0) 0x15000 8 .nl1 with | (_, .bytes _) => true | _ => false) = true := by decide +kernel
theorem witness_peer_stale : importOf { linked with ctl := { linked.ctl with imports := [(0, 2 ^ 63 + 5 * 2 ^ 32 + 9 * 2 ^ 16 + 5)] } } 9 5 = some 5 ∧ dropped linked (96 + 17) 5 0 = true := by decide +kernel
theorem witness_ports : ∀ k ∈ [0, 1, 2], let s := { ground with ports := [(17, { st := k })] }
    (portOf s 17).st = k ∧ (portOf s 17).width ≠ 0 := by decide +kernel
/-- Eleven modules of mortar are out. -/
theorem witness_mortar : (insertNat 11 ({ ground with mortarOut := List.range 11 } : State).mortarOut).length = 12 ∧ (insertNat 0 ground.mortarOut).length ≠ 12 ∧
    ground.ctl.fatal = false := by decide +kernel
/-- The team waits at a barrier while a surface operation of it is on its way. -/
def awaitsBus (due : Bool) : State := modDie { stand (.nop (wd 0 0)) (fun g => g.setWait 0 (.barrier 2 0 0 5)) with sfops := [(9, store0)] } 0 fun d => { d with vbusDue := due }
theorem witness_vbus : ∀ due ∈ [false, true], busAwaited (awaitsBus due) 0 = true ∧ (dieOf (awaitsBus due) 0).vbusDue = due ∧ busAwaited ground 0 = false := by decide +kernel
theorem witness_lines : inHbm (128 * 0) = true ∧ (ground.l1.filter fun e => e.2.dirty && e.1 % 2 ^ 52 / 128 == 0) = [] := by decide +kernel
def image0 : Firmware := {}
theorem witness_boot : State.reset.ctl.bootstat = 0 ∧ mfind 0 State.reset.flash = none ∧ mfind 0 ({ State.reset with flash := [(0, image0)] } : State).flash = some image0 ∧
    ({ State.reset with ctl := { State.reset.ctl with bootstat := 1 } } : State).ctl.bootstat = 1 := by decide +kernel
theorem witness_decoding_faults : (runOf (stand (.nop (wd 0 0)))).isSome = true ∧ isLocal (0xF0 * 2 ^ 48) = true := by decide +kernel

/-! ## Results that the spec works out -/

/-- Lane 0 of v-registers as given. -/
def vIn (rs : List (Nat × Word)) (g : Group) : Group := rs.foldl (fun g r => g.setV r.1 0 (.ok r.2)) g
/-- What lane 0 of a v-register and the sticky flags hold after the instruction. -/
def gives (i : Instr) (rs : List (Nat × Word)) (n : Nat) (x : Word) (fl : Nat := 0) : Bool :=
  let g := ran i (vIn rs)
  g.getV n 0 == .ok x && (fl == 99 || g.fflags.toNat == fl)

/-- What holds of the group after the instruction. -/
def leaves (i : Instr) (g : Group → Group) (p : Group → Bool) : Bool := p (ran i g)

/-- Table 4.6. -/
theorem test_shifts : gives (.shl (std 1 2 (c := .imm 33) (ty := .n32))) [(2, 3)] 1 6 = true ∧
    gives (.shl (std 1 2 (c := .imm 33) (ty := .n32) (f := 1))) [(2, 3)] 1 0 = true ∧
    gives (.shr (std 1 2 (c := .imm 0xFF) (ty := .n32))) [(2, 0x80000000)] 1 1 = true ∧
    gives (.sra (std 1 2 (c := .imm 0xFF) (ty := .i32) (f := 1))) [(2, 0x80000000)] 1 0xFFFFFFFF = true ∧
    gives (.rot (std 1 2 (c := .imm 4) (ty := .n32) (f := 1))) [(2, 0x12)] 1 0x20000001 = true := by decide +kernel
theorem test_saturates : gives (.iabs (std 1 2 (ty := .i32))) [(2, 0x80000000)] 1 0x80000000 = true ∧
    gives (.iabs (std 1 2 (ty := .i32) (sat := true))) [(2, 0x80000000)] 1 0x7FFFFFFF = true ∧
    gives (.iadd (std 1 2 (c := .imm 1) (ty := .i32) (sat := true))) [(2, 0x7FFFFFFF)] 1 0x7FFFFFFF = true ∧
    gives (.isub (std 1 2 (c := .imm 5) (ty := .n32) (sat := true))) [(2, 3)] 1 0 = true ∧
    gives (.imulhi (std 1 2 (c := .imm 2) (ty := .i32))) [(2, 0xFFFFFFFF)] 1 0xFFFFFFFF = true ∧
    gives (.imulhi (std 1 2 (c := .imm 2) (ty := .n32))) [(2, 0xFFFFFFFF)] 1 1 = true := by decide +kernel
theorem test_bit_fields : gives (.clz (std 1 2 (ty := .n64))) [] 1 0x40 = true ∧
    gives (.bfe (std 1 2 (c := .imm 8) (e := .imm 4) (ty := .i32))) [(2, 0xF00)] 1 0xFFFFFFFF = true ∧
    gives (.bfe (std 1 2 (c := .imm 30) (e := .imm 8) (ty := .i32))) [(2, 0x80000000)] 1 0xFFFFFFFE = true ∧
    gives (.bfi (std 1 2 (c := .imm 28) (e := .imm 8) (ty := .n32))) [(2, 0xAB)] 1 0xB0000000 = true ∧
    gives (.bpick (std 1 2 (c := .v 4) (e := .v 3) (ty := .n32))) [(2, 0x44332211), (4, 0x88776655), (3, 0x3704)] 1 0x44881155 = true ∧
    gives (.bpick (std 1 2 (c := .v 4) (e := .v 3) (ty := .n32))) [(2, 0x44332211), (4, 0x88776655), (3, 0x3A70)] 1 0x44FF8811 = true := by decide +kernel
/-- Table 4.4: the first and the last addition. -/
theorem test_iaddc : leaves (.iaddc (std 8 0 (c := .v 4) (e := .imm 1) (ty := .n32))) (vIn [(0, 0xFFFFFFFF), (4, 1)]) (fun g =>
      g.getV 8 0 == .ok 0 && g.getP 1 0 == .ok true) = true ∧
    leaves (.iaddc (std 10 2 (c := .v 6) (e := .imm 1) (ty := .n32))) (fun g => (vIn [(2, 1)] g).setP 1 0 (.ok true)) (fun g =>
      g.getV 10 0 == .ok 2 && g.getP 1 0 == .ok false) = true := by decide +kernel
/-- Table 4.5: poison in the first operand poisons the sum and the carry. -/
theorem test_iaddc_poison : leaves (.iaddc (std 8 0 (c := .v 4) (e := .imm 1) (ty := .n32))) (fun g => g.setV 0 0 (.bad 0x01881004)) (fun g =>
    g.getV 8 0 == .bad 0x01881004 && g.getP 1 0 == .bad 0x01881004) = true := by decide +kernel

def f2 (f : BitVec 4 := 0) (rnd : Rnd := .rne) (sat : Bool := false) : Std := std 1 2 (c := .v 3) (ty := .f32) (f := f) (rnd := rnd) (sat := sat)
def f1 (f : BitVec 4 := 0) : Std := std 1 2 (ty := .f32) (f := f)
/-- Table 6.6. -/
theorem test_float_zeros : gives (.fadd (f2)) [(3, 0x80000000)] 1 0 = true ∧ gives (.fadd (f2 0 .rm)) [(3, 0x80000000)] 1 0x80000000 = true ∧
    gives (.fmin (f2)) [(2, 0x80000000)] 1 0x80000000 = true ∧ gives (.fmax (f2)) [(2, 0x7F800001), (3, 0x40000000)] 1 0x40000000 16 = true := by
  decide +kernel
theorem test_fcmp : leaves (.fcmp (std 0 2 (c := .v 3) (ty := .f32) (f := 1))) (vIn [(2, 0x7FC00000), (3, 0x3F800000)]) (fun g =>
      g.getP 0 0 == .ok true && g.fflags == 0) = true ∧
    leaves (.fcmp (std 0 2 (c := .v 3) (ty := .f32) (f := 2))) (vIn [(2, 0x7FC00000), (3, 0x3F800000)]) (fun g =>
      g.getP 0 0 == .ok false && g.fflags == 16) = true := by decide +kernel
theorem test_fround : gives (.fround (f1)) [(2, 0xBF000000)] 1 0x80000000 = true ∧ gives (.fround (f1 1)) [(2, 0x40200000)] 1 0x40000000 1 = true := by
  decide +kernel
theorem test_fldexp : gives (.fldexp (std 1 2 (c := .imm 0x7F) (ty := .f32))) [(2, 0x40000000)] 1 0x7F800000 5 = true ∧
    gives (.fldexp (std 1 2 (c := .imm 0x7F) (ty := .f32) (sat := true))) [(2, 0x40000000)] 1 0x7F7FFFFF 5 = true := by decide +kernel
theorem test_fclass : gives (.fclass (f1)) [(2, 1)] 1 0x80 = true := by decide +kernel
theorem test_special_exact : gives (.frsq (f1)) [(2, 0x80000000)] 1 0xFF800000 8 = true ∧ gives (.fsin (f1)) [(2, 0x3E800000)] 1 0x3F800000 = true ∧
    gives (.fcos (f1)) [(2, 0x4B800001)] 1 0x3F800000 = true := by decide +kernel
theorem test_packed : gives (.pkop (std 1 2 (c := .v 3) (ty := .f16))) [(2, 0x7BFF3C00), (3, 0x3C003C00)] 1 0x7BFF4000 1 = true ∧
    gives (.pkmul (std 1 2 (c := .v 3) (ty := .f16) (f := 4))) [(2, 0x40003C00), (3, 0x42003800)] 1 0x3C004200 = true ∧
    gives (.idp4 (std 1 2 (c := .v 3) (e := .v 4) (ty := .i8))) [(2, 0x7F7F7F7F), (3, 0x7F7F7F7F), (4, 0x7FFFFFFF)] 1 0x8000FC03 = true ∧
    gives (.idp4 (std 1 2 (c := .v 3) (e := .v 4) (ty := .i8) (sat := true))) [(2, 0x7F7F7F7F), (3, 0x7F7F7F7F), (4, 0x7FFFFFFF)] 1 0x7FFFFFFF = true ∧
    gives (.lmul (std 1 2 (c := .v 3) (e := .imm 0) (ty := .f32))) [(2, 0x11), (3, 0x11)] 1 0x3FB50500 = true := by decide +kernel
def cvt (d : NumType) (s : BitVec 4) (sat : Bool := false) : Instr := .cvt (std 1 2 (e := .imm 0) (ty := d) (f := s) (sat := sat))
theorem test_cvt : gives (cvt .i32 4) [(2, 0x4F32D05E)] 1 0x7FFFFFFF 16 = true ∧ gives (cvt .f16 4) [(2, 0x477FF000)] 1 0x7C00 5 = true ∧
    gives (cvt .n8 0) [(2, 0xFFFFFFFB)] 1 0xFB = true ∧ gives (cvt .n8 0 true) [(2, 0xFFFFFFFB)] 1 0 99 = true ∧
    gives (.cvt (std 5 6 (e := .imm 2) (ty := .e4m3) (f := 4) (sat := true))) [(6, 0x447A0000), (5, 0x11111111)] 5 0x117E1111 5 = true ∧
    gives (.cvt (std 5 6 (e := .imm 2) (ty := .e4m3) (f := 4))) [(6, 0x447A0000), (5, 0x11111111)] 5 0x117F1111 5 = true := by decide +kernel
/-- Table 6.5: a hard quotient by zero, and zero by zero. -/
theorem test_fdivfix : gives (.fdivfix (std 4 0 (c := .v 1) (e := .v 3) (ty := .f32))) [(0, 0x3F800000), (1, 0x40400000), (3, 0x3EAAAAAA)] 4 0x3EAAAAAB 99 = true ∧
    gives (.fdivfix (std 4 0 (c := .v 1) (e := .v 3) (ty := .f32))) [(0, 0x3F800000), (3, 0x7F800000)] 4 0x7F800000 99 = true := by decide +kernel
/-- Table 5.8: the pairwise tree, not the order of the lanes, decides. -/
theorem test_fredux_tree : leaves (.fredux (std 4 5 (ty := .f32))) (fun g =>
      (((g.setV 5 0 (.ok 0x4B800000)).setV 5 1 (.ok 0x3F800000)).setV 5 2 (.ok 0x3F800000)).setV 5 3 (.ok 0xCB800000)) (fun g =>
    g.getS 4 == .ok 0x3F800000 && g.fflags == 1) = true := by decide +kernel
/-- Table 3.8: lane 1 takes the token of lane 17. -/
theorem test_lxch_poison : leaves (.lxch (std 8 9 (c := .imm 16) (e := .imm 32) (ty := .n32) (f := 3))) (fun g =>
      (g.setV 9 17 (.bad 0x01881004)).setV 9 16 (.ok 16)) (fun g =>
    g.getV 8 1 == .bad 0x01881004 && g.getV 8 0 == .ok 16) = true := by decide +kernel
/-- Table 8.5: bra takes the odd lanes, whose p1 is true, to the target, and the even lanes go on. -/
theorem test_bra_diverges : leaves (.bra (imm 0 0 0x18 (some ⟨false, 1⟩))) (fun g => (g.setP 1 1 (.ok true)).setP 1 31 (.ok true)) (fun g =>
    (g.thread 1).pc == 0x18 && (g.thread 31).pc == 0x18 && (g.thread 0).pc == 8 && (g.thread 2).pc == 8) = true := by decide +kernel
theorem test_setmt_none : (ran (.setmt (imm 20 0 0x28))).getV 20 5 = .ok 0xFFFFFFFF ∧ (ran (.setmt (imm 20 0 0x28))).getV 21 5 = .ok 0x00FFFFFF := by
  decide +kernel
/-- Table 7.10: the decrement from 2, and the one that fires and re-arms. -/
theorem test_gdec : let join := fun n => setPhysNat (setPhysNat (setPhysNat ground 0x15000 1 5) 0x15002 2 1) 0x15004 8 (n + 2 ^ 32 * 2)
    (countAtomic (join 2) 0 0 0x1000 0x15000 .dec).2 = (2, 0) ∧ (countAtomic (join 1) 0 0 0x1000 0x15000 .dec).2 = (1, 1) ∧
    physNat (countAtomic (join 1) 0 0 0x1000 0x15000 .dec).1 0x15004 4 = 2 := by decide +kernel
/-- Table 9.5: the copy group's barr.tx gives phase 0 and epoch 0 and leaves one arrival and 256 bytes due. -/
theorem test_barr_tx : (let s := run (.barr (std 6 7 (c := .imm 2) (e := .imm 0) (f := 1))) (stand (.barr (std 6 7 (c := .imm 2) (e := .imm 0) (f := 1))) (fun g => g.putS 7 256) bars)
    (groupAt s 0 0).getS 6 == .ok 0 && ((teamOf s 0).barrier 2).pending == 1 && ((teamOf s 0).barrier 2).tx == 256) = true := by decide +kernel
/-- Table 14.7: element (65, 257) of the record. -/
theorem test_element_address : elemVa ground 3 (0x200000000 + 2 ^ 64 * (7 + 2 ^ 8 * 2) + 2 ^ 128 * (0x46 + 2 ^ 32 * 0x12C + 2 ^ 64 + 2 ^ 96) + 2 ^ 256 * 0xA0) 0 65 257 0 0 =
    0x20000A122 := by decide +kernel
/-- R341: region counts itself in %rec and records where its threads enter. -/
theorem test_region : leaves (.region (wd 0 0)) id (fun g => g.recN == 1 && (g.thread 7).repc == some 4 && (g.thread 7).trec == 1) = true := by decide +kernel
/-- A store reaches the core's own view of memory at once, and a load reads it back. -/
theorem test_store : (let s := run (.st ld1) (stand (.st ld1) fun g => (lane0 (at_ 0x1000 g)).setV 4 0 (.ok 0x12345678))
    (List.range 4).map (fun i => coreByte s 0 (0x15000 + i)) == [0x78, 0x56, 0x34, 0x12]) = true := by decide +kernel
theorem test_load : (groupAt (run (.ld ld1) (setPhysNat (stand (.ld ld1) fun g => lane0 (at_ 0x1000 g)) 0x15000 4 0x12345678)) 0 0).getV 4 0 = .ok 0x12345678 := by
  decide +kernel

/-! ## What is no instruction, and what is not well formed -/

/-- Table 6.7. -/
theorem test_do_not_execute : ([(0x40340102, 0x03000014), (0x40400102, 0x00000044), (0x40430102, 0x00000005), (0x403A0506, 0x00002404),
      (0x403A0506, 0x00042408), (0x403A0506, 0x0000201A), (0x40300102, 0x03008205), (0x403F0102, 0x0300A00A)] : List (Word × Word)).all (fun w =>
    match decodeWords w.1 w.2 with
    | .instr i => !i.wf
    | .illegal _ => true) = true := by decide +kernel
/-- One word for each reason, and one with two: R24's order decides. -/
theorem test_illegal_words : [decodeWords 0x00100405 0, decodeWords 0x40FF0000 0, decodeWords 0 0, decodeWords 0x53100405 0xFD008000,
      decodeWords 0x73100405 0x00008580].map (fun d => match d with
        | .illegal w => some w
        | .instr _ => none) =
    [some .length, some .unassigned, some .unassigned, some .guardBits, some .fields] := by decide +kernel

/-- The fields of an instruction, changed. -/
def changed (i : Instr) (f : Fields → Fields) (p : Fields → Bool) : Bool := i.fields.all fun x => p (f x)
def anAdd : Instr := .iadd (std 4 5 (c := .imm 0xFD) (g := some ⟨true, 3⟩))
theorem smoke_well_formed : anAdd.wf = true ∧ changed anAdd id (fun f => f.lengthOk && f.guardBitsOk && f.guardAllowed && f.fieldsOk && f.instr == some anAdd) = true := by
  decide +kernel
theorem smoke_length : changed anAdd (fun f => { f with x := !f.x }) (fun f => !f.lengthOk) = true := by decide +kernel
theorem smoke_guard_bits : changed anAdd (fun f => { f with ge := false }) (fun f => !f.guardBitsOk) = true := by decide +kernel
theorem smoke_guard_allowed : (Instr.region (wd 0 0 g3)).wf = false ∧ changed (.region (wd 0 0 g3)) id (fun f => !f.guardAllowed) = true := by decide +kernel
theorem smoke_fields : ∀ i ∈ [Instr.iadd (std 4 5 (f := 1)), .iadd (std 4 5 (ty := .f32)), .fmin (f2 0 .rz), .mlease (std 2 0 (c := .imm 65)), .bra (imm 0 0 0x12)],
    i.wf = false ∧ changed i id (fun f => !f.fieldsOk) = true := by decide +kernel
/-- The fields of kwb with F = 1 are those of kwb.all. -/
theorem smoke_other_form : (Instr.kwb (std 1 0 (f := 1))).wf = false ∧ changed (.kwb (std 1 0 (f := 1))) id (fun f => f.instr != some (.kwb (std 1 0 (f := 1)))) = true := by
  decide +kernel

end Sys2Proof.Tests
end

/-!
What the machine holds after reset (02_contexts.md R42, 03_registers.md R66, 16_surfaces.md R279, 20_outside.md R365 to
R377): what each accessor of the state reads at `State.reset`, and from these the reset values that the spec gives.
-/

namespace Sys2Proof.Proofs

open Sys2Proof Sys2Proof.Machine Sys2Proof.Claims Sys2Proof.Laws

/-- An empty map reads its default at every key. -/
@[simp] theorem mget_nil (d : α) (k : Nat) : mget d k ([] : List (Nat × α)) = d := rfl

theorem ctxOf_reset_zero : ctxOf State.reset 0 = { state := 1, flags := 1 } := rfl

theorem ctxOf_reset_of_ne {cid : Nat} (h : cid ≠ 0) : ctxOf State.reset cid = {} := by
  have hctx : State.reset.ctx = mput 0 { state := 1, flags := 1 } [] := rfl
  rw [ctxOf, mget, hctx, mfind_mput_ne h, mfind_nil, Option.getD_none]

theorem coreOf_reset (core : Nat) : coreOf State.reset core = {} := mget_nil _ core

theorem dieOf_reset (die : Nat) : dieOf State.reset die = {} := mget_nil _ die

theorem ctl_reset : State.reset.ctl = {} := rfl

/-- Context 0 alone is LIVE, and every context has ICN 0 (R42). -/
theorem contexts_reset : (ctxOf State.reset 0).state = 1 ∧ (ctxOf State.reset 0).icn = 0 ∧
    ∀ cid, cid ≠ 0 → (ctxOf State.reset cid).state = 0 ∧ (ctxOf State.reset cid).icn = 0 := by
  refine ⟨by rw [ctxOf_reset_zero], by rw [ctxOf_reset_zero], fun cid h => ?_⟩
  rw [ctxOf_reset_of_ne h]
  exact ⟨rfl, rfl⟩

/-- The clock of every core starts at 0 (R66). -/
theorem clock_reset (core : Nat) : (coreOf State.reset core).clock = 0 := by rw [coreOf_reset]

/-- The remap generation of every die starts at 0 (R279). -/
theorem remapGen_reset (die : Nat) : (dieOf State.reset die).remapGen = 0 := by rw [dieOf_reset]

/-- No device has a route (R366). -/
theorem route_reset (d : Nat) : mget 0 d State.reset.ctl.route = 0 := by rw [ctl_reset, mget_nil]

/-- No import is valid: an import register that nothing has written reads 0, so its bit 63 (R367) is clear. -/
theorem import_reset (k : Nat) : bitB (mget 0 k State.reset.ctl.imports) 63 = false := by
  rw [ctl_reset, mget_nil]
  decide

theorem asReset_reset : asReset State.reset := by
  obtain ⟨live0, icn0, others⟩ := contexts_reset
  have devno : State.reset.ctl.devno = 0 := by rw [ctl_reset]
  have power : State.reset.ctl.power = 2200 := by rw [ctl_reset]
  exact ⟨live0, icn0, others, clock_reset, remapGen_reset, devno, route_reset, import_reset, power⟩

/-- Settles O5: each accessor reads its reset value, and the memory of reset is in canonical form (`wf_reset`). -/
theorem resetState : Obligations.ResetState := ⟨asReset_reset, wf_reset⟩

end Sys2Proof.Proofs

/-!
Family 03: moves, special registers, predicate logic, and what lanes exchange and reduce (03_registers.md R65 to R67, R74
to R77; 05_formats.md R105; 06_float.md R120). An instruction that writes registers alone is its checks around one form
of result, so a rule for each form settles its statement once the form is read off the instruction's meaning.
-/

namespace Sys2Proof.Proofs

open Sys2Proof Sys2Proof.Machine Sys2Proof.Safety Sys2Proof.Claims Sys2Proof.Laws

/-! ## From the meaning of an instruction to what it writes -/

/-- Where the path issues an instruction whose meaning is its checks around an operation, exec answers that operation. -/
theorem exec_of_issue {i : Instr} {s : State} {r : Run} {k : Run → State} (h : issueOf i s = some r)
    (he : exec i s = .next (gate i s k (extraReads i) (exemptReads s i))) : exec i s = .next (k r) := by
  rw [he, gate_issue h]

theorem writesRegs_of_gate {i : Instr} {k : Run → State} {regs : Run → Regs}
    (he : ∀ s, exec i s = .next (gate i s k (extraReads i) (exemptReads s i)))
    (hw : ∀ s r, Good s r → wrote r s (k r) (regs r)) : writesRegs i regs :=
  fun s r h => ⟨k r, exec_of_issue h (he s), hw s r (issueOf_good h)⟩

section Forms
variable {i : Instr} {a k : Nat}

theorem writesRegs_lanesV {f : Run → Nat → PV Nat}
    (he : ∀ s, exec i s = .next (gate i s (fun r => r.lanesV a k (f r)) (extraReads i) (exemptReads s i))) :
    writesRegs i fun r => (old r).putV r.act a k (f r) :=
  writesRegs_of_gate he fun _ r hr => wrote_lanesV hr a k (f r)

theorem writesRegs_lanesP {f : Run → Nat → PV Bool}
    (he : ∀ s, exec i s = .next (gate i s (fun r => r.lanesP a (f r)) (extraReads i) (exemptReads s i))) :
    writesRegs i fun r => (old r).putP r.act a (f r) :=
  writesRegs_of_gate he fun _ r hr => wrote_lanesP hr a (f r)

theorem writesRegs_onceS {f : Run → PV Nat}
    (he : ∀ s, exec i s = .next (gate i s (fun r => r.onceS a (f r)) (extraReads i) (exemptReads s i))) :
    writesRegs i fun r => onceIn r a (f r) :=
  writesRegs_of_gate he fun _ r hr => wrote_onceS hr a (f r)

theorem writesRegs_writeS {f : Run → PV Nat}
    (he : ∀ s, exec i s = .next (gate i s (fun r => r.done (r.g.writeS a (f r))) (extraReads i) (exemptReads s i))) :
    writesRegs i fun r => (old r).putS a (f r) :=
  writesRegs_of_gate he fun _ r hr => wrote_writeS hr a (f r)

theorem writesRegs_setQ {f : Run → PV Bool}
    (he : ∀ s, exec i s = .next (gate i s (fun r => r.done (r.g.setQ a (f r))) (extraReads i) (exemptReads s i))) :
    writesRegs i fun r => (old r).putQ a (f r) :=
  writesRegs_of_gate he fun _ r hr => wrote_setQ hr a (f r)

end Forms

/-! ## A move between s-registers (R74, R161) -/

theorem mem_insertNat {k n : Nat} {l : List Nat} : n ∈ insertNat k l ↔ n = k ∨ n ∈ l := by
  induction l with
  | nil => simp [insertNat]
  | cons j l ih =>
    simp only [insertNat]
    split
    · simp
    · split
      · next h => simp [h]
      · simp only [List.mem_cons, ih]
        exact or_left_comm

/-- The group after movU: S[a] has taken S[b], its poison and its pending mark. -/
def moveS (g : Group) (a b : Nat) : Group :=
  let g1 := g.setS a (g.getS b)
  if g.pend.contains b then { g1 with pend := insertNat a g1.pend } else g1

theorem moveS_eq (g : Group) (a b : Nat) : moveS g a b = { g.setS a (g.getS b) with pend := (moveS g a b).pend } := by
  simp only [moveS]
  split <;> rfl

theorem contains_moveS_pend (g : Group) (a b n : Nat) :
    (moveS g a b).pend.contains n = if n = a then g.pend.contains b else g.pend.contains n := by
  rw [Bool.eq_iff_iff]
  by_cases hn : n = a <;> by_cases hb : b ∈ g.pend <;> simp [moveS, Group.setS, mem_insertNat, hn, hb]

theorem map_toNat_map_ofNat (x : PV DWord) : (x.map BitVec.toNat).map (BitVec.ofNat 64) = x := by
  cases x <;> simp [PV.map]

theorem regs_moveS (g : Group) (a b : Nat) :
    Regs.same (regsOf (moveS g a b)) { (regsOf g).putS a ((g.getS b).map BitVec.toNat) with
      pend := fun n => if n = a then (regsOf g).pend b else (regsOf g).pend n } := by
  have hs : (moveS g a b).s = mset (.ok 0) a (g.getS b) g.s := by rw [moveS_eq]; rfl
  have hrest : regsOf (moveS g a b) = { regsOf g with
      s := fun n => mget (.ok 0) n (moveS g a b).s, pend := (moveS g a b).pend.contains } := by rw [moveS_eq]; rfl
  rw [hrest]
  refine ⟨fun _ _ _ => rfl, fun n => ?_, fun _ _ _ => rfl, fun _ => rfl, rfl, contains_moveS_pend g a b⟩
  simp only [hs, mget_mset, regsOf, Regs.putS, map_toNat_map_ofNat]

theorem wrote_moveS {s : State} {r : Run} (hr : Good s r) (a b : Nat) :
    wrote r s (r.done (moveS r.g a b)) { (old r).putS a ((r.g.getS b).map BitVec.toNat) with
      pend := fun n => if n = a then (old r).pend b else (old r).pend n } :=
  wrote_done hr _ _ (by rw [moveS_eq]; rfl) (by rw [moveS_eq]; rfl) (regs_moveS r.g a b)

theorem moveInstructions_holds : moveInstructions :=
  ⟨fun _ => writesRegs_lanesV fun _ => rfl,
   fun _ => writesRegs_lanesV fun _ => rfl,
   fun _ => writesRegs_lanesV fun _ => rfl,
   fun x => writesRegs_of_gate (fun _ => rfl) fun _ _ hr => wrote_moveS hr x.a.toNat x.b.toNat,
   fun _ => writesRegs_writeS fun _ => rfl,
   fun _ => writesRegs_writeS fun _ => rfl⟩

/-! ## Special registers (R65 to R67) -/

theorem coreOf_modCore_self (s : State) (c : Nat) (f : CoreSt → CoreSt) : coreOf (modCore s c f) c = f (coreOf s c) := by
  simp [coreOf, modCore, mget_mset]

theorem clockIn_teams (r : Run) (n c : Nat) : (clockIn r n c).teams = r.s.teams := by
  unfold clockIn
  split <;> rfl

/-- What a read of a special register does to the path's state: %clock of its core has run on to some value, which is
the one it reads. -/
theorem tickClock_reads (r : Run) (n : Nat) : ∃ c, r.tickClock n = { r with s := clockIn r n c } ∧
    ∀ l, (r.tickClock n).special n l = specialIn r n l c := by
  by_cases h : n = 83
  · subst h
    refine ⟨((coreOf r.s r.t.core).clock + 1 + Config.freeNat r.s.tick 83) % 2 ^ 64, rfl, fun _ => ?_⟩
    exact congrArg CoreSt.clock (coreOf_modCore_self r.s r.t.core _)
  · have hr : r.tickClock n = r := by simp [Run.tickClock, h]
    exact ⟨0, by rw [hr]; simp [clockIn, h], fun l => by rw [hr]; simp [specialIn, h]⟩

/-- A path stays the issuing one in a state with the same teams. -/
theorem good_withState {s u : State} {r : Run} (hr : Good s r) (h : u.teams = s.teams) : Good u { r with s := u } := by
  have hteam : ∀ k, teamOf u k = teamOf s k := fun k => by rw [teamOf, teamOf, h]
  have hgroup : ∀ k g, groupAt u k g = groupAt s k g := fun k g => by rw [groupAt, groupAt, hteam]
  exact
    { state := rfl
      has := by have := hr.has; rwa [hasGroup, ← h, ← hteam] at this
      team := (hteam _).trans hr.team
      rest := by rw [hgroup]; exact hr.rest
      threads := by rw [hgroup]; exact hr.threads
      lanes := hr.lanes
      acts := hr.acts }

theorem good_clockIn {s : State} {r : Run} (hr : Good s r) (n c : Nat) :
    Good (clockIn r n c) { r with s := clockIn r n c } :=
  good_withState hr (by rw [clockIn_teams, hr.state])

theorem srd_reads {x : One} {s : State} {r : Run} (h : issueOf (.srd x) s = some r) :
    ∃ t c, exec (.srd x) s = .next t ∧ wrote r (clockIn r x.b.toNat c) t
      ((old r).putV r.act x.a.toNat (if special64 x.b.toNat then 2 else 1) fun l => .ok (specialIn r x.b.toNat l c)) := by
  obtain ⟨c, hrun, hval⟩ := tickClock_reads r x.b.toNat
  have hexec : exec (.srd x) s = .next ((r.tickClock x.b.toNat).lanesV x.a.toNat (if special64 x.b.toNat then 2 else 1)
      fun l => .ok ((r.tickClock x.b.toNat).special x.b.toNat l)) := exec_of_issue h rfl
  simp only [hval] at hexec
  rw [hrun] at hexec
  exact ⟨_, c, hexec, wrote_lanesV (good_clockIn (issueOf_good h) x.b.toNat c) _ _ _⟩

theorem ssr_reads {x : One} {s : State} {r : Run} (h : issueOf (.ssr x) s = some r) :
    ∃ t c, exec (.ssr x) s = .next t ∧ wrote r (clockIn r x.b.toNat c) t
      ((old r).putS x.a.toNat (.ok (specialIn r x.b.toNat 0 c))) := by
  obtain ⟨c, hrun, hval⟩ := tickClock_reads r x.b.toNat
  have hexec : exec (.ssr x) s = .next ((r.tickClock x.b.toNat).done ((r.tickClock x.b.toNat).g.writeS x.a.toNat
      (.ok ((r.tickClock x.b.toNat).special x.b.toNat 0)))) := exec_of_issue h rfl
  rw [hval, hrun] at hexec
  exact ⟨_, c, hexec, wrote_writeS (good_clockIn (issueOf_good h) x.b.toNat c) _ _⟩

theorem writeSpecial_eq_swrIn (g : Group) (n v : Nat) : g.writeSpecial n v = swrIn g n v := by
  simp only [Group.writeSpecial, swrIn, beq_iff_eq]

theorem swrIn_threads (g : Group) (n v : Nat) : (swrIn g n v).threads = g.threads := by
  simp only [swrIn]
  split
  · rfl
  · split <;> rfl

theorem passed_done {s : State} {r : Run} (hr : Good s r) {g : Group} (h : g.threads = r.g.threads) :
    passed r s (r.done g) g := by
  unfold Run.done
  rw [hr.state]
  exact doneIn_passed g hr.has fun l hl => by rw [h]; exact (hr.lanes l hl).2

theorem exec_swr {x : One} {s : State} {r : Run} (h : issueOf (.swr x) s = some r) :
    exec (.swr x) s = .next (match r.g.getS x.b.toNat with
      | .bad t => r.raise t
      | .ok v => r.done (r.g.writeSpecial x.a.toNat (v.toNat % 2 ^ 32))) := exec_of_issue h rfl

theorem swr_writes {x : One} {s : State} {r : Run} {v : DWord} (h : issueOf (.swr x) s = some r)
    (hv : r.g.getS x.b.toNat = .ok v) :
    ∃ t, exec (.swr x) s = .next t ∧ passed r s t (swrIn r.g x.a.toNat (v.toNat % 2 ^ 32)) := by
  refine ⟨r.done (swrIn r.g x.a.toNat (v.toNat % 2 ^ 32)), ?_, passed_done (issueOf_good h) (swrIn_threads ..)⟩
  rw [exec_swr h, hv, ← writeSpecial_eq_swrIn]

theorem specialRegisters_holds : specialRegisters :=
  ⟨fun _ _ _ h => srd_reads h, fun _ _ _ h => ssr_reads h, fun _ _ _ _ h hv => swr_writes h hv,
   fun _ _ _ _ h hv => by rw [exec_swr h, hv]⟩

/-- Settles O11: the moves by their forms of result, the special registers by what a read does to %clock. -/
theorem movesAndSpecialRegisters : Obligations.MovesAndSpecialRegisters :=
  ⟨moveInstructions_holds, specialRegisters_holds⟩

/-! ## Predicate logic (R77) -/

theorem predicateLogic_holds : predicateLogic :=
  ⟨fun _ => writesRegs_lanesP fun _ => rfl,
   fun _ => writesRegs_setQ fun _ => rfl,
   fun _ => writesRegs_lanesP fun _ => rfl,
   fun _ => writesRegs_lanesP fun _ => rfl⟩

/-! ## Lane crossing (R75, R76) -/

theorem rdlane_writes (x : Std) : writesRegs (.rdlane x) fun r => onceIn r x.a.toNat
    (match r.g.operand x.c 32 0 with
    | .bad t => .bad t
    | .ok k => r.g.acrossV r.s.tick r.lanes x.b.toNat (k % 32) x.ty.regs) := by
  refine writesRegs_of_gate (fun _ => rfl) fun s r hr => ?_
  simp only [Run.src]
  cases r.g.operand x.c 32 0 with
  | bad t => exact wrote_onceS hr _ _
  | ok k => exact wrote_onceS hr _ _

/-- A result written in one lane, if that lane is active. -/
theorem regs_writeLane (r : Run) {j : Nat} (hj : j < 32) (a k : Nat) (x : PV Nat) :
    Regs.same (regsOf (if r.act.contains j then r.g.writeV a j k x else r.g))
      ((regsOf r.g).putV (r.act.filter (· == j)) a k fun _ => x) := by
  by_cases h : j ∈ r.act
  · rw [if_pos (by simpa using h), regs_onlyV (onlyV_writeV r.g a j k x)]
    refine ⟨fun n l hl => ?_, fun _ => rfl, fun _ _ _ => rfl, fun _ => rfl, rfl, fun _ => rfl⟩
    have hmem : l ∈ r.act.filter (· == j) ↔ l = j := by
      simp only [List.mem_filter, beq_iff_eq]
      exact ⟨And.right, fun e => ⟨e ▸ h, e⟩⟩
    simp only [Regs.putV, regsOf, getV_writeV _ _ _ _ hl hj, hmem]
  · have hnone : r.act.filter (· == j) = [] := List.filter_eq_nil_iff.2 fun l hl e => h (by simpa using beq_iff_eq.1 e ▸ hl)
    rw [if_neg (by simpa using h), hnone]
    exact ⟨fun n l _ => by simp [Regs.putV], fun _ => rfl, fun _ _ _ => rfl, fun _ => rfl, rfl, fun _ => rfl⟩

theorem wrote_writeLane {s : State} {r : Run} (hr : Good s r) {j : Nat} (hj : j < 32) (a k : Nat) (x : PV Nat) :
    wrote r s (r.done (if r.act.contains j then r.g.writeV a j k x else r.g))
      ((old r).putV (r.act.filter (· == j)) a k fun _ => x) := by
  have honly : onlyV r.g (if r.act.contains j then r.g.writeV a j k x else r.g) := by
    split
    · exact onlyV_writeV r.g a j k x
    · exact onlyV_refl r.g
  exact wrote_done hr _ _ (sameRest_onlyV honly) (threads_onlyV honly) (regs_writeLane r hj a k x)

theorem wrlane_writes (x : Std) : writesRegs (.wrlane x) fun r =>
    match r.g.operand x.c 32 0 with
    | .bad t => (old r).putV r.act x.a.toNat x.ty.regs fun _ => .bad t
    | .ok k => (old r).putV (r.act.filter (· == k % 32)) x.a.toNat x.ty.regs fun _ => r.g.readS x.b.toNat (w x) := by
  refine writesRegs_of_gate (fun _ => rfl) fun s r hr => ?_
  simp only [Run.src]
  cases r.g.operand x.c 32 0 with
  | bad t => exact wrote_lanesV hr _ _ _
  | ok k => exact wrote_writeLane hr (Nat.mod_lt k (by decide)) _ _ _

/-- match with F 0 is a result of each active lane. -/
theorem exec_matchv_same {x : Std} (hF : x.f.toNat = 0) (s : State) :
    exec (.matchv x) s = .next (gate (.matchv x) s fun r => r.lanesV x.a.toNat 1 fun l =>
      match ownTok (Claims.acrossAll r x) l with
      | some t => .bad t
      | none => .ok (sameAs (Claims.acrossAll r x) l)) := by
  change execMatchv x s = _
  unfold execMatchv
  rw [hF]
  rfl

/-- match with any other F is a predicate of each active lane. -/
theorem exec_matchv_all {x : Std} (hF : x.f.toNat ≠ 0) (s : State) :
    exec (.matchv x) s = .next (gate (.matchv x) s fun r => r.lanesP x.a.toNat fun l =>
      match ownTok (Claims.acrossAll r x) l with
      | some t => .bad t
      | none => .ok ((Claims.acrossAll r x).all fun v => v == (Claims.acrossAll r x).getD 0 (.ok 0))) := by
  obtain ⟨n, hn⟩ := Nat.exists_eq_succ_of_ne_zero hF
  change execMatchv x s = _
  unfold execMatchv
  rw [hn]
  rfl

/-- The forms of pfold with F below 4 fold the mask into a predicate of each active lane. -/
theorem exec_pfold_pred {x : Std} (hF : x.f.toNat < 4) (s : State) :
    exec (.pfold x) s = .next (gate (.pfold x) s fun r => r.lanesP x.a.toNat fun _ =>
      (Claims.predMask r x).map fun m =>
        match x.f.toNat with
        | 0 => m == 0xFFFFFFFF
        | 1 => m != 0
        | 2 => m == 0 || m == 0xFFFFFFFF
        | _ => popcount 32 m % 2 == 1) := by
  change execPfold x s = _
  unfold execPfold
  generalize x.f.toNat = f at hF
  match f, hF with
  | 0, _ => rfl
  | 1, _ => rfl
  | 2, _ => rfl
  | 3, _ => rfl

theorem predMask_eq (r : Run) (x : Std) : r.predMask x.b = Claims.predMask r x := rfl

theorem map_self (x : PV Nat) : x.map (fun v => v) = x := by
  cases x <;> rfl

/-- The forms of pfold with F from 4 on write the mask or its count once. -/
theorem exec_pfold_once {x : Std} (hF : 4 ≤ x.f.toNat) (s : State) :
    exec (.pfold x) s = .next (gate (.pfold x) s fun r => r.onceS x.a.toNat
      ((Claims.predMask r x).map fun m => if x.f.toNat = 4 then m else popcount 32 m)) := by
  change execPfold x s = _
  unfold execPfold
  generalize x.f.toNat = f at hF
  match f, hF with
  | 4, _ => simp only [if_true, predMask_eq, map_self]
  | n + 5, _ => simp only [show n + 5 ≠ 4 by omega, if_false, predMask_eq]

theorem laneCrossing_holds : laneCrossing :=
  ⟨rdlane_writes, wrlane_writes,
   fun _ => writesRegs_lanesV fun _ => rfl,
   fun _ hF => writesRegs_lanesV (exec_matchv_same hF),
   fun _ hF => writesRegs_lanesP (exec_matchv_all hF),
   fun _ hF => writesRegs_lanesP (exec_pfold_pred hF),
   fun _ hF => writesRegs_onceS (exec_pfold_once hF)⟩

/-! ## Reductions (R75, R105, R120) -/

theorem redux_writes (x : Std) : writesRegs (.redux x) fun r => onceIn r x.a.toNat (combine (Claims.acrossAll r x) fun vs =>
    match vs with
    | [] => 0
    | v :: rest => ext64 x (rest.foldl (reduxOp x.f.toNat x.ty) v)) :=
  writesRegs_onceS fun _ => rfl

/-- The 32 inputs of fredux's tree: each lane's value, and whether the lane is active (R108). -/
def leavesOf (r : Run) (x : Std) : List Node :=
  (Claims.acrossAll r x).mapIdx fun j v => { val := v.val, live := r.act.contains j }

theorem wrote_writeS_orFlags {s : State} {r : Run} (hr : Good s r) (a : Nat) (v : PV Nat) (f : Flags) :
    wrote r s (r.done ((r.g.writeS a v).orFlags f)) (((old r).putS a v).orFlags f) := by
  obtain ⟨hv, hs, hp, hq, hflags, hpend⟩ := regs_writeS r.g a v
  exact wrote_done hr _ _ rfl rfl ⟨hv, hs, hp, hq, congrArg (· ||| f.bits) hflags, hpend⟩

theorem fredux_poisoned {x : Std} {s : State} {r : Run} {tok : Word} (h : issueOf (.fredux x) s = some r)
    (hact : r.act.isEmpty = false) (htok : firstTok (Claims.acrossAll r x) = some tok) :
    ∃ t, exec (.fredux x) s = .next t ∧ wrote r s t ((old r).putS x.a.toNat (.bad tok)) := by
  have hexec := exec_of_issue h rfl
  unfold Claims.acrossAll at htok
  simp only [hact, htok] at hexec
  have hw := wrote_onceS (issueOf_good h) x.a.toNat (.bad tok)
  rw [hact] at hw
  exact ⟨_, hexec, hw⟩

theorem fredux_tree {x : Std} {s : State} {r : Run} {n : Node} {ns : List Node} (h : issueOf (.fredux x) s = some r)
    (hact : r.act.isEmpty = false) (htok : firstTok (Claims.acrossAll r x) = none)
    (htree : treeFold (freduxOp (fmtTy x.ty) x.f.toNat r.g.ftz) 5 (leavesOf r x) = n :: ns) :
    ∃ t, exec (.fredux x) s = .next t ∧ wrote r s t (((old r).putS x.a.toNat (.ok n.val)).orFlags n.flags) := by
  have hexec := exec_of_issue h rfl
  unfold Claims.acrossAll at htok
  unfold leavesOf Claims.acrossAll at htree
  simp only [hact, htok, htree] at hexec
  exact ⟨_, hexec, wrote_writeS_orFlags (issueOf_good h) _ _ _⟩

theorem fredux_inactive {x : Std} {s : State} {r : Run} (h : issueOf (.fredux x) s = some r)
    (hact : r.act.isEmpty = true) : ∃ t, exec (.fredux x) s = .next t ∧ wrote r s t (old r) := by
  have hexec := exec_of_issue h rfl
  simp only [hact] at hexec
  exact ⟨_, hexec, wrote_nothing (issueOf_good h)⟩

theorem reductions_holds : reductions :=
  ⟨redux_writes, fun _ _ _ _ h ha ht => fredux_poisoned h ha ht, fun _ _ _ _ _ h ha ht hn => fredux_tree h ha ht hn,
   fun _ _ _ h ha => fredux_inactive h ha⟩

/-- Settles O12: each instruction by its form of result, pfold and match after a split on F, and fredux after a split on
whether a lane is active and poisoned. -/
theorem predicatesAndLanes : Obligations.PredicatesAndLanes :=
  ⟨predicateLogic_holds, laneCrossing_holds, reductions_holds⟩

end Sys2Proof.Proofs

/-!
Family 04: the integer operations in both domains (04_integer.md R79 to R88). Every form of `IntForm` is its checks around
one result of its sources, per lane or once. A rule for each count of sources carries a form's result from the model's
operation on values to the one the spec gives; what remains of each operation is that equation between values.
-/

namespace Sys2Proof.Proofs

open Sys2Proof Sys2Proof.Machine Sys2Proof.Safety Sys2Proof.Claims Sys2Proof.Laws

/-! ## From the forms of results to `IntForm.runs` -/

/-- A result depends on its operation only at the values of its operands (R69). -/
theorem combine_congr {ops : List (PV Nat)} {f g : List Nat → Nat} (h : f (ops.map PV.val) = g (ops.map PV.val)) :
    combine ops f = combine ops g := by
  unfold combine
  rw [h]

theorem combineB_congr {ops : List (PV Nat)} {f g : List Nat → Bool} (h : f (ops.map PV.val) = g (ops.map PV.val)) :
    combineB ops f = combineB ops g := by
  unfold combineB
  rw [h]

/-- The result as the U-word writes it: as it stands, or extended from the width of the type (R80). -/
def uniResult (o : IntForm) (x : Std) (vs : List Nat) : Nat := if o.wide then o.val x vs else extTy x.ty (o.val x vs)

/-- A form runs where its words apply to the sources, under the checks, operations that give its result at the values
read. -/
theorem runs_of_sources {o : IntForm} {fl fu : Std → List Nat → Nat}
    (hlane : ∀ x s, exec (o.lane x) s = .next (gate (o.lane x) s
      (fun r => r.intL x.a.toNat (o.regs x) (o.laneSrcs r x) (fl x)) (extraReads (o.lane x)) (exemptReads s (o.lane x))))
    (huni : ∀ x s, exec (o.uni x) s = .next (gate (o.uni x) s
      (fun r => r.intU x.a.toNat (o.uniSrcs r x) (fu x)) (extraReads (o.uni x)) (exemptReads s (o.uni x))))
    (hfl : ∀ x r l, fl x ((o.laneSrcs r x l).map PV.val) = o.val x ((o.laneSrcs r x l).map PV.val))
    (hfu : ∀ x r, fu x ((o.uniSrcs r x).map PV.val) = uniResult o x ((o.uniSrcs r x).map PV.val)) : o.runs := by
  refine ⟨fun x => writesRegs_of_gate (hlane x) fun s r hr => ?_, fun x => writesRegs_of_gate (huni x) fun s r hr => ?_⟩
  · have hsame : (fun l => combine (o.laneSrcs r x l) (fl x)) = fun l => combine (o.laneSrcs r x l) (o.val x) :=
      funext fun l => combine_congr (hfl x r l)
    unfold Run.intL
    rw [hsame]
    exact wrote_lanesV hr _ _ _
  · unfold Run.intU
    rw [combine_congr (hfu x r)]
    exact wrote_writeS hr _ _

section Forms
variable {lane uni : Std → Instr} {v : Std → List Nat → Nat}

/-- A form of the source B alone, with `k` result registers per lane. -/
theorem runs_one {k : Std → Nat} {f : Std → Nat → Nat}
    (hlane : ∀ x s, exec (lane x) s = .next (gate (lane x) s
      (fun r => r.intL x.a.toNat (k x) (fun l => [r.srcB x.b x.ty l]) fun | [b] => f x b | _ => 0)
      (extraReads (lane x)) (exemptReads s (lane x))))
    (huni : ∀ x s, exec (uni x) s = .next (gate (uni x) s (fun r => r.u1 x (f x)) (extraReads (uni x))
      (exemptReads s (uni x))))
    (hval : ∀ x b, f x b = v x [b]) : IntForm.runs { lane, uni, cw := none, regs := k, val := v } :=
  runs_of_sources hlane huni (fun x _ _ => hval x _) fun x _ => congrArg (extTy x.ty) (hval x _)

/-- A form of B and of C at a width. -/
theorem runs_two {cw : Std → Nat} {f : Std → Nat → Nat → Nat}
    (hlane : ∀ x s, exec (lane x) s = .next (gate (lane x) s (fun r => r.l2 x (cw x) (f x)) (extraReads (lane x))
      (exemptReads s (lane x))))
    (huni : ∀ x s, exec (uni x) s = .next (gate (uni x) s (fun r => r.u2 x (cw x) (f x)) (extraReads (uni x))
      (exemptReads s (uni x))))
    (hval : ∀ x b c, f x b c = v x [b, c]) : IntForm.runs { lane, uni, cw := some cw, val := v } :=
  runs_of_sources hlane huni (fun x _ _ => hval x _ _) fun x _ => congrArg (extTy x.ty) (hval x _ _)

/-- A form of B, and of C and E at widths. -/
theorem runs_three {cw ew : Std → Nat} {f : Std → Nat → Nat → Nat → Nat}
    (hlane : ∀ x s, exec (lane x) s = .next (gate (lane x) s (fun r => r.l3 x (cw x) (ew x) (f x)) (extraReads (lane x))
      (exemptReads s (lane x))))
    (huni : ∀ x s, exec (uni x) s = .next (gate (uni x) s (fun r => r.u3 x (cw x) (ew x) (f x)) (extraReads (uni x))
      (exemptReads s (uni x))))
    (hval : ∀ x b c e, f x b c e = v x [b, c, e]) : IntForm.runs { lane, uni, cw := some cw, ew := some ew, val := v } :=
  runs_of_sources hlane huni (fun x _ _ => hval x _ _ _) fun x _ => congrArg (extTy x.ty) (hval x _ _ _)

end Forms

/-! ## Arithmetic (R82, R83) -/

/-- The clamp of the model is the one to the bounds of the type. -/
theorem resultOf_eq_sized (x : Std) (v : Int) : resultOf x.ty x.sat v = sized x v := by
  unfold resultOf sized clampTo
  cases signedTy x.ty <;> rfl

/-- imadw, whose widths and registers are its own, is given by its sources; each of the others by their count. -/
theorem integerArithmetic_holds : integerArithmetic := by
  unfold integerArithmetic arithmetic
  simp only [List.forall_mem_cons]
  exact ⟨runs_two (f := fun x => iaddOf x.ty x.sat) (fun _ _ => rfl) (fun _ _ => rfl) fun x _ _ => resultOf_eq_sized x _,
    runs_two (f := fun x => isubOf x.ty x.sat) (fun _ _ => rfl) (fun _ _ => rfl) fun x _ _ => resultOf_eq_sized x _,
    runs_two (f := fun x => imulOf x.ty.bits) (fun _ _ => rfl) (fun _ _ => rfl) fun _ _ _ => rfl,
    runs_two (f := fun x => imulhiOf x.ty) (fun _ _ => rfl) (fun _ _ => rfl) fun _ _ _ => rfl,
    runs_three (f := fun x => imadOf x.ty.bits) (fun _ _ => rfl) (fun _ _ => rfl) fun _ _ _ _ => rfl,
    runs_of_sources (fun _ _ => rfl) (fun _ _ => rfl) (fun _ _ _ => rfl) fun _ _ => rfl,
    runs_one (f := fun x => iabsOf x.ty x.sat) (fun _ _ => rfl) (fun _ _ => rfl) fun x _ => resultOf_eq_sized x _,
    runs_one (f := fun x => inegOf x.ty x.sat) (fun _ _ => rfl) (fun _ _ => rfl) fun x _ => resultOf_eq_sized x _,
    runs_two (f := fun x => iminOf x.ty) (fun _ _ => rfl) (fun _ _ => rfl) fun _ _ _ => rfl,
    runs_two (f := fun x => imaxOf x.ty) (fun _ _ => rfl) (fun _ _ => rfl) fun _ _ _ => rfl,
    fun _ h => absurd h List.not_mem_nil⟩

/-! ## Carries (R82, R88) -/

theorem same_putP {a b : Regs} (h : Regs.same a b) (ls : List Nat) (n : Nat) (f : Nat → PV Bool) :
    Regs.same (a.putP ls n f) (b.putP ls n f) := by
  obtain ⟨hv, hs, hp, hq, hflags, hpend⟩ := h
  exact ⟨hv, hs, fun m l hl => by simp only [Regs.putP, hp m l hl], hq, hflags, hpend⟩

theorem same_putQ {a b : Regs} (h : Regs.same a b) (n : Nat) (y : PV Bool) : Regs.same (a.putQ n y) (b.putQ n y) := by
  obtain ⟨hv, hs, hp, hq, hflags, hpend⟩ := h
  exact ⟨hv, hs, hp, fun m => by simp only [Regs.putQ, hq m], hflags, hpend⟩

/-- A result and then a predicate of each active lane. -/
theorem wrote_lanesV_lanesP {s : State} {r : Run} (hr : Good s r) (a k p : Nat) (f : Nat → PV Nat) (c : Nat → PV Bool) :
    wrote r s (r.done (r.act.foldl (fun g l => g.setP p l (c l)) (r.putLanes a k f)))
      (((old r).putV r.act a k f).putP r.act p c) := by
  have hacts : ∀ l ∈ r.act, l < 32 := fun l hl => (hr.lanes l (hr.acts l hl)).1
  obtain ⟨hrestV, hthreadsV⟩ := rest_putLanes r a k f
  obtain ⟨hrestP, hthreadsP⟩ := rest_putPreds { r with g := r.putLanes a k f } p c
  exact wrote_done hr _ _ (sameRest_trans hrestV hrestP) (hthreadsP.trans hthreadsV)
    (same_trans (regs_putPreds { r with g := r.putLanes a k f } p c hacts) (same_putP (regs_putLanes r a k f hacts) _ _ _))

/-- A result written once in an s-register, and a truth value in a q-register. -/
theorem wrote_writeS_setQ {s : State} {r : Run} (hr : Good s r) (a q : Nat) (v : PV Nat) (c : PV Bool) :
    wrote r s (r.done ((r.g.writeS a v).setQ q c)) (((old r).putS a v).putQ q c) :=
  wrote_done hr _ _ rfl rfl (same_trans (regs_setQ _ q c) (same_putQ (regs_writeS r.g a v) q c))

section Carry
variable {i : Std → Instr} {f : Std → Nat → Nat → Nat → Nat × Bool} {v : Std → List Nat → Nat × Bool}

theorem carryLane_of_carryL
    (he : ∀ x s, exec (i x) s = .next (gate (i x) s (fun r => r.carryL x (f x)) (extraReads (i x)) (exemptReads s (i x))))
    (hval : ∀ x b c e, f x b c e = v x [b, c, e]) : carryLane i v := fun x =>
  writesRegs_of_gate (he x) fun s r hr => by
    have hres : (fun l => combine (carrySrcs r x l) fun | [b, c, e] => (f x b c e).1 | _ => 0) =
        fun l => combine (carrySrcs r x l) fun vs => (v x vs).1 :=
      funext fun _ => combine_congr (congrArg Prod.fst (hval x _ _ _))
    have hcarry : (fun l => combineB (carrySrcs r x l) fun | [b, c, e] => (f x b c e).2 | _ => false) =
        fun l => combineB (carrySrcs r x l) fun vs => (v x vs).2 :=
      funext fun _ => combineB_congr (congrArg Prod.snd (hval x _ _ _))
    rw [← hres, ← hcarry]
    exact wrote_lanesV_lanesP hr _ _ _ _ _

theorem carryUni_of_carryU
    (he : ∀ x s, exec (i x) s = .next (gate (i x) s (fun r => r.carryU x (f x)) (extraReads (i x)) (exemptReads s (i x))))
    (hval : ∀ x b c e, f x b c e = v x [b, c, e]) : carryUni i v := fun x =>
  writesRegs_of_gate (he x) fun s r hr => by
    have hres : (combine (carrySrcsU r x) fun | [b, c, e] => extTy x.ty (f x b c e).1 | _ => 0) =
        combine (carrySrcsU r x) fun vs => ext64 x (v x vs).1 :=
      combine_congr (congrArg (fun y : Nat × Bool => extTy x.ty y.1) (hval x _ _ _))
    have hcarry : (combineB (carrySrcsU r x) fun | [b, c, e] => (f x b c e).2 | _ => false) =
        combineB (carrySrcsU r x) fun vs => (v x vs).2 := combineB_congr (congrArg Prod.snd (hval x _ _ _))
    rw [← hres, ← hcarry]
    exact wrote_writeS_setQ hr _ _ _ _

end Carry

theorem carryChains_holds : carryChains :=
  ⟨carryLane_of_carryL (f := fun x => iaddcOf x.ty.bits) (fun _ _ => rfl) fun _ _ _ _ => rfl,
   carryLane_of_carryL (f := fun x => isubbOf x.ty.bits) (fun _ _ => rfl) fun _ _ _ _ => rfl,
   carryUni_of_carryU (f := fun x => iaddcOf x.ty.bits) (fun _ _ => rfl) fun _ _ _ _ => rfl,
   carryUni_of_carryU (f := fun x => isubbOf x.ty.bits) (fun _ _ => rfl) fun _ _ _ _ => rfl⟩

/-- Settles O8: the arithmetic by the rules for one, two and three sources, the carries by the rule that writes a result
and the carry. -/
theorem integerArithmeticAndCarries : Obligations.IntegerArithmeticAndCarries :=
  ⟨integerArithmetic_holds, carryChains_holds⟩

/-! ## Shifts and rotations (R85) -/

/-- What a shift makes of its distance: under .wrap the count modulo the width; under .clamp the count itself or, past the
width, what is left when everything is shifted out. -/
theorem shiftBy_elim (f w n z : Nat) (g : Nat → Nat) :
    (shiftBy f w n).elim z g = if f = 0 then g (n % w) else if n < w then g n else z := by
  by_cases hwrap : f = 0
  · rw [shiftBy, if_pos hwrap, if_pos hwrap, Option.elim_some]
  · by_cases hin : n < w
    · rw [shiftBy, if_neg hwrap, if_pos hin, if_neg hwrap, if_pos hin, Option.elim_some]
    · rw [shiftBy, if_neg hwrap, if_neg hin, if_neg hwrap, if_neg hin, Option.elim_none]

theorem shlOf_eq (f w b n : Nat) :
    shlOf f w b n = if f = 0 then b * 2 ^ (n % w) % 2 ^ w else if n < w then b * 2 ^ n % 2 ^ w else 0 := by
  have helim : shlOf f w b n = (shiftBy f w n).elim 0 fun k => b * 2 ^ k % 2 ^ w := by
    unfold shlOf
    cases shiftBy f w n <;> rfl
  exact helim.trans (shiftBy_elim f w n _ _)

theorem shrOf_eq (f w b n : Nat) :
    shrOf f w b n = if f = 0 then b / 2 ^ (n % w) else if n < w then b / 2 ^ n else 0 := by
  have helim : shrOf f w b n = (shiftBy f w n).elim 0 fun k => b / 2 ^ k := by
    unfold shrOf
    cases shiftBy f w n <;> rfl
  exact helim.trans (shiftBy_elim f w n _ _)

/-- The operand divided by a power of two and rounded down, as sra shifts it. -/
def sraBy (w b k : Nat) : Nat := wrapInt w (toSigned w b / ((2 ^ k : Nat) : Int))

theorem sraOf_eq (f w b n : Nat) :
    sraOf f w b n = if f = 0 then sraBy w b (n % w) else if n < w then sraBy w b n
      else if bitB b (w - 1) then 2 ^ w - 1 else 0 := by
  have helim : sraOf f w b n = (shiftBy f w n).elim (if bitB b (w - 1) then 2 ^ w - 1 else 0) (sraBy w b) := by
    unfold sraOf
    cases shiftBy f w n <;> rfl
  exact helim.trans (shiftBy_elim f w n _ _)

theorem integerShifts_holds : integerShifts := by
  unfold integerShifts shifts
  simp only [List.forall_mem_cons]
  exact ⟨runs_two (f := fun x => shlOf x.f.toNat x.ty.bits) (fun _ _ => rfl) (fun _ _ => rfl) fun _ => shlOf_eq _ _,
    runs_two (f := fun x => shrOf x.f.toNat x.ty.bits) (fun _ _ => rfl) (fun _ _ => rfl) fun _ => shrOf_eq _ _,
    runs_two (f := fun x => sraOf x.f.toNat x.ty.bits) (fun _ _ => rfl) (fun _ _ => rfl) fun _ => sraOf_eq _ _,
    runs_two (f := fun x => rotOf x.f.toNat x.ty.bits) (fun _ _ => rfl) (fun _ _ => rfl) fun _ _ _ => rfl,
    fun _ h => absurd h List.not_mem_nil⟩

/-! ## Logic and bit fields (R84, R86, R87) -/

/-- blogic, which reads its old destination last, is given by its sources; each of the others by their count. -/
theorem integerLogic_holds : integerLogic := by
  unfold integerLogic logic
  simp only [List.forall_mem_cons]
  exact ⟨runs_two (f := fun _ b c => b &&& c) (fun _ _ => rfl) (fun _ _ => rfl) fun _ _ _ => rfl,
    runs_two (f := fun _ b c => b ||| c) (fun _ _ => rfl) (fun _ _ => rfl) fun _ _ _ => rfl,
    runs_two (f := fun _ b c => b ^^^ c) (fun _ _ => rfl) (fun _ _ => rfl) fun _ _ _ => rfl,
    runs_one (f := fun x b => 2 ^ x.ty.bits - 1 - b) (fun _ _ => rfl) (fun _ _ => rfl) fun _ _ => rfl,
    runs_of_sources (fun _ _ => rfl) (fun _ _ => rfl) (fun _ _ _ => rfl) fun _ _ => rfl,
    fun _ h => absurd h List.not_mem_nil⟩

/-- bfi, which reads its old destination last, and lea, whose base and result are 64 bits wide, are given by their sources;
each of the others by their count. -/
theorem integerBitFields_holds : integerBitFields := by
  unfold integerBitFields bitFields
  simp only [List.forall_mem_cons]
  exact ⟨runs_one (f := fun x => popcount x.ty.bits) (fun _ _ => rfl) (fun _ _ => rfl) fun _ _ => rfl,
    runs_one (f := fun x => clzOf x.ty.bits) (fun _ _ => rfl) (fun _ _ => rfl) fun _ _ => rfl,
    runs_one (f := fun x => ctzOf x.ty.bits) (fun _ _ => rfl) (fun _ _ => rfl) fun _ _ => rfl,
    runs_one (f := fun x => brevOf x.ty.bits) (fun _ _ => rfl) (fun _ _ => rfl) fun _ _ => rfl,
    runs_three (f := fun x => bfeOf x.ty) (fun _ _ => rfl) (fun _ _ => rfl) fun _ _ _ _ => rfl,
    runs_of_sources (fun _ _ => rfl) (fun _ _ => rfl) (fun _ _ _ => rfl) fun _ _ => rfl,
    runs_three (f := fun _ => bpickOf) (fun _ _ => rfl) (fun _ _ => rfl) fun _ _ _ _ => rfl,
    runs_of_sources (fun _ _ => rfl) (fun _ _ => rfl) (fun _ _ _ => rfl) fun _ _ => rfl,
    fun _ h => absurd h List.not_mem_nil⟩

/-- Settles O9: the shifts after a split on .wrap and .clamp; the logic operations and bit fields are the model's
operations on values as they stand. -/
theorem integerShiftsAndBits : Obligations.IntegerShiftsAndBits :=
  ⟨integerShifts_holds, integerLogic_holds, integerBitFields_holds⟩

end Sys2Proof.Proofs
